-- ==== Sys2Proof/Word.lean ====
section
/-! DEFINITION. The word types of the K4804: bytes, the timeline count, the index and number types of
`spec/00_scope.md` and `spec/11_record_and_frame_layouts.md`, and the I/Q sample. -/

namespace Sys2Proof

/-- One byte of the control link, of a payload or of flash. -/
abbrev Byte := BitVec 8

/-- A timeline count: a 32-bit number that wraps (R155). -/
abbrev Count := BitVec 32

/-- An index of cue memory: 12 bits, so that every derived index is taken modulo 4096 (R1). -/
abbrev CueIndex := BitVec 12

/-- A cue flag number, 0…15 (R14). -/
abbrev FlagId := BitVec 4

/-- A track number, 0…47 (R25). -/
abbrev TrackId := Fin 48

/-- A port number, 0…3 (R97). -/
abbrev PortId := Fin 4

/-- A bank number, 0…3 (R115). -/
abbrev BankId := Fin 4

/-- A trigger or marker line number, 0…3 (R170, R175). -/
abbrev LineId := Fin 4

/-- A clip id, 0…1023 (R117). -/
abbrev ClipId := Fin 1024

/-- A notice source number, 0…58 (R189). -/
abbrev SourceId := Fin 59

/-- A sync unit id, 0…7 (R159). -/
abbrev UnitId := BitVec 3

/-- A complex sample. Stored samples and port samples have 16-bit components; a rotated sample and the
sum a port forms reach further (R94, R100), so the components are integers. -/
structure Sample where
  i : Int
  q : Int
deriving DecidableEq, Repr, Inhabited

/-- The sample with both components 0. -/
def Sample.zero : Sample := ⟨0, 0⟩

end Sys2Proof
end

