-- ==== Sys2Proof/Syntax.lean ====
section
/-! DEFINITION. The commands of the K4804: one constructor per row of `spec/opcode_table.json`.

The table gives the rows no bits and no operands, so the operands are those of the rules (log entry 2). A request
row is the event in which the request handler meets that request (R187); its operands are the tag and the payload
bytes as they stand in the request frame, so that every LENGTH and RANGE check of the spec is the model's own. The
remaining rows are events at the part's lines, banks and tick generator (00_scope, Events). -/

namespace Sys2Proof

/-- The commands: the operations and events of `spec/opcode_table.json`, in the table's order of kinds. -/
inductive Instr where
  /-- LINK_BYTE (R182): a byte arrives on the control link. -/
  | linkByte (b : Byte)
  /-- GAP_EXPIRY (R185): at the tick start the gap count reaches 11 during reception. -/
  | gapExpiry
  /-- FRAME_COMPLETION (R188): the last check byte of the frame being sent has gone. -/
  | frameCompletion
  /-- UNKNOWN_REQUEST (R187): a request with a code outside the catalogue meets the request handler. -/
  | unknownRequest (tag code : Byte) (payload : List Byte)
  /-- DEVICE_INFO (R195): the request DEVICE INFO, code 01h, meets the request handler. -/
  | deviceInfo (tag : Byte) (payload : List Byte)
  /-- DEVICE_RESET (R196): the request DEVICE RESET, code 02h, meets the request handler. -/
  | deviceReset (tag : Byte) (payload : List Byte)
  /-- NOTICE_SET (R194): the request NOTICE SET, code 03h, meets the request handler. -/
  | noticeSet (tag : Byte) (payload : List Byte)
  /-- NOTICE_TAKE (R193): the request NOTICE TAKE, code 04h, meets the request handler. -/
  | noticeTake (tag : Byte) (payload : List Byte)
  /-- CLOCK_SET (R157): the request CLOCK SET, code 10h, meets the request handler. -/
  | clockSet (tag : Byte) (payload : List Byte)
  /-- CLOCK_STATUS (R158): the request CLOCK STATUS, code 11h, meets the request handler. -/
  | clockStatus (tag : Byte) (payload : List Byte)
  /-- SYNC_SET (R160): the request SYNC SET, code 12h, meets the request handler. -/
  | syncSet (tag : Byte) (payload : List Byte)
  /-- PORT_SET (R109): the request PORT SET, code 20h, meets the request handler. -/
  | portSet (tag : Byte) (payload : List Byte)
  /-- PORT_STATUS (R112): the request PORT STATUS, code 21h, meets the request handler. -/
  | portStatus (tag : Byte) (payload : List Byte)
  /-- CUE_PUT (R21): the request CUE PUT, code 30h, meets the request handler. -/
  | cuePut (tag : Byte) (payload : List Byte)
  /-- CUE_GET (R24): the request CUE GET, code 31h, meets the request handler. -/
  | cueGet (tag : Byte) (payload : List Byte)
  /-- FLAG_WRITE (R15): the request FLAG WRITE, code 32h, meets the request handler. -/
  | flagWrite (tag : Byte) (payload : List Byte)
  /-- FLAG_READ (R16): the request FLAG READ, code 33h, meets the request handler. -/
  | flagRead (tag : Byte) (payload : List Byte)
  /-- TRACK_ARM (R29): the request TRACK ARM, code 40h, meets the request handler. -/
  | trackArm (tag : Byte) (payload : List Byte)
  /-- TRACK_GO (R31): the request TRACK GO, code 41h, meets the request handler. -/
  | trackGo (tag : Byte) (payload : List Byte)
  /-- TRACK_STOP (R45): the request TRACK STOP, code 42h, meets the request handler. -/
  | trackStop (tag : Byte) (payload : List Byte)
  /-- TRACK_BREAK (R43): the request TRACK BREAK, code 43h, meets the request handler. -/
  | trackBreak (tag : Byte) (payload : List Byte)
  /-- TRACK_TUNE (R52): the request TRACK TUNE, code 44h, meets the request handler. -/
  | trackTune (tag : Byte) (payload : List Byte)
  /-- TRACK_FEED (R53): the request TRACK FEED, code 45h, meets the request handler. -/
  | trackFeed (tag : Byte) (payload : List Byte)
  /-- TRACK_STATUS (R56): the request TRACK STATUS, code 46h, meets the request handler. -/
  | trackStatus (tag : Byte) (payload : List Byte)
  /-- TRACK_CLEAR (R50): the request TRACK CLEAR, code 47h, meets the request handler. -/
  | trackClear (tag : Byte) (payload : List Byte)
  /-- CLIP_OPEN (R121): the request CLIP OPEN, code 50h, meets the request handler. -/
  | clipOpen (tag : Byte) (payload : List Byte)
  /-- CLIP_DATA (R123): the request CLIP DATA, code 51h, meets the request handler. -/
  | clipData (tag : Byte) (payload : List Byte)
  /-- CLIP_CLOSE (R126): the request CLIP CLOSE, code 52h, meets the request handler. -/
  | clipClose (tag : Byte) (payload : List Byte)
  /-- CLIP_DROP (R127): the request CLIP DROP, code 53h, meets the request handler. -/
  | clipDrop (tag : Byte) (payload : List Byte)
  /-- CLIP_INFO (R134): the request CLIP INFO, code 54h, meets the request handler. -/
  | clipInfo (tag : Byte) (payload : List Byte)
  /-- STORE_STATUS (R135): the request STORE STATUS, code 55h, meets the request handler. -/
  | storeStatus (tag : Byte) (payload : List Byte)
  /-- STORE_SWEEP (R129): the request STORE SWEEP, code 56h, meets the request handler. -/
  | storeSweep (tag : Byte) (payload : List Byte)
  /-- STORE_HALT (R131): the request STORE HALT, code 57h, meets the request handler. -/
  | storeHalt (tag : Byte) (payload : List Byte)
  /-- STORE_POLICY (R149): the request STORE POLICY, code 58h, meets the request handler. -/
  | storePolicy (tag : Byte) (payload : List Byte)
  /-- LINE_SET (R178): the request LINE SET, code 60h, meets the request handler. -/
  | lineSet (tag : Byte) (payload : List Byte)
  /-- CAPTURE_READ (R174): the request CAPTURE READ, code 61h, meets the request handler. -/
  | captureRead (tag : Byte) (payload : List Byte)
  /-- TICK_START (R156): a tick starts, and whatever of this tick start has not been taken yet is taken. -/
  | tickStart
  /-- BOUNDARY (R39): at the tick start a play of track `t` has ended. -/
  | boundary (t : TrackId)
  /-- FLAG_RELEASE (R18): at the tick start the flag unit judges the holders of every set flag. -/
  | flagRelease
  /-- BREAK_RELEASE (R44): at the tick start a broken hold of track `t` is released. -/
  | breakRelease (t : TrackId)
  /-- TRACK_START (R36): the start tick of track `t` has come. -/
  | trackStart (t : TrackId)
  /-- STOP_COMPLETION (R49): at the tick start a stop of track `t` completes. -/
  | stopCompletion (t : TrackId)
  /-- STOP_FADE_END (R46): at the tick start after j reached h the FADE stop of track `t` completes. -/
  | stopFadeEnd (t : TrackId)
  /-- TRANSFER (R54): the tick start is a transfer point of track `t`, and a staged set waits. -/
  | transfer (t : TrackId)
  /-- GATE_PHASE_CHANGE (R55): the gate counter of track `t` reaches its length and the phase flips. -/
  | gatePhaseChange (t : TrackId)
  /-- PORT_SET_APPLY (R110): at the tick start port `p` applies its pending set. -/
  | portSetApply (p : PortId)
  /-- CLOCK_SET_APPLY (R157): at the tick start the count becomes the pending set value. -/
  | clockSetApply
  /-- MARKER_ADOPTION (R165): at the tick start a FOLLOW unit brings its pending marker's count. -/
  | markerAdoption
  /-- MARKER_LOSS_EXPIRY (R166): at the tick start the marker age of a LOCKED unit reaches 16. -/
  | markerLossExpiry
  /-- CONTENTION_EXPIRY (R163): at the tick start the quiet count of a LEAD unit reaches 16. -/
  | contentionExpiry
  /-- HOLDOFF_EXPIRY (R171): at the tick start the holdoff remaining of trigger line `n` falls to 0. -/
  | holdoffExpiry (n : LineId)
  /-- PULSE_END (R176): at the tick start the remaining of marker line `m` falls to 0. -/
  | pulseEnd (m : LineId)
  /-- MARKER_SEND (R159): the marker send point of the tick is reached. -/
  | markerSend
  /-- MARKER_HEARD (R164): a marker arrives on the sync pair, with a good or a failed check (R159). -/
  | markerHeard (id : UnitId) (count : Count) (checkGood : Bool)
  /-- TRIGGER_EDGE (R172): in the port sample `offset` of the tick the four trigger inputs show `levels`
  (bit n for line n, set for high); a line whose level differs from its level last seen has an edge. -/
  | triggerEdge (levels : BitVec 4) (offset : BitVec 12)
  /-- BLOCK_READ_COMPLETION (R143): the read in flight at bank `b` ends, read correctly or not. -/
  | blockReadCompletion (b : BankId) (correct : Bool)
  /-- PROGRAM_COMPLETION (R125): the program in progress at bank `b` ends; the flash reports success or failure. -/
  | programCompletion (b : BankId) (success : Bool)
  /-- ERASE_COMPLETION (R128): the erase in progress at bank `b` ends; the flash reports success or failure. -/
  | eraseCompletion (b : BankId) (success : Bool)
  /-- SUSPEND_COMPLETION (R146): the suspend at bank `b` takes hold. -/
  | suspendCompletion (b : BankId)
  /-- SCAN_COMPLETION (R137): the power-up scan of the scene store ends. -/
  | scanCompletion
  /-- HARD_RESET (R136): power-up, or the reset line is asserted. -/
  | hardReset
  /-- RESET_RELEASE (R155): the hard reset is released; the inputs show `levels` in their first sample. -/
  | resetRelease (levels : BitVec 4)
deriving DecidableEq, Repr

end Sys2Proof
end

