-- ==== Sys2Proof/Decode.lean ====
section
/-! DEFINITION. The command a word of the opcode table spells. `spec/opcode_table.json` gives none of its 62 rows any
bits (its reader counts 62 rows unread), so no word spells a command (log entry 3). The byte forms the spec does give,
request frames and their payloads, reach the part through the link receiver (R182 to R184) and are read in
`Machine/Operands.lean` and `Machine/Link.lean`. -/

namespace Sys2Proof

/-- The command the word `w` of `nbits` bits spells by the table: none, since the table gives no row any bits. -/
def decodeTableWord (_nbits _w : Nat) : Option Instr := none

end Sys2Proof
end

