-- ==== Sys2Proof/Config.lean ====
section
/-! DEFINITION. What the part fixes (the capacities of R195) and the values the manual leaves open (free values:
constants without a body, log entries 13 and 14). -/

namespace Sys2Proof

/-- Requests the request queue holds (R186). -/
def Config.requestQueue : Nat := 4
/-- Answers the answer list holds (R186). -/
def Config.answerList : Nat := 8
/-- Largest payload of a frame (R183). -/
def Config.largestPayload : Nat := 16400
/-- Copies an entry queue holds (R57). -/
def Config.entryQueue : Nat := 4
/-- Slots a prefetch ring holds (R59). -/
def Config.ringSlots : Nat := 8
/-- FILLED slots that meet the priming condition (R30). -/
def Config.primingDepth : Nat := 4
/-- Pages a program queue holds (R120). -/
def Config.programQueue : Nat := 2
/-- Requests a fetch queue holds (R139). -/
def Config.fetchQueue : Nat := 64
/-- Suspensions of one store operation (R144). -/
def Config.suspensionCap : Nat := 16
/-- Records the capture queue holds (R173). -/
def Config.captureQueue : Nat := 16
/-- Sectors of a bank (R115). -/
def Config.sectorsPerBank : Nat := 8192
/-- Pages of a sector (R115). -/
def Config.pagesPerSector : Nat := 256
/-- Bytes of a page (R115). -/
def Config.pageBytes : Nat := 16384
/-- Port samples of a tick (R155). -/
def Config.samplesPerTick : Nat := 4096

/-- FREE VALUE (R88, R101; log entry 13). What an interpolator delivers for port sample `n` of a tick, before it is
held within 16 bits: the scaled samples `held`, taken before at decimation `heldD`, and the scaled samples `taken` at
decimation `takenD` shape it, none of `taken` before its delay and none of `held` after theirs. The manual gives the
interpolator by its delay and range and not sample by sample. -/
opaque Config.interpolate (heldD : Nat) (held : List Sample) (takenD : Nat) (taken : List Sample) (n : Nat) : Sample

/-- FREE VALUE (R94, R101; log entry 14). What the rotator makes of the interpolated sample `y` turned through `turn`,
in units of 2^-32 of a turn, before its limits. The manual gives the rotator by its formula, range and tolerance, and
not sample by sample. -/
opaque Config.rotate (y : Sample) (turn : BitVec 32) : Sample

end Sys2Proof
end

