-- ==== Sys2Proof/Machine/State.lean ====
section
/-! DEFINITION. The state of the K4804, as plain data: every piece of state the spec gives its eleven blocks
(INVENTORY.md lists them), the queue of waiting commands, and the machine's own bookkeeping of a tick start in
progress (`TickWork`). `State.reset` is the part right after a hard reset has been released. -/

namespace Sys2Proof.Machine

/-! ### Cue memory (R1, R2) -/

/-- The flag action of a cue entry (R2). -/
inductive FlagAction where
  | none | set | clear
deriving DecidableEq, Repr

/-- What follows the last play of an entry (R2): `ret` is RETURN and `finish` is END. -/
inductive NextKind where
  | next | goto | call | ret | ifSet | ifClear | hold | finish
deriving DecidableEq, Repr

/-- The two forms of a target (R7): a signed displacement, or an index. -/
inductive Target where
  | near (displacement : BitVec 8)
  | far (index : CueIndex)
deriving DecidableEq, Repr

/-- A cue entry (R2). `clip` is `none` for SILENCE. -/
structure CueEntry where
  clip : Option ClipId
  start : BitVec 32
  length : BitVec 32
  plays : BitVec 8
  level : Int
  freq : Int
  fadeIn : BitVec 8
  fadeOut : BitVec 8
  action : FlagAction
  actionFlag : FlagId
  markers : BitVec 4
  apply : Bool
  note : Bool
  next : NextKind
  target : Target
  testFlag : FlagId
  consume : Bool
  late : Bool
deriving DecidableEq, Repr

/-- The empty entry of R1: one tick of silence, then END. -/
def CueEntry.empty : CueEntry where
  clip := none
  start := 0
  length := 1
  plays := 1
  level := 0
  freq := 0
  fadeIn := 0
  fadeOut := 0
  action := .none
  actionFlag := 0
  markers := 0
  apply := false
  note := false
  next := .finish
  target := .near 0
  testFlag := 0
  consume := false
  late := false

/-! ### Tracks (R25, R51, R57, R59, R64) -/

/-- The eight track states (R27). -/
inductive TrackState where
  | idle | priming | ready | starting | playing | holding | stopping | faulted
deriving DecidableEq, Repr

/-- Path tag of a copy or slot (R57). -/
inductive PathTag where
  | main | taken | fall
deriving DecidableEq, Repr

/-- Status of a copy (R57): GOOD, or BAD with its reason. -/
inductive CopyStatus where
  | good | badClip | badRange
deriving DecidableEq, Repr

/-- A copy of a cue entry in a track's entry queue (R57). `length` is the resolved length, 0 for "none" (a BAD copy).
`prepared` counts its plays for which the walk has made every slot (R64). -/
structure Copy where
  index : CueIndex
  entry : CueEntry
  length : Nat
  status : CopyStatus
  path : PathTag
  trailing : Bool
  prepared : Nat
deriving DecidableEq, Repr

/-- State of a ring slot (R60). -/
inductive SlotState where
  | wanted | queued | reading | filled | faulty
deriving DecidableEq, Repr

/-- A slot of the prefetch ring (R59). `id` tells it from every other slot; `block` is 0 for SILENCE; `data` is the
block as read when FILLED. `gated` says that it stands beyond an unresolved HOLD (R71). The deadline is computed from
the track (`State.deadline`, R71). -/
structure Slot where
  id : Nat
  clip : Option ClipId
  block : Nat
  path : PathTag
  state : SlotState
  data : List Byte
  gated : Bool
deriving DecidableEq, Repr

/-- The points at which a walk stops until a discard (R67). -/
inductive StopPoint where
  | finish | bad | noLink
deriving DecidableEq, Repr

/-- Where the walk stands (R64, R67). The rests QUEUE FULL, RING FULL, SPLIT and SPLIT WAITING are the phases `copy`,
`slots`, `split` and `splitWait` when they lack room (`walkStep` then has no step). -/
inductive WalkPhase where
  /-- STOPPED: IDLE, FAULTED and after both resets. -/
  | stopped
  /-- The next step copies the entry at `index`, as a trailing entry or not. -/
  | copy (index : CueIndex) (trailing : Bool)
  /-- The next step makes the slot of `block` in the play under preparation of the back copy; when that play has no
  such block, it decides what follows. -/
  | slots (block : Nat)
  /-- An IF without late needs two free queue places for its split (R69). -/
  | splitWait
  /-- Both paths of a split are copied; their slots are made as the ring has room (R69). -/
  | split
  /-- AWAITING DECISION of a late IF (R66). -/
  | await
  /-- At rest with cause HOLD (R68). -/
  | hold
  /-- At a stop point: END, BAD or NO LINK. -/
  | done (cause : StopPoint)
deriving DecidableEq, Repr

/-- What follows the trailing copy the walk has placed (R66). -/
inductive AfterTrailing where
  | none
  | go (index : CueIndex)
  | call (index : CueIndex) (link : CueIndex)
  | noLink
  | awaitIf
deriving DecidableEq, Repr

/-- The lookahead's own state (R64). -/
structure Walk where
  phase : WalkPhase
  shadow : Option CueIndex
  decided : Option CueIndex
  after : AfterTrailing
deriving DecidableEq, Repr

/-- The start condition of a track (R31). -/
inductive StartCond where
  | none
  | next
  | atTime (time : Count)
  | trigger (line : LineId)
  | flag (flag : FlagId) (consume : Bool)
deriving DecidableEq, Repr

/-- The stop mode of a track (R45); `atEnd` is END. -/
inductive StopMode where
  | none
  | now
  | fade (h : Nat)
  | atEnd
deriving DecidableEq, Repr

/-- The fault reason (R25). -/
inductive FaultReason where
  | none | badClip | badRange | noLink
deriving DecidableEq, Repr

/-- The transfer mode (R51). -/
inductive TransferMode where
  | every | marked
deriving DecidableEq, Repr

/-- A feed of a track: a port, a level offset and a phase (R51). -/
structure Feed where
  port : PortId
  offset : Nat
  phase : BitVec 16
deriving DecidableEq, Repr

/-- The live parameters (R51). -/
structure LiveParams where
  detune : Int
  sweep : Int
  trim : Nat
  gateOn : Nat
  gateOff : Nat
  mode : TransferMode
  feeds : List Feed
deriving DecidableEq, Repr

/-- The defaults of R51. -/
def LiveParams.default : LiveParams where
  detune := 0
  sweep := 0
  trim := 0
  gateOn := 1
  gateOff := 0
  mode := .every
  feeds := []

/-- A feed's interpolator: the scaled samples it holds and the D in use (R88). -/
structure Interp where
  held : List Sample
  inUse : Nat
deriving DecidableEq, Repr

/-- The decision a track has made at the end of a late branch whose trailing entry now plays (R13): the decided
successor, or the empty link of a RETURN. -/
inductive Decision where
  | none
  | go (index : CueIndex)
  | noLink
deriving DecidableEq, Repr

/-- Gate phase (R55). -/
inductive GatePhase where
  | on | off
deriving DecidableEq, Repr

/-- A track context (R25). The current entry is the front of `queue` in PLAYING, STOPPING and HOLDING (R57).
`startDue` says that the next tick start is the start tick (R32, R33, R34). -/
structure Track where
  state : TrackState
  home : CueIndex
  playNumber : Nat
  block : Nat
  lastPlay : Bool
  primed : Bool
  link : Option CueIndex
  start : StartCond
  startDue : Bool
  queue : List Copy
  ring : List Slot
  walk : Walk
  decision : Decision
  active : LiveParams
  staged : LiveParams
  stagedPending : Bool
  nowMark : Bool
  gateMark : Bool
  stop : StopMode
  stopFade : Nat
  breakPending : Bool
  nco : BitVec 32
  interps : Vector (Option Interp) 4
  gatePhase : GatePhase
  gateCounter : Nat
  underruns : Nat
  readFaults : Nat
  short : Bool
  edge : Bool
  late : Bool
  faultReason : FaultReason
  faultIndex : CueIndex
deriving DecidableEq, Repr

/-- The walk of an IDLE or FAULTED track (R64). -/
def Walk.stopped : Walk where
  phase := .stopped
  shadow := none
  decided := none
  after := .none

/-- A track after either reset (R25). -/
def Track.reset : Track where
  state := .idle
  home := 0
  playNumber := 1
  block := 0
  lastPlay := false
  primed := false
  link := none
  start := .none
  startDue := false
  queue := []
  ring := []
  walk := Walk.stopped
  decision := .none
  active := LiveParams.default
  staged := LiveParams.default
  stagedPending := false
  nowMark := false
  gateMark := false
  stop := .none
  stopFade := 0
  breakPending := false
  nco := 0
  interps := Vector.replicate 4 none
  gatePhase := .on
  gateCounter := 0
  underruns := 0
  readFaults := 0
  short := false
  edge := false
  late := false
  faultReason := .none
  faultIndex := 0

/-! ### Ports (R97) -/

/-- Port state (R97). -/
inductive PortState where
  | off | muted | live
deriving DecidableEq, Repr

/-- Guard mode (R105). -/
inductive GuardMode where
  | off | count | backoff
deriving DecidableEq, Repr

/-- The values of one PORT SET, with its restore mark (R109). -/
structure PortSet where
  state : PortState
  fs : Int
  x : Nat
  guard : GuardMode
  limit : Nat
  restore : Bool
deriving DecidableEq, Repr

/-- A port unit (R97). `feeds` and `sum` belong to the tick in progress: the number of its feeds and, sample by
sample, the sum of their rotated samples (R99, R100; the empty list stands for sums of 0). -/
structure Port where
  state : PortState
  fs : Int
  x : Nat
  guard : GuardMode
  limit : Nat
  backoff : Nat
  lastClips : Nat
  lastFeeds : Nat
  overloads : Nat
  pending : Option PortSet
  feeds : Nat
  sum : List Sample
deriving DecidableEq, Repr

/-- A port after a hard reset (R97). -/
def Port.reset : Port where
  state := .off
  fs := -20
  x := 0
  guard := .off
  limit := 0
  backoff := 0
  lastClips := 0
  lastFeeds := 0
  overloads := 0
  pending := none
  feeds := 0
  sum := []

/-! ### The scene store and its banks (R115 to R120, R139, R144) -/

/-- Sector state (R116). -/
inductive SectorState where
  | free | allocated | dirty | erasing | unsettled | retired
deriving DecidableEq, Repr

/-- Clip state (R117). -/
inductive ClipState where
  | empty | opened | ready | damaged
deriving DecidableEq, Repr

/-- A clip record (R117; `opened` is OPEN). Its pages in queue and its use count are counted from the program queues
and from the tracks (`State.pagesInQueue`, `State.useCount`). -/
structure ClipRecord where
  state : ClipState
  bank : BankId
  first : Nat
  sectors : Nat
  decimation : Nat
  ref : Int
  label : List Byte
  blocks : Nat
  nextPage : Nat
  ended : Bool
deriving DecidableEq, Repr

/-- An EMPTY record (R117). -/
def ClipRecord.empty : ClipRecord where
  state := .empty
  bank := 0
  first := 0
  sectors := 0
  decimation := 0
  ref := 0
  label := []
  blocks := 0
  nextPage := 0
  ended := false

/-- The scene store: whether the power-up scan runs (R137), the clip directory, the sector map and the flash arrays.
Directory and map are tables by clip id and by bank × 8192 + sector that list no EMPTY record and no FREE sector; the
flash is a table of bytes by address (`flashAddress`). -/
structure Store where
  scanning : Bool
  clips : List (Nat × ClipRecord)
  sectors : List (Nat × SectorState)
  flash : List Host.Cell
deriving DecidableEq, Repr

/-- A page waiting in a program queue (R120). -/
structure Page where
  clip : ClipId
  index : Nat
  data : List Byte
deriving DecidableEq, Repr

/-- What a store operation does (R120). -/
inductive OpKind where
  | program (clip : ClipId) (page : Nat)
  | erase (sector : Nat)
deriving DecidableEq, Repr

/-- Sub-state of a store operation (R144). -/
inductive SubState where
  | running | suspending | suspended
deriving DecidableEq, Repr

/-- A store operation in progress, with its sub-state, suspension count and cap mark (R144). -/
structure Operation where
  kind : OpKind
  sub : SubState
  count : Nat
  cap : Bool
deriving DecidableEq, Repr

/-- Suspension policy (R149). -/
inductive Policy where
  | allow | defer
deriving DecidableEq, Repr

/-- A read request (R61, R139). -/
structure FetchRequest where
  track : TrackId
  slot : Nat
  clip : ClipId
  block : Nat
deriving DecidableEq, Repr

/-- A bank controller (R120, R139, R144, R149); `op` is `none` for the store operation NONE. -/
structure Bank where
  op : Option Operation
  programQueue : List Page
  sweep : Bool
  eraseHold : Bool
  policy : Policy
  autoSweep : Bool
  fetch : List FetchRequest
  inFlight : Option FetchRequest
deriving DecidableEq, Repr

/-- A bank after a hard reset (R136, R149, R153). -/
def Bank.reset : Bank where
  op := none
  programQueue := []
  sweep := false
  eraseHold := false
  policy := .allow
  autoSweep := true
  fetch := []
  inFlight := none

/-! ### Timeline (R155 to R168) -/

/-- Role on the sync pair (R160). -/
inductive Role where
  | alone | lead | follow
deriving DecidableEq, Repr

/-- Follow state (R164). -/
inductive FollowState where
  | seek | locked | holdover
deriving DecidableEq, Repr

/-- A marker of the sync pair (R159). -/
structure Marker where
  id : UnitId
  count : Count
deriving DecidableEq, Repr

/-- The timeline unit. `heardHigher` says that a marker from a higher id was heard in the tick in progress (R163),
`sendPassed` that the marker send point of the tick has passed, and `sent` is the marker sent there (R159). -/
structure Timeline where
  count : Count
  pendingSet : Option Count
  role : Role
  unitId : UnitId
  follow : FollowState
  pendingMarker : Option Marker
  leaderSeen : Option UnitId
  age : Option Nat
  contention : Bool
  quiet : Nat
  heardHigher : Bool
  sendPassed : Bool
  sent : Option Marker
deriving DecidableEq, Repr

/-- The timeline unit after a hard reset (R167). -/
def Timeline.reset : Timeline where
  count := 0
  pendingSet := none
  role := .alone
  unitId := 0
  follow := .seek
  pendingMarker := none
  leaderSeen := none
  age := none
  contention := false
  quiet := 0
  heardHigher := false
  sendPassed := false
  sent := none

/-! ### Lines (R169 to R181) -/

/-- Edge mode of a trigger line (R170). -/
inductive EdgeMode where
  | off | rise | fall | both
deriving DecidableEq, Repr

/-- A trigger line (R170). `setsFlag` says whether its flag action is set; `level` is the level last seen. -/
structure TriggerLine where
  mode : EdgeMode
  holdoff : Nat
  setsFlag : Bool
  flag : FlagId
  remaining : Nat
  level : Bool
deriving DecidableEq, Repr

/-- A trigger line after a hard reset whose release saw the input low (R170). -/
def TriggerLine.reset : TriggerLine where
  mode := .off
  holdoff := 0
  setsFlag := false
  flag := 0
  remaining := 0
  level := false

/-- Mode of a marker line (R175). -/
inductive MarkerMode where
  | off | pulse | follow
deriving DecidableEq, Repr

/-- Polarity of a marker line (R175). -/
inductive Polarity where
  | activeHigh | activeLow
deriving DecidableEq, Repr

/-- A marker line (R175). Whether it is active follows from mode, remaining and flags (`State.markerActive`). -/
structure MarkerLine where
  mode : MarkerMode
  flag : FlagId
  polarity : Polarity
  width : Nat
  remaining : Nat
deriving DecidableEq, Repr

/-- A marker line after a hard reset (R175). -/
def MarkerLine.reset : MarkerLine where
  mode := .off
  flag := 0
  polarity := .activeHigh
  width := 1
  remaining := 0

/-- A capture record (R173); `rising` for the edge RISE. -/
structure Capture where
  line : LineId
  rising : Bool
  count : Count
  offset : BitVec 12
deriving DecidableEq, Repr

/-- The line unit. -/
structure Lines where
  triggers : Vector TriggerLine 4
  markers : Vector MarkerLine 4
  captures : List Capture
  overrun : Bool
deriving DecidableEq, Repr

/-! ### Control link and notice table (R182 to R197) -/

/-- The receiver (R182, R183): HUNT with its start mark, or the bytes collected so far in HEADER, BODY and CHECK. -/
inductive Receiver where
  | hunt (mark : Bool)
  | header (got : List Byte)
  | body (kind tag code : Byte) (length : Nat) (got : List Byte)
  | check (kind tag code : Byte) (payload : List Byte) (high : Option Byte)
deriving DecidableEq, Repr

/-- A request in the request queue (R186). -/
structure Request where
  tag : Byte
  code : Byte
  payload : List Byte
deriving DecidableEq, Repr

/-- The answer codes (R187). -/
inductive AnswerCode where
  | done | unknown | length | range | state | busy | inUse | noSpace | notFound | full | order
deriving DecidableEq, Repr

/-- An answer in the answer list (R186). -/
structure Answer where
  tag : Byte
  code : AnswerCode
  payload : List Byte
deriving DecidableEq, Repr

/-- A frame of the transmitter: kind, tag, code and payload (section 11.1). -/
structure Frame where
  kind : Byte
  tag : Byte
  code : Byte
  payload : List Byte
deriving DecidableEq, Repr

/-- The link interface; `tx` is the frame being sent, `none` when the transmitter is free (R188). -/
structure Link where
  rx : Receiver
  gap : Nat
  requests : List Request
  answers : List Answer
  tx : Option Frame
deriving DecidableEq, Repr

/-- The link interface after a hard reset (R197). -/
def Link.reset : Link where
  rx := .hunt false
  gap := 0
  requests := []
  answers := []
  tx := none

/-- The causes a block raises, class by class in the order of R189. -/
inductive Cause where
  | badCheck | oversize | truncated | unexpected
  | locked | slip | holdover | leadLost | idClash | contend
  | scanDone | sweepDone | programFail | eraseFail | halted | suspendCap
  | overload | backoff
  | captured | captureOverrun
  | primed | started | late | finished | stopped | fault | underrun | readFault | short | edge | cueNote
deriving DecidableEq, Repr

/-- A pending notice record (R189): bit i of `causes` for the i-th cause of the source's class. -/
structure Notice where
  causes : BitVec 16
  first : Count
  merge : Nat
deriving DecidableEq, Repr

/-- The notice table (R189): a record for each source, the six class levels in the order LINK, CLOCK, STORE, PORT,
LINE, TRACK, and the global enable. -/
structure NoticeTable where
  records : Vector (Option Notice) 59
  levels : Vector (BitVec 3) 6
  enable : Bool
deriving DecidableEq, Repr

/-- The notice table after a hard reset (R189). -/
def NoticeTable.reset : NoticeTable where
  records := Vector.replicate 59 none
  levels := Vector.replicate 6 0
  enable := false

/-! ### The machine -/

/-- The model's bookkeeping of a tick start that is being taken part by part (log entry 5): which parts have been
taken (timeline, link gap, ports, trigger lines, marker lines, the flag unit's judgement, tracks), and which tracks it
has released at this tick start (R18). Everything is clear between two tick starts. -/
structure TickWork where
  timeline : Bool
  gap : Bool
  ports : BitVec 4
  triggers : BitVec 4
  markers : BitVec 4
  flags : Bool
  tracks : BitVec 48
  released : BitVec 48
deriving DecidableEq, Repr

/-- No tick start is being taken. -/
def TickWork.none : TickWork where
  timeline := false
  gap := false
  ports := 0
  triggers := 0
  markers := 0
  flags := false
  tracks := 0
  released := 0

/-- The state of the K4804. `held` says that a hard reset is held (R197); `slotSeq` is the next slot identity the
lookaheads give out (R59: "each slot is distinct from every other slot"); `work` is the model's own (log entry 5);
`pending` is the queue of commands waiting to be taken, first in, first out (log entry 1). -/
structure State where
  held : Bool
  link : Link
  notices : NoticeTable
  timeline : Timeline
  cue : List (Nat × CueEntry)
  flags : BitVec 16
  tracks : Vector Track 48
  slotSeq : Nat
  ports : Vector Port 4
  store : Store
  banks : Vector Bank 4
  lines : Lines
  work : TickWork
  pending : List Instr
deriving DecidableEq, Repr

/-- Why a step stops with a fault. No rule of the manual stops the part, so there is no constructor: every command has
a next state (INVENTORY.md, Faults). -/
inductive Fault where
deriving DecidableEq, Repr

/-- Why a step is refused. -/
inductive Refusal where
  /-- Raised by an arm of `exec` for a command that has no meaning yet; safe, since the machine stops. No arm raises
  it: every command of the table has its meaning. -/
  | notModelled (mnemonic : String)
deriving DecidableEq, Repr

/-- The state right after a hard reset at power-up has been released: the hard-reset value of every block, the tick
with count 0 in progress (R155) and the power-up scan running (R136). The persistent record of a part that has never
been written has no clip and only FREE sectors (log entry 6), and the trigger inputs are low (log entry 7). -/
def State.reset : State where
  held := false
  link := Link.reset
  notices := NoticeTable.reset
  timeline := Timeline.reset
  cue := []
  flags := 0
  tracks := Vector.replicate 48 Track.reset
  slotSeq := 0
  ports := Vector.replicate 4 Port.reset
  store := { scanning := true, clips := [], sectors := [], flash := [] }
  banks := Vector.replicate 4 Bank.reset
  lines :=
    { triggers := Vector.replicate 4 TriggerLine.reset
      markers := Vector.replicate 4 MarkerLine.reset
      captures := []
      overrun := false }
  work := TickWork.none
  pending := []

end Sys2Proof.Machine
end

