-- ==== Sys2Proof/Machine/Ops.lean ====
section
/-! DEFINITION. The named operations over the state: tables in canonical form, reads and writes of the block records,
the notice table (R190), the computed views of the clip record (R117) and the address of a block in flash (R115). -/

namespace Sys2Proof.Machine

/-! ### Tables: lists of keys and values, keys strictly rising, no value equal to what an unlisted key reads as -/

/-- The value at key `a`; an unlisted key reads as `d`. -/
def tableGet {α : Type} (d : α) : List (Nat × α) → Nat → α
  | [], _ => d
  | (k, v) :: r, a => if a = k then v else tableGet d r a

/-- Insert an entry before the first entry of a larger key. -/
def tableInsert {α : Type} : List (Nat × α) → Nat → α → List (Nat × α)
  | [], a, v => [(a, v)]
  | (k, w) :: r, a, v => if a < k then (a, v) :: (k, w) :: r else (k, w) :: tableInsert r a v

/-- Write `v` at key `a`; writing what an unlisted key reads as removes the entry. -/
def tableSet {α : Type} [DecidableEq α] (d : α) (t : List (Nat × α)) (a : Nat) (v : α) : List (Nat × α) :=
  let rest := t.filter (fun e => e.1 ≠ a)
  if v = d then rest else tableInsert rest a v

/-- The entries of a run of values from key `a` on. -/
def tableCells {α : Type} [DecidableEq α] (d : α) : Nat → List α → List (Nat × α)
  | _, [] => []
  | a, v :: r => if v = d then tableCells d (a + 1) r else (a, v) :: tableCells d (a + 1) r

/-- Write a run of values from key `a` on. -/
def tableSplice {α : Type} [DecidableEq α] (d : α) (t : List (Nat × α)) (a : Nat) (vs : List α) : List (Nat × α) :=
  t.filter (fun e => e.1 < a) ++ tableCells d a vs ++ t.filter (fun e => a + vs.length ≤ e.1)

/-- The canonical form: keys strictly rising and no entry equal to `d`. -/
def tableWf {α : Type} [DecidableEq α] (d : α) : List (Nat × α) → Bool
  | [] => true
  | (k, v) :: r => v ≠ d && r.all (fun e => k < e.1) && tableWf d r

/-! ### Saturating counts -/

/-- One more, staying at 65,535 (R25, R97, R166). -/
def satSucc (n : Nat) : Nat := if n < 65535 then n + 1 else 65535

/-! ### Time (R155) -/

/-- The time `t` is ahead of the count `n`: (t − n) mod 2^32 lies in 1…2^31 (R155). -/
def ahead (t n : Count) : Bool := 1 ≤ (t - n).toNat && (t - n).toNat ≤ 2147483648

/-! ### Cue memory -/

/-- The entry at an index of cue memory (R1). -/
def State.cueEntry (s : State) (i : CueIndex) : CueEntry := tableGet CueEntry.empty s.cue i.toNat

/-- Write the entry at an index of cue memory. -/
def State.setCueEntry (s : State) (i : CueIndex) (e : CueEntry) : State :=
  { s with cue := tableSet CueEntry.empty s.cue i.toNat e }

/-! ### Records of the blocks -/

/-- Track context `t`. -/
def State.track (s : State) (t : TrackId) : Track := s.tracks[t]

/-- Replace track context `t`. -/
def State.setTrack (s : State) (t : TrackId) (tr : Track) : State :=
  { s with tracks := s.tracks.set t.1 tr t.2 }

/-- Change track context `t`. -/
def State.modTrack (s : State) (t : TrackId) (f : Track → Track) : State := s.setTrack t (f (s.track t))

/-- Port unit `p`. -/
def State.port (s : State) (p : PortId) : Port := s.ports[p]

/-- Replace port unit `p`. -/
def State.setPort (s : State) (p : PortId) (x : Port) : State := { s with ports := s.ports.set p.1 x p.2 }

/-- Change port unit `p`. -/
def State.modPort (s : State) (p : PortId) (f : Port → Port) : State := s.setPort p (f (s.port p))

/-- Bank controller `b`. -/
def State.bank (s : State) (b : BankId) : Bank := s.banks[b]

/-- Replace bank controller `b`. -/
def State.setBank (s : State) (b : BankId) (x : Bank) : State := { s with banks := s.banks.set b.1 x b.2 }

/-- Change bank controller `b`. -/
def State.modBank (s : State) (b : BankId) (f : Bank → Bank) : State := s.setBank b (f (s.bank b))

/-- Trigger line `n`. -/
def State.trigger (s : State) (n : LineId) : TriggerLine := s.lines.triggers[n]

/-- Replace trigger line `n`. -/
def State.setTrigger (s : State) (n : LineId) (x : TriggerLine) : State :=
  { s with lines := { s.lines with triggers := s.lines.triggers.set n.1 x n.2 } }

/-- Marker line `m`. -/
def State.marker (s : State) (m : LineId) : MarkerLine := s.lines.markers[m]

/-- Replace marker line `m`. -/
def State.setMarker (s : State) (m : LineId) (x : MarkerLine) : State :=
  { s with lines := { s.lines with markers := s.lines.markers.set m.1 x m.2 } }

/-- The record of clip `c` in the clip directory (R117). -/
def State.clip (s : State) (c : ClipId) : ClipRecord := tableGet ClipRecord.empty s.store.clips c.1

/-- Write the record of clip `c`. -/
def State.setClip (s : State) (c : ClipId) (r : ClipRecord) : State :=
  { s with store := { s.store with clips := tableSet ClipRecord.empty s.store.clips c.1 r } }

/-- The key of a sector in the sector map. -/
def sectorKey (b : BankId) (n : Nat) : Nat := b.1 * 8192 + n

/-- The state of sector `n` of bank `b` (R116). -/
def State.sector (s : State) (b : BankId) (n : Nat) : SectorState :=
  tableGet .free s.store.sectors (sectorKey b n)

/-- Write the state of sector `n` of bank `b`. -/
def State.setSector (s : State) (b : BankId) (n : Nat) (x : SectorState) : State :=
  { s with store := { s.store with sectors := tableSet .free s.store.sectors (sectorKey b n) x } }

/-! ### Flash (R115, R116) -/

/-- What a byte of flash that holds no programmed data reads as: the erased byte (log entry 8). -/
def erasedByte : Byte := 0xFF

/-- The canonical form of the flash: addresses strictly rising, no erased byte listed. -/
def Memory.wf (m : List Host.Cell) : Bool := tableWf erasedByte m

/-- The byte at a flash address. -/
def Memory.read (m : List Host.Cell) (a : Nat) : Byte := tableGet erasedByte m a

/-- Program bytes from an address on. -/
def Memory.writeAll (m : List Host.Cell) (a : Nat) (bs : List Byte) : List Host.Cell := tableSplice erasedByte m a bs

/-- The `n` bytes from an address on. -/
def Memory.readAll (m : List Host.Cell) (a n : Nat) : List Byte := (List.range n).map (fun i => Memory.read m (a + i))

/-- Erase the `n` bytes from an address on. -/
def Memory.erase (m : List Host.Cell) (a n : Nat) : List Host.Cell :=
  m.filter (fun e => e.1 < a || a + n ≤ e.1)

/-- The flash address of byte `offset` of page position `page` of sector `sector` of bank `b` (R115). -/
def flashAddress (b : BankId) (sector page offset : Nat) : Nat :=
  ((b.1 * 8192 + sector) * 256 + page) * 16384 + offset

/-- The flash address of page `q` of a clip: sector s + (q div 256), page position q mod 256 (R115). -/
def ClipRecord.pageAddress (r : ClipRecord) (q : Nat) : Nat :=
  flashAddress r.bank (r.first + q / 256) (q % 256) 0

/-- Bytes of a block at decimation D: 16384 / D (R115). -/
def blockBytes (d : Nat) : Nat := 16384 / d

/-- The flash address of block `k` of a clip: page k div D, byte offset (k mod D) × (16384 / D) within it (R115). -/
def ClipRecord.blockAddress (r : ClipRecord) (k : Nat) : Nat :=
  r.pageAddress (k / r.decimation) + k % r.decimation * blockBytes r.decimation

/-- The bytes of block `k` of clip `c` as the flash holds them. -/
def State.blockData (s : State) (c : ClipId) (k : Nat) : List Byte :=
  Memory.readAll s.store.flash ((s.clip c).blockAddress k) (blockBytes (s.clip c).decimation)

/-! ### Computed views of the clip record (R117, R77) -/

/-- Pages in queue: the clip's pages in its bank's program queue, the one being programmed included (R117). -/
def State.pagesInQueue (s : State) (c : ClipId) : Nat :=
  (s.bank (s.clip c).bank).programQueue.countP (fun p => p.clip = c)

/-- What one track adds to the use count of a clip: its GOOD copies and its slots that name the clip (R77). -/
def Track.uses (tr : Track) (c : ClipId) : Nat :=
  tr.queue.countP (fun x => x.status = .good && x.entry.clip = some c) +
    tr.ring.countP (fun x => x.clip = some c)

/-- The use count of a clip, over all 48 tracks (R77). -/
def State.useCount (s : State) (c : ClipId) : Nat :=
  ((List.finRange 48).map (fun t => (s.track t).uses c)).sum

/-! ### Notices (R189, R190) -/

/-- The bit of a cause in the cause set of its class (R189, section 11.5). -/
def Cause.bit : Cause → Nat
  | .badCheck | .locked | .scanDone | .overload | .captured | .primed => 0
  | .oversize | .slip | .sweepDone | .backoff | .captureOverrun | .started => 1
  | .truncated | .holdover | .programFail | .late => 2
  | .unexpected | .leadLost | .eraseFail | .finished => 3
  | .idClash | .halted | .stopped => 4
  | .contend | .suspendCap | .fault => 5
  | .underrun => 6
  | .readFault => 7
  | .short => 8
  | .edge => 9
  | .cueNote => 10

/-- Notice source of the LINK class (R189). -/
def linkSource : SourceId := 0
/-- Notice source of the CLOCK class (R189). -/
def clockSource : SourceId := 1
/-- Notice source of bank `b`: 2 + b (R189). -/
def bankSource (b : BankId) : SourceId := ⟨2 + b.1, by omega⟩
/-- Notice source of port `p`: 6 + p (R189). -/
def portSource (p : PortId) : SourceId := ⟨6 + p.1, by omega⟩
/-- Notice source of the LINE class (R189). -/
def lineSource : SourceId := 10
/-- Notice source of track `t`: 11 + t (R25). -/
def trackSource (t : TrackId) : SourceId := ⟨11 + t.1, by omega⟩

/-- The pending record of a source. -/
def State.notice (s : State) (n : SourceId) : Option Notice := s.notices.records[n]

/-- Replace the pending record of a source. -/
def State.setNotice (s : State) (n : SourceId) (r : Option Notice) : State :=
  { s with notices := { s.notices with records := s.notices.records.set n.1 r n.2 } }

/-- A record once a cause is taken into it (R190): made with the count of the tick in progress and merge count 1, or
joined, the merge count growing up to 255. -/
def mergeCause (count : Count) (c : Cause) : Option Notice → Notice
  | none => { causes := BitVec.twoPow 16 c.bit, first := count, merge := 1 }
  | some r =>
    { r with causes := r.causes ||| BitVec.twoPow 16 c.bit
             merge := if r.merge < 255 then r.merge + 1 else 255 }

/-- Raise a cause at a source (R190). -/
def State.raise (s : State) (n : SourceId) (c : Cause) : State :=
  s.setNotice n (some (mergeCause s.timeline.count c (s.notice n)))

/-- Raise a cause at a source when a condition holds. -/
def State.raiseIf (s : State) (b : Bool) (n : SourceId) (c : Cause) : State := if b then s.raise n c else s

/-- Apply an operation to each member of a list in turn. -/
def forEach {α : Type} (xs : List α) (f : State → α → State) (s : State) : State := xs.foldl f s

/-- The first member with the smallest key. -/
def leastBy {α : Type} (key : α → Nat) : List α → Option α
  | [] => none
  | a :: r =>
    match leastBy key r with
    | none => some a
    | some b => if key a ≤ key b then some a else some b

/-- The 48 tracks, the four ports and the four banks or lines, in order of number. -/
def allTracks : List TrackId := List.finRange 48
/-- The four numbers 0…3 in order. -/
def allFour : List (Fin 4) := List.finRange 4

end Sys2Proof.Machine
end

