-- ==== Sys2Proof/Machine/Operands.lean ====
section
/-! DEFINITION. The byte forms of chapter 11: reading the fields of a request payload (R198) and writing the fields of
an answer payload (R199), with the one-byte encodings of section 11.2. A reader of a payload answers `none` exactly
where the spec answers RANGE. -/

namespace Sys2Proof.Machine

/-! ### Byte order: multi-byte fields are little-endian, signed fields two's complement (R198) -/

/-- The byte at an offset. -/
def byteAt (p : List Byte) (i : Nat) : Nat := (p.getD i 0).toNat
/-- The two-byte field at an offset. -/
def word16 (p : List Byte) (i : Nat) : Nat := byteAt p i + 256 * byteAt p (i + 1)
/-- The four-byte field at an offset. -/
def word32 (p : List Byte) (i : Nat) : Nat := word16 p i + 65536 * word16 p (i + 2)
/-- The two's complement reading of a field of `bits` bits. -/
def signed (bits v : Nat) : Int := if v < 2 ^ (bits - 1) then (v : Int) else (v : Int) - 2 ^ bits
/-- The signed two-byte field at an offset. -/
def signed16 (p : List Byte) (i : Nat) : Int := signed 16 (word16 p i)
/-- The signed four-byte field at an offset. -/
def signed32 (p : List Byte) (i : Nat) : Int := signed 32 (word32 p i)

/-- One byte. -/
def le8 (n : Nat) : List Byte := [BitVec.ofNat 8 n]
/-- Two bytes, low byte first. -/
def le16 (n : Nat) : List Byte := [BitVec.ofNat 8 n, BitVec.ofNat 8 (n / 256)]
/-- Four bytes, low byte first. -/
def le32 (n : Nat) : List Byte := le16 n ++ le16 (n / 65536)
/-- A signed number in two bytes. -/
def leSigned16 (z : Int) : List Byte := le16 (z % 65536).toNat
/-- A signed number in four bytes. -/
def leSigned32 (z : Int) : List Byte := le32 (z % 4294967296).toNat
/-- A yes/no value (section 11.2). -/
def bit8 (b : Bool) : List Byte := [if b then 1 else 0]
/-- `n` zero bytes. -/
def zeros (n : Nat) : List Byte := List.replicate n 0
/-- The bytes, padded with zeros to `n`. -/
def padTo (n : Nat) (p : List Byte) : List Byte := p ++ zeros (n - p.length)

/-- A number held within a range. -/
def inRange (lo hi z : Int) : Bool := lo ≤ z && z ≤ hi

/-- A yes/no byte: 0 or 1 (R198). -/
def readBool : Nat → Option Bool
  | 0 => some false
  | 1 => some true
  | _ => none

/-- A track number, 0…47 (R28). -/
def readTrack (n : Nat) : Option TrackId := if h : n < 48 then some ⟨n, h⟩ else none
/-- A number 0…3: a port, a bank or a line. -/
def readFour (n : Nat) : Option (Fin 4) := if h : n < 4 then some ⟨n, h⟩ else none
/-- A clip id, 0…1023. -/
def readClip (n : Nat) : Option ClipId := if h : n < 1024 then some ⟨n, h⟩ else none
/-- A flag number, 0…15. -/
def readFlag (n : Nat) : Option FlagId := if n < 16 then some (BitVec.ofNat 4 n) else none
/-- A cue index, 0…4095. -/
def readIndex (n : Nat) : Option CueIndex := if n < 4096 then some (BitVec.ofNat 12 n) else none

/-! ### One-byte encodings (section 11.2) -/

/-- Track state. -/
def TrackState.code : TrackState → Nat
  | .idle => 0 | .priming => 1 | .ready => 2 | .starting => 3
  | .playing => 4 | .holding => 5 | .stopping => 6 | .faulted => 7

/-- Fault reason. -/
def FaultReason.code : FaultReason → Nat
  | .none => 0 | .badClip => 1 | .badRange => 2 | .noLink => 3

/-- Start condition. -/
def StartCond.code : StartCond → Nat
  | .none => 0 | .next => 1 | .atTime _ => 2 | .trigger _ => 3 | .flag _ _ => 4

/-- Stop mode. -/
def StopMode.code : StopMode → Nat
  | .none => 0 | .now => 1 | .fade _ => 2 | .atEnd => 3

/-- Transfer mode. -/
def TransferMode.code : TransferMode → Nat
  | .every => 0 | .marked => 1

/-- Reader of a transfer mode. -/
def readTransferMode : Nat → Option TransferMode
  | 0 => some .every | 1 => some .marked | _ => none

/-- Gate phase. -/
def GatePhase.code : GatePhase → Nat
  | .on => 0 | .off => 1

/-- Copy status. -/
def CopyStatus.code : CopyStatus → Nat
  | .good => 0 | .badClip => 1 | .badRange => 2

/-- Path tag. -/
def PathTag.code : PathTag → Nat
  | .main => 0 | .taken => 1 | .fall => 2

/-- Slot state, bits 0…2. -/
def SlotState.code : SlotState → Nat
  | .wanted => 0 | .queued => 1 | .reading => 2 | .filled => 3 | .faulty => 4

/-- Port state. -/
def PortState.code : PortState → Nat
  | .off => 0 | .muted => 1 | .live => 2

/-- Reader of a port state. -/
def readPortState : Nat → Option PortState
  | 0 => some .off | 1 => some .muted | 2 => some .live | _ => none

/-- Guard mode. -/
def GuardMode.code : GuardMode → Nat
  | .off => 0 | .count => 1 | .backoff => 2

/-- Reader of a guard mode. -/
def readGuard : Nat → Option GuardMode
  | 0 => some .off | 1 => some .count | 2 => some .backoff | _ => none

/-- Clip state. -/
def ClipState.code : ClipState → Nat
  | .empty => 0 | .opened => 1 | .ready => 2 | .damaged => 3

/-- Store operation: 0 NONE, 1 PROGRAM, 2 ERASE. -/
def opCode : Option Operation → Nat
  | none => 0
  | some op => match op.kind with
    | .program _ _ => 1
    | .erase _ => 2

/-- Sub-state: 0 none. -/
def subCode : Option Operation → Nat
  | none => 0
  | some op => match op.sub with
    | .running => 1
    | .suspending => 2
    | .suspended => 3

/-- Suspension policy. -/
def Policy.code : Policy → Nat
  | .allow => 0 | .defer => 1

/-- Reader of a suspension policy. -/
def readPolicy : Nat → Option Policy
  | 0 => some .allow | 1 => some .defer | _ => none

/-- Role. -/
def Role.code : Role → Nat
  | .alone => 0 | .lead => 1 | .follow => 2

/-- Reader of a role. -/
def readRole : Nat → Option Role
  | 0 => some .alone | 1 => some .lead | 2 => some .follow | _ => none

/-- Follow state. -/
def FollowState.code : FollowState → Nat
  | .seek => 0 | .locked => 1 | .holdover => 2

/-- Reader of an edge mode. -/
def readEdgeMode : Nat → Option EdgeMode
  | 0 => some .off | 1 => some .rise | 2 => some .fall | 3 => some .both | _ => none

/-- Reader of a marker mode. -/
def readMarkerMode : Nat → Option MarkerMode
  | 0 => some .off | 1 => some .pulse | 2 => some .follow | _ => none

/-- Reader of a polarity. -/
def readPolarity : Nat → Option Polarity
  | 0 => some .activeHigh | 1 => some .activeLow | _ => none

/-- Flag action. -/
def FlagAction.code : FlagAction → Nat
  | .none => 0 | .set => 1 | .clear => 2

/-- Reader of a flag action. -/
def readFlagAction : Nat → Option FlagAction
  | 0 => some .none | 1 => some .set | 2 => some .clear | _ => none

/-- Next kind (section 11.4). -/
def NextKind.code : NextKind → Nat
  | .next => 0 | .goto => 1 | .call => 2 | .ret => 3
  | .ifSet => 4 | .ifClear => 5 | .hold => 6 | .finish => 7

/-- Reader of a next kind. -/
def readNextKind : Nat → Option NextKind
  | 0 => some .next | 1 => some .goto | 2 => some .call | 3 => some .ret
  | 4 => some .ifSet | 5 => some .ifClear | 6 => some .hold | 7 => some .finish
  | _ => none

/-- The byte of an answer code (R187). -/
def AnswerCode.byte : AnswerCode → Byte
  | .done => 0x00 | .unknown => 0x01 | .length => 0x02 | .range => 0x03 | .state => 0x04 | .busy => 0x05
  | .inUse => 0x06 | .noSpace => 0x07 | .notFound => 0x08 | .full => 0x09 | .order => 0x0A

/-! ### Cue entries (R22, section 11.4) -/

/-- A clip field: FFFFh is SILENCE (R199). -/
def clipField : Option ClipId → Nat
  | none => 0xFFFF
  | some c => c.1

/-- Reader of a clip field: 0…1023, or SILENCE (R22). -/
def readClipField (n : Nat) : Option (Option ClipId) :=
  if n = 0xFFFF then some none else (readClip n).map some

/-- Reader of a target: NEAR −128…+127, FAR 0…4095 (R22). -/
def readTarget (far : Bool) (p : List Byte) (i : Nat) : Option Target :=
  if far then (readIndex (word16 p i)).map .far
  else if inRange (-128) 127 (signed16 p i) then some (.near (BitVec.ofInt 8 (signed16 p i))) else none

/-- Reader of one 28-byte cue entry: `none` where any field is out of the range R22 accepts. -/
def readEntry (p : List Byte) : Option CueEntry := do
  let clip ← readClipField (word16 p 0)
  let options := byteAt p 2
  let kind ← readNextKind (byteAt p 3)
  let target ← readTarget (options.testBit 3) p 18
  let testFlag ← readFlag (byteAt p 23)
  let action ← readFlagAction (byteAt p 24)
  let actionFlag ← readFlag (byteAt p 25)
  if options < 32 ∧ inRange (-600) 40 (signed16 p 16) ∧
      inRange (-16000000) 16000000 (signed32 p 12) ∧ byteAt p 26 < 16 ∧ byteAt p 27 = 0 ∧
      (clip = none → 1 ≤ word32 p 8) then
    some
      { clip := clip
        start := BitVec.ofNat 32 (word32 p 4)
        length := BitVec.ofNat 32 (word32 p 8)
        plays := BitVec.ofNat 8 (byteAt p 20)
        level := signed16 p 16
        freq := signed32 p 12
        fadeIn := BitVec.ofNat 8 (byteAt p 21)
        fadeOut := BitVec.ofNat 8 (byteAt p 22)
        action := action
        actionFlag := actionFlag
        markers := BitVec.ofNat 4 (byteAt p 26)
        apply := options.testBit 1
        note := options.testBit 2
        next := kind
        target := target
        testFlag := testFlag
        consume := options.testBit 4
        late := options.testBit 0 }
  else none

/-- The far-target option of a target. -/
def Target.isFar : Target → Bool
  | .near _ => false
  | .far _ => true

/-- The target field: a signed displacement, or an index. -/
def Target.field : Target → List Byte
  | .near d => leSigned16 d.toInt
  | .far i => le16 i.toNat

/-- The options byte of an entry. -/
def CueEntry.options (e : CueEntry) : Nat :=
  e.late.toNat + 2 * e.apply.toNat + 4 * e.note.toNat + 8 * e.target.isFar.toNat + 16 * e.consume.toNat

/-- The 28 bytes of a cue entry (section 11.4). -/
def CueEntry.bytes (e : CueEntry) : List Byte :=
  le16 (clipField e.clip) ++ le8 e.options ++ le8 e.next.code ++ le32 e.start.toNat ++ le32 e.length.toNat ++
  leSigned32 e.freq ++ leSigned16 e.level ++ e.target.field ++ [e.plays, e.fadeIn, e.fadeOut] ++
  le8 e.testFlag.toNat ++ le8 e.action.code ++ le8 e.actionFlag.toNat ++ le8 e.markers.toNat ++ [0]

/-- Reader of `n` cue entries that stand one after another. -/
def readEntries : Nat → List Byte → Option (List CueEntry)
  | 0, _ => some []
  | n + 1, p => do
    let e ← readEntry (p.take 28)
    let r ← readEntries n (p.drop 28)
    some (e :: r)

/-! ### Live parameters (R51) -/

/-- A feed list is legal: at most 4 feeds, at most one for each port (R53). -/
def feedsDistinct (fs : List Feed) : Bool :=
  fs.length ≤ 4 && (fs.map Feed.port).Nodup

/-- Reader of `n` feeds of 4 bytes. -/
def readFeeds : Nat → List Byte → Option (List Feed)
  | 0, _ => some []
  | n + 1, p => do
    let port ← readFour (byteAt p 0)
    let r ← readFeeds n (p.drop 4)
    if byteAt p 1 ≤ 120 then
      some ({ port := port, offset := byteAt p 1, phase := BitVec.ofNat 16 (word16 p 2) } :: r)
    else none

/-- The bytes of a feed. -/
def Feed.bytes (f : Feed) : List Byte := le8 f.port.1 ++ le8 f.offset ++ le16 f.phase.toNat

/-- The 32 bytes of a live parameter block (section 11.6). -/
def LiveParams.bytes (l : LiveParams) : List Byte :=
  leSigned32 l.detune ++ leSigned32 l.sweep ++ le8 l.trim ++ le8 l.mode.code ++ le16 l.gateOn ++ le16 l.gateOff ++
  le8 l.feeds.length ++ [0] ++ padTo 16 (l.feeds.flatMap Feed.bytes)

/-! ### Request fields -/

/-- Reader of the start condition of TRACK GO (R31, R198): bytes condition, consume, line or flag, and time. Fields the
condition leaves unused are zero. -/
def readStartCond (p : List Byte) : Option StartCond :=
  let cond := byteAt p 1
  let consume := byteAt p 2
  let number := byteAt p 3
  let time := word32 p 4
  if cond = 1 then (if consume = 0 ∧ number = 0 ∧ time = 0 then some .next else none)
  else if cond = 2 then (if consume = 0 ∧ number = 0 then some (.atTime (BitVec.ofNat 32 time)) else none)
  else if cond = 3 then
    (if consume = 0 ∧ time = 0 then (readFour number).map .trigger else none)
  else if cond = 4 then
    (if time = 0 then do
      let f ← readFlag number
      let c ← readBool consume
      some (.flag f c)
    else none)
  else none

/-- Reader of the stop mode of TRACK STOP (R45, R198): a FADE length lies in 1…255, and is zero in the other modes. -/
def readStopMode (p : List Byte) : Option StopMode :=
  let mode := byteAt p 1
  let h := byteAt p 2
  if mode = 1 then (if h = 0 then some .now else none)
  else if mode = 2 then (if h = 0 then none else some (.fade h))
  else if mode = 3 then (if h = 0 then some .atEnd else none)
  else none

/-- The six values of TRACK TUNE with its NOW choice (R52). -/
structure TuneValues where
  mode : TransferMode
  now : Bool
  detune : Int
  sweep : Int
  trim : Nat
  gateOn : Nat
  gateOff : Nat
deriving DecidableEq, Repr

/-- Reader of the values of TRACK TUNE (R51, R52). -/
def readTune (p : List Byte) : Option TuneValues := do
  let mode ← readTransferMode (byteAt p 1)
  let now ← readBool (byteAt p 2)
  if byteAt p 3 = 0 ∧ inRange (-32000000) 32000000 (signed32 p 4) ∧
      inRange (-100000) 100000 (signed32 p 8) ∧ byteAt p 12 ≤ 120 ∧ byteAt p 13 = 0 then
    some
      { mode := mode
        now := now
        detune := signed32 p 4
        sweep := signed32 p 8
        trim := byteAt p 12
        gateOn := word16 p 14
        gateOff := word16 p 16 }
  else none

/-- Reader of the feeds of TRACK FEED with its NOW choice (R53). -/
def readFeedList (p : List Byte) : Option (Bool × List Feed) := do
  let now ← readBool (byteAt p 1)
  let feeds ← readFeeds (byteAt p 2) (p.drop 4)
  if byteAt p 3 = 0 ∧ feedsDistinct feeds then some (now, feeds) else none

/-- Reader of PORT SET (R109). -/
def readPortSet (p : List Byte) : Option (PortId × PortSet) := do
  let port ← readFour (byteAt p 0)
  let state ← readPortState (byteAt p 1)
  let guard ← readGuard (byteAt p 6)
  let restore ← readBool (byteAt p 9)
  if inRange (-120) 40 (signed16 p 2) ∧ word16 p 4 ≤ 240 ∧ word16 p 7 ≤ 4096 then
    some (port,
      { state := state
        fs := signed16 p 2
        x := word16 p 4
        guard := guard
        limit := word16 p 7
        restore := restore })
  else none

/-- The values of CLIP OPEN (R121). -/
structure OpenValues where
  id : ClipId
  bank : BankId
  decimation : Nat
  sectors : Nat
  ref : Int
  label : List Byte
deriving DecidableEq, Repr

/-- Reader of CLIP OPEN (R121): label bytes beyond the label length are zero (R198). -/
def readOpen (p : List Byte) : Option OpenValues := do
  let id ← readClip (word16 p 0)
  let bank ← readFour (byteAt p 2)
  let n := byteAt p 8
  let label := (p.drop 9).take n
  if [1, 2, 4, 8, 16, 32, 64, 128].contains (byteAt p 3) ∧ 1 ≤ word16 p 4 ∧ word16 p 4 ≤ 8192 ∧
      inRange (-120) 0 (signed16 p 6) ∧ n ≤ 24 ∧
      label.all (fun c => 0x20 ≤ c.toNat && c.toNat ≤ 0x7E) ∧ (p.drop (9 + n)).all (· = 0) then
    some
      { id := id
        bank := bank
        decimation := byteAt p 3
        sectors := word16 p 4
        ref := signed16 p 6
        label := label }
  else none

/-- Reader of a trigger's settings in LINE SET (R178): edge mode, holdoff, flag action none or set, flag. -/
def readTriggerSettings (p : List Byte) : Option (EdgeMode × Nat × Bool × FlagId) := do
  let mode ← readEdgeMode (byteAt p 2)
  let sets ← readBool (byteAt p 4)
  let flag ← readFlag (byteAt p 5)
  some (mode, byteAt p 3, sets, flag)

/-- Reader of a marker's settings in LINE SET (R178): mode, follow flag, polarity, width 1…255. -/
def readMarkerSettings (p : List Byte) : Option (MarkerMode × FlagId × Polarity × Nat) := do
  let mode ← readMarkerMode (byteAt p 2)
  let flag ← readFlag (byteAt p 3)
  let polarity ← readPolarity (byteAt p 4)
  if 1 ≤ byteAt p 5 then some (mode, flag, polarity, byteAt p 5) else none

/-! ### Records in answers -/

/-- A capture record (section 11.5). -/
def Capture.bytes (c : Capture) : List Byte :=
  le8 c.line.1 ++ le8 (if c.rising then 0 else 1) ++ le16 c.offset.toNat ++ le32 c.count.toNat

/-- A notice record with its detail (section 11.5). -/
def Notice.bytes (r : Notice) (detail : Nat) : List Byte :=
  le16 r.causes.toNat ++ le32 r.first.toNat ++ le8 r.merge ++ le8 detail

/-- What a request handler answers: a code other than DONE, or DONE with its payload and the state it leaves (R187). -/
abbrev Reply := Except AnswerCode (List Byte × State)

/-- DONE with a payload. -/
def Reply.done (payload : List Byte) (s : State) : Reply := .ok (payload, s)

end Sys2Proof.Machine
end

