-- ==== Sys2Proof/Machine/Notice.lean ====
section
/-! DEFINITION. The notice table (section 10.3): classes and levels, the detail of a record (R190), the choice of the
record to send (R191), NOTICE SET and NOTICE TAKE (R193, R194). Raising a cause is in `Machine/Ops.lean`. -/

namespace Sys2Proof.Machine

/-- The class of a source, in the order LINK, CLOCK, STORE, PORT, LINE, TRACK (R189). -/
def classOf (n : SourceId) : Fin 6 :=
  if n.1 = 0 then 0 else if n.1 = 1 then 1 else if n.1 < 6 then 2 else if n.1 < 10 then 3
  else if n.1 = 10 then 4 else 5

/-- The level of a source's class (R189). -/
def State.noticeLevel (s : State) (n : SourceId) : Nat := (s.notices.levels[classOf n]).toNat

/-- The detail of a source's record, filled as the record leaves the table (R190, section 11.5). -/
def State.noticeDetail (s : State) (n : SourceId) : Nat :=
  if n.1 = 0 then s.link.requests.length
  else if n.1 = 1 then (s.timeline.leaderSeen.map BitVec.toNat).getD 0xFF
  else if h : n.1 < 6 then opCode (s.bank ⟨n.1 - 2, by omega⟩).op
  else if h : n.1 < 10 then (s.port ⟨n.1 - 6, by omega⟩).backoff / 12
  else if n.1 = 10 then s.lines.captures.length
  else (s.track ⟨n.1 - 11, by omega⟩).state.code

/-- The sources in order of number. -/
def allSources : List SourceId := List.finRange 59

/-- The sources that have a pending record, in order of number. -/
def State.pendingSources (s : State) : List SourceId := allSources.filter (fun n => (s.notice n).isSome)

/-- A source's record may be sent: its class level is 1…7 (R191). -/
def State.eligible (s : State) (n : SourceId) : Bool := (s.notice n).isSome && 1 ≤ s.noticeLevel n

/-- The source whose record goes out next: the highest class level first, then the lowest source number; none while the
global enable is off or no record is eligible (R191). -/
def State.chosenNotice (s : State) : Option SourceId :=
  if s.notices.enable then
    leastBy (fun n => (7 - s.noticeLevel n) * 59 + n.1) (allSources.filter s.eligible)
  else none

/-- The nine bytes of a record that leaves the table: its source number, then the record with its detail (R188). -/
def State.noticePayload (s : State) (n : SourceId) : List Byte :=
  match s.notice n with
  | none => []
  | some r => le8 n.1 ++ r.bytes (s.noticeDetail n)

/-- NOTICE SET (R194). -/
def handleNoticeSet (p : List Byte) (s : State) : Reply :=
  if p.length ≠ 7 then .error .length
  else
    match readBool (byteAt p 6) with
    | none => .error .range
    | some enable =>
      if (p.take 6).all (fun b => b.toNat ≤ 7) then
        .done []
          { s with
            notices :=
              { s.notices with
                levels := Vector.ofFn fun i : Fin 6 => BitVec.ofNat 3 (byteAt p i.1)
                enable := enable } }
      else .error .range

/-- NOTICE TAKE (R193): the records of the lowest source numbers leave the table, whatever the levels and the enable. -/
def handleNoticeTake (p : List Byte) (s : State) : Reply :=
  if p.length ≠ 1 then .error .length
  else if 59 < byteAt p 0 then .error .range
  else
    let taken := s.pendingSources.take (byteAt p 0)
    let left := s.pendingSources.drop (byteAt p 0)
    .done (le8 taken.length ++ le8 left.length ++ taken.flatMap s.noticePayload)
      (forEach taken (fun s n => s.setNotice n none) s)

end Sys2Proof.Machine
end

