-- ==== Sys2Proof/Machine/Link.lean ====
section
/-! DEFINITION. The link interface (sections 10.1 and 10.2): the frame check (R184), the receiver byte by byte (R182 to
R185), the request queue and the answer list (R186, R187), and the transmitter with its arbiter (R188). -/

namespace Sys2Proof.Machine

/-! ### The frame check (R184) -/

/-- One step of the check register: shift left, and on a bit shifted out add the generator x^16 + x^12 + x^5 + 1. -/
def crcStep (r : BitVec 16) : BitVec 16 := if r.getLsbD 15 then (r <<< 1) ^^^ 0x1021 else r <<< 1

/-- A byte enters the check register, most significant bit first. -/
def crcByte (r : BitVec 16) (b : Byte) : BitVec 16 :=
  crcStep <| crcStep <| crcStep <| crcStep <| crcStep <| crcStep <| crcStep <| crcStep
    (r ^^^ (b.setWidth 16 <<< 8))

/-- The check of a run of bytes (R184). -/
def frameCheck (bs : List Byte) : BitVec 16 := bs.foldl crcByte 0xFFFF

/-! ### Frames (section 11.1) -/

/-- The request kind. -/
def requestKind : Byte := 0x01
/-- The answer kind. -/
def answerKind : Byte := 0x02
/-- The notice kind. -/
def noticeKind : Byte := 0x03

/-- The bytes a check covers: kind, tag, code, length and payload. -/
def checkedBytes (kind tag code : Byte) (payload : List Byte) : List Byte :=
  [kind, tag, code] ++ le16 payload.length ++ payload

/-- The check of a frame's fields. -/
def fieldsCheck (kind tag code : Byte) (payload : List Byte) : BitVec 16 :=
  frameCheck (checkedBytes kind tag code payload)

/-- The bytes of a frame on the line: the start pattern, the fields, and the check, high byte first (section 11.1). -/
def Frame.bytes (f : Frame) : List Byte :=
  let check := fieldsCheck f.kind f.tag f.code f.payload
  [0xC6, 0x39] ++ checkedBytes f.kind f.tag f.code f.payload ++
    [check.extractLsb' 8 8, check.extractLsb' 0 8]

/-- The frame of an answer (R188). -/
def Answer.frame (a : Answer) : Frame := { kind := answerKind, tag := a.tag, code := a.code.byte, payload := a.payload }

/-! ### Requests and answers (R186, R187) -/

/-- Change the link interface. -/
def State.modLink (s : State) (f : Link → Link) : State := { s with link := f s.link }

/-- An answer joins the back of the answer list. -/
def State.pushAnswer (s : State) (a : Answer) : State := s.modLink fun l => { l with answers := l.answers ++ [a] }

/-- A request arrives (R186): it joins the request queue, or is answered FULL, or is dropped. -/
def arrive (r : Request) (s : State) : State :=
  if s.link.requests.length < Config.requestQueue then
    s.modLink fun l => { l with requests := l.requests ++ [r] }
  else if s.link.answers.length < Config.answerList then
    s.pushAnswer { tag := r.tag, code := .full, payload := [] }
  else s

/-- The handler may handle request `r`: it is the front request and the answer list has a free place (R187). -/
def State.canHandle (s : State) (r : Request) : Bool :=
  s.link.requests.head? = some r && s.link.answers.length < Config.answerList

/-- The front request leaves the queue, and its answer joins the answer list (R187). -/
def State.answerFront (s : State) (tag : Byte) (code : AnswerCode) (payload : List Byte) : State :=
  (s.modLink fun l => { l with requests := l.requests.tail }).pushAnswer
    { tag := tag, code := code, payload := payload }

/-- The front request is handled (R187): a refusal changes nothing else, and DONE carries the answer payload. -/
def handleFront (tag : Byte) (reply : Reply) (s : State) : State :=
  match reply with
  | .error code => s.answerFront tag code []
  | .ok (payload, s') => s'.answerFront tag .done payload

/-- A request meets the request handler (R186, R187; log entry 2): a request that is not the front request arrives, and
the front request is handled once the answer list has a free place. -/
def serve (handler : List Byte → State → Reply) (r : Request) (s : State) : State :=
  let s1 := if s.link.requests.head? = some r then s else arrive r s
  if s1.canHandle r then handleFront r.tag (handler r.payload s1) s1 else s1

/-- A request with a code outside the catalogue is answered UNKNOWN (R187). -/
def handleUnknown (_ : List Byte) (_ : State) : Reply := .error .unknown

/-! ### The transmitter (R188, R191) -/

/-- The transmit arbiter: a free transmitter starts the front answer, or else the chosen notice (R188). -/
def arbitrate (s : State) : State :=
  match s.link.tx with
  | some _ => s
  | none =>
    match s.link.answers with
    | a :: r => s.modLink fun l => { l with answers := r, tx := some a.frame }
    | [] =>
      match s.chosenNotice with
      | none => s
      | some n =>
        (s.setNotice n none).modLink fun l =>
          { l with
            tx :=
              some
                { kind := noticeKind
                  tag := 0
                  code := BitVec.ofNat 8 n.1
                  payload := s.noticePayload n } }

/-- An event of the part outside a hard reset: its effect, after which the transmit arbiter chooses if the transmitter
is free (R188; log entry 4). While a hard reset is held the part takes no event (R197). -/
def State.event (s : State) (f : State → State) : State := if s.held then s else arbitrate (f s)

/-- FRAME_COMPLETION: the transmitter is free (R188). -/
def completeFrame (s : State) : State := s.modLink fun l => { l with tx := none }

/-! ### The receiver (R182 to R185) -/

/-- The receiver is in HEADER, BODY or CHECK. -/
def Receiver.receiving : Receiver → Bool
  | .hunt _ => false
  | .header _ | .body _ _ _ _ _ | .check _ _ _ _ _ => true

/-- The receiver takes a new state, and the gap count returns to 0 (R185). -/
def State.setRx (s : State) (rx : Receiver) : State := s.modLink fun l => { l with rx := rx, gap := 0 }

/-- A byte in HUNT (R182). -/
def huntByte (mark : Bool) (b : Byte) : Receiver :=
  if b = 0x39 ∧ mark = true then .header [] else .hunt (b = 0xC6)

/-- The header is complete: its length is judged (R183). -/
def judgeHeader (h : List Byte) (s : State) : State :=
  let kind := h.getD 0 0
  let tag := h.getD 1 0
  let code := h.getD 2 0
  let length := word16 h 3
  if Config.largestPayload < length then (s.setRx (.hunt false)).raise linkSource .oversize
  else if length = 0 then s.setRx (.check kind tag code [] none)
  else s.setRx (.body kind tag code length [])

/-- The second check byte is taken: the frame ends in one of three ways (R184). -/
def endFrame (kind tag code : Byte) (payload : List Byte) (high low : Byte) (s : State) : State :=
  let s1 := s.setRx (.hunt false)
  if fieldsCheck kind tag code payload ≠ high ++ low then s1.raise linkSource .badCheck
  else if kind ≠ requestKind then s1.raise linkSource .unexpected
  else arrive { tag := tag, code := code, payload := payload } s1

/-- LINK_BYTE: the receiver acts on a byte (R182 to R184). -/
def receive (b : Byte) (s : State) : State :=
  match s.link.rx with
  | .hunt mark => s.setRx (huntByte mark b)
  | .header got =>
    if got.length + 1 < 5 then s.setRx (.header (got ++ [b])) else judgeHeader (got ++ [b]) s
  | .body kind tag code length got =>
    if got.length + 1 < length then s.setRx (.body kind tag code length (got ++ [b]))
    else s.setRx (.check kind tag code (got ++ [b]) none)
  | .check kind tag code payload none => s.setRx (.check kind tag code payload (some b))
  | .check kind tag code payload (some high) => endFrame kind tag code payload high b s

/-- The link part of a tick start: the gap count grows during reception, and at 11 the frame is discarded (R185). -/
def gapTick (s : State) : State :=
  if s.work.gap then s
  else
    let s1 := { s with work := { s.work with gap := true } }
    if s.link.rx.receiving then
      if 11 ≤ s.link.gap + 1 then (s1.setRx (.hunt false)).raise linkSource .truncated
      else s1.modLink fun l => { l with gap := l.gap + 1 }
    else s1

end Sys2Proof.Machine
end

