-- ==== Sys2Proof/Machine/Flags.lean ====
section
/-! DEFINITION. The flag unit (R14 to R20): the sixteen cue flags, the position of a track in its play as its boundary
rules read it (R39), the holders of a flag at a tick start (R17) and their judgement (R18). -/

namespace Sys2Proof.Machine

/-! ### The sixteen flags (R14) -/

/-- Flag `f` is set. -/
def State.flagSet (s : State) (f : FlagId) : Bool := s.flags.getLsbD f.toNat

/-- Set flag `f`. -/
def State.setFlag (s : State) (f : FlagId) : State := { s with flags := s.flags ||| BitVec.twoPow 16 f.toNat }

/-- Clear flag `f`. -/
def State.clearFlag (s : State) (f : FlagId) : State := { s with flags := s.flags &&& ~~~BitVec.twoPow 16 f.toNat }

/-- Carry out a flag action (R5, step 1). -/
def State.flagAction (s : State) (a : FlagAction) (f : FlagId) : State :=
  match a with
  | .none => s
  | .set => s.setFlag f
  | .clear => s.clearFlag f

/-! ### The position of a track (R39, R57) -/

/-- The current entry: the front copy in PLAYING, STOPPING and HOLDING (R57). -/
def Track.current (tr : Track) : Option Copy :=
  match tr.state with
  | .playing | .stopping | .holding => tr.queue.head?
  | _ => none

/-- A play of the entry in play remains after this one (R39): a trailing entry has one play, and a TRACK BREAK has made
the play in progress the last (R43). -/
def Track.playRemains (tr : Track) (c : Copy) : Bool :=
  !c.trailing && !tr.lastPlay && (c.entry.plays = 0 || tr.playNumber < c.entry.plays.toNat)

/-- The block that played is the last of its play, so the next tick start is a boundary (R39). -/
def Track.playEnded (tr : Track) (c : Copy) : Bool := c.length ≤ tr.block + 1

/-- The next kind acts as a HOLD: the copy is no trailing entry, whose next kind is disregarded (R13). -/
def Copy.isHold (c : Copy) : Bool := !c.trailing && c.entry.next = .hold

/-! ### Tick-start bookkeeping -/

/-- The part of track `t` at this tick start has been taken. -/
def State.trackDone (s : State) (t : TrackId) : Bool := s.work.tracks.getLsbD t.1

/-- Record that the part of track `t` at this tick start is taken. -/
def State.markTrack (s : State) (t : TrackId) : State :=
  { s with work := { s.work with tracks := s.work.tracks ||| BitVec.twoPow 48 t.1 } }

/-- The flag unit has released track `t` at this tick start. -/
def State.isReleased (s : State) (t : TrackId) : Bool := s.work.released.getLsbD t.1

/-- Record the release of track `t`. -/
def State.markReleased (s : State) (t : TrackId) : State :=
  { s with work := { s.work with released := s.work.released ||| BitVec.twoPow 48 t.1 } }

/-! ### Holders and their release (R17, R18) -/

/-- The flag a track holds on at the coming tick start, with whether it is a consuming holder (R17). A track whose hold
was broken or stopped holds no more (R44, R45), and one whose part of this tick start has been taken is judged at the
next. -/
def State.holderOf (s : State) (t : TrackId) : Option (FlagId × Bool) :=
  let tr := s.track t
  if s.trackDone t then none
  else
    match tr.state, tr.start, tr.queue.head? with
    | .starting, .flag f consume, _ => some (f, consume)
    | .holding, _, some c =>
      if tr.breakPending || tr.stop = .now then none else some (c.entry.testFlag, c.entry.consume)
    | .playing, _, some c =>
      if tr.stop ≠ .now && c.isHold && tr.playEnded c && !tr.playRemains c then
        some (c.entry.testFlag, c.entry.consume)
      else none
    | _, _, _ => none

/-- Track `t` is a consuming, or a non-consuming, holder of flag `f`. -/
def State.holds (s : State) (f : FlagId) (consume : Bool) (t : TrackId) : Bool :=
  s.holderOf t = some (f, consume)

/-- Judge flag `f` at a tick start: if it is set, every non-consuming holder is released, and the consuming holder of
the lowest track number is released and the flag cleared (R18). -/
def judgeFlag (s : State) (f : FlagId) : State :=
  if s.flagSet f then
    let s1 := forEach (allTracks.filter (s.holds f false)) State.markReleased s
    match allTracks.find? (s.holds f true) with
    | none => s1
    | some t => (s1.markReleased t).clearFlag f
  else s

/-- The sixteen flags in order. -/
def allFlags : List FlagId := (List.range 16).map (BitVec.ofNat 4)

/-- The flag unit's judgement of a tick start: every flag that is set at it (R18). -/
def judgeFlags (s : State) : State :=
  if s.work.flags then s
  else forEach allFlags judgeFlag { s with work := { s.work with flags := true } }

end Sys2Proof.Machine
end

