-- ==== Sys2Proof/Machine/Bank.lean ====
section
/-! DEFINITION. Bank service (chapter 07) and the store operations a bank starts (R120): deadlines of slots (R71), the
fetch queue and its freed places (R61, R139), the read arbiter (R141), suspension and its cap (R145, R148), and what a
bank does at each event (`bankSettle`). -/

namespace Sys2Proof.Machine

/-! ### Deadlines (R71 to R73) -/

/-- The count of the next tick start at which track `t` plays: the count of this tick start while it is being taken and
the track's part of it is not, and the count after it otherwise. -/
def State.nextTick (s : State) (t : TrackId) : Count :=
  if s.work.timeline && !s.trackDone t then s.timeline.count else s.timeline.count + 1

/-- The count at which the front slot of track `t` is due, when its deadlines are known: in PLAYING and STOPPING, and in
STARTING with NEXT or AT (R71). An AT time that is ahead makes the front slot due at that time; one that is late makes
it due at the next tick (R72, R73). -/
def State.frontDue (s : State) (t : TrackId) : Option Count :=
  let tr := s.track t
  match tr.state, tr.start with
  | .playing, _ | .stopping, _ => some (s.nextTick t)
  | .starting, .next => some (s.nextTick t)
  | .starting, .atTime time =>
    if tr.startDue then some (s.nextTick t)
    else if ahead time s.timeline.count || time = s.nextTick t then some time
    else some (s.timeline.count + 1)
  | _, _ => none

/-- The deadline of slot `k` of the ring of track `t`, counted from 0; `none` for UNSCHEDULED (R71). -/
def State.deadline (s : State) (t : TrackId) (k : Nat) : Option Count :=
  match (s.track t).ring[k]? with
  | none => none
  | some x => if x.path = .main && !x.gated then (s.frontDue t).map (· + BitVec.ofNat 32 k) else none

/-! ### Slots and requests -/

/-- The place of the slot `id` in a ring, in playing order. -/
def Track.slotPlace (tr : Track) (id : Nat) : Option Nat := tr.ring.findIdx? (fun x => x.id = id)

/-- Change the slot `id` of a ring. -/
def Track.modSlot (tr : Track) (id : Nat) (f : Slot → Slot) : Track :=
  { tr with ring := tr.ring.map (fun x => if x.id = id then f x else x) }

/-- The read request of a slot for a clip block. -/
def Slot.request (t : TrackId) (x : Slot) : Option FetchRequest :=
  x.clip.map (fun c => { track := t, slot := x.id, clip := c, block := x.block })

/-- How urgent a request is, smaller first: deadline distance with UNSCHEDULED last, then track number, then place in
the ring (R61, R141). -/
def State.urgency (s : State) (r : FetchRequest) : Nat :=
  let place := ((s.track r.track).slotPlace r.slot).getD 0
  let distance := match s.deadline r.track place with
    | some d => (d - s.timeline.count).toNat
    | none => 4294967296
  (distance * 48 + r.track.1) * 8 + place

/-- The requests of the WANTED slots, of any track, that wait for a place at bank `b` (R61). -/
def State.wanting (s : State) (b : BankId) : List FetchRequest :=
  allTracks.flatMap fun t =>
    ((s.track t).ring.filter (fun x => x.state = .wanted)).filterMap fun x =>
      (x.request t).filter (fun r => (s.clip r.clip).bank = b)

/-! ### Suspension (R144, R145, R148) -/

/-- What waiting requests do to a RUNNING operation under ALLOW: below the cap it becomes SUSPENDING (R145); at the cap
the bank raises SUSPEND_CAP once (R148). -/
def suspendReact (b : BankId) (s : State) : State :=
  let k := s.bank b
  match k.op with
  | none => s
  | some op =>
    if op.sub = .running && k.policy = .allow && !k.fetch.isEmpty then
      if op.count < Config.suspensionCap then
        s.setBank b { k with op := some { op with sub := .suspending } }
      else if op.cap then s
      else (s.setBank b { k with op := some { op with cap := true } }).raise (bankSource b) .suspendCap
    else s

/-! ### The fetch queue (R61, R139) -/

/-- A request joins the fetch queue: its slot becomes QUEUED, and it may suspend the operation (R61, R145). -/
def joinFetch (b : BankId) (r : FetchRequest) (s : State) : State :=
  let s1 := s.modBank b (fun k => { k with fetch := k.fetch ++ [r] })
  let s2 := s1.modTrack r.track (fun tr => tr.modSlot r.slot (fun x => { x with state := .queued }))
  suspendReact b s2

/-- Give the free places of a fetch queue to waiting WANTED slots, the most urgent first, at most `n` of them (R61). -/
def offerPlaces (b : BankId) : Nat → State → State
  | 0, s => s
  | n + 1, s =>
    if (s.bank b).fetch.length < Config.fetchQueue then
      match leastBy s.urgency (s.wanting b) with
      | none => s
      | some r => offerPlaces b n (joinFetch b r s)
    else s

/-- The bank starts a read: the arbiter's choice leaves the fetch queue, its slot becomes READING, and the freed place
goes to a waiting slot (R141, R142). -/
def startRead (b : BankId) (s : State) : State :=
  match leastBy s.urgency (s.bank b).fetch with
  | none => s
  | some r =>
    let s1 := s.modBank b (fun k => { k with fetch := k.fetch.erase r, inFlight := some r })
    let s2 := s1.modTrack r.track (fun tr => tr.modSlot r.slot (fun x => { x with state := .reading }))
    offerPlaces b Config.fetchQueue s2

/-! ### Store operations a free bank starts (R120, R128) -/

/-- The sectors of bank `b` that an erase takes: DIRTY or UNSETTLED (R120). -/
def State.erasable (s : State) (b : BankId) : List Nat :=
  (s.store.sectors.filter fun e =>
    sectorKey b 0 ≤ e.1 && e.1 < sectorKey b 8192 && (e.2 = .dirty || e.2 = .unsettled)).map
      (fun e => e.1 - sectorKey b 0)

/-- Erasing is allowed: the sweep mark is set, or auto-sweep is on and the erase hold is clear (R120). -/
def Bank.mayErase (k : Bank) : Bool := k.sweep || (k.autoSweep && !k.eraseHold)

/-- A new operation: RUNNING with count 0 and the cap mark clear (R144). -/
def Operation.fresh (kind : OpKind) : Operation := { kind := kind, sub := .running, count := 0, cap := false }

/-- A free bank starts a store operation: the program of its front page, or the erase of its lowest DIRTY or UNSETTLED
sector when erasing is allowed (R120, R128). -/
def startStore (b : BankId) (s : State) : State :=
  let k := s.bank b
  match k.programQueue with
  | p :: _ => s.setBank b { k with op := some (Operation.fresh (.program p.clip p.index)) }
  | [] =>
    if k.mayErase then
      match leastBy id (s.erasable b) with
      | none => s
      | some n =>
        (s.setSector b n .erasing).setBank b { k with op := some (Operation.fresh (.erase n)) }
    else s

/-- What a bank does at an event that may let it work: with no read in flight, a NONE or SUSPENDED operation and a
request waiting it starts a read (R140); a SUSPENDED operation with nothing waiting resumes (R147); a free bank starts
a store operation (R120). During the power-up scan it starts nothing (R153). -/
def bankSettle (b : BankId) (s : State) : State :=
  let k := s.bank b
  if s.store.scanning || k.inFlight.isSome then s
  else
    match k.op with
    | none => if k.fetch.isEmpty then startStore b s else startRead b s
    | some op =>
      if op.sub = .suspended then
        if k.fetch.isEmpty then s.setBank b { k with op := some { op with sub := .running } }
        else startRead b s
      else s

/-! ### Withdrawals (R63, R151) -/

/-- The requests of the slots `dead` leave the fetch queue of bank `b`; freed places go to waiting slots, and the bank
goes on as the emptied queue lets it. -/
def withdrawFrom (dead : List Nat) (s : State) (b : BankId) : State :=
  if (s.bank b).fetch.any (fun r => dead.contains r.slot) then
    let s1 := s.modBank b (fun k => { k with fetch := k.fetch.filter (fun r => !dead.contains r.slot) })
    bankSettle b (offerPlaces b Config.fetchQueue s1)
  else s

/-- Slots leave the ring of track `t`, by consumption or discard: all at once, then their requests are withdrawn
(R63). -/
def dropSlots (t : TrackId) (dead : List Nat) (s : State) : State :=
  let s1 := s.modTrack t (fun tr => { tr with ring := tr.ring.filter (fun x => !dead.contains x.id) })
  forEach allFour (withdrawFrom dead) s1

end Sys2Proof.Machine
end

