-- ==== Sys2Proof/Machine/Lookahead.lean ====
section
/-! DEFINITION. The lookahead (chapter 03): taking and validating copies (R57, R58), making slots (R61), the walk with
its rests and stop points (R64 to R69), priming (R30), split resolution (R70) and the discards (R75). -/

namespace Sys2Proof.Machine

/-! ### Copies (R3, R58) -/

/-- The status and resolved length of a copy of an entry, against the clip directory as it stands (R3, R58). -/
def State.validate (s : State) (e : CueEntry) : CopyStatus × Nat :=
  match e.clip with
  | none => (.good, e.length.toNat)
  | some c =>
    let r := s.clip c
    let n := if e.length = 0 then r.blocks - e.start.toNat else e.length.toNat
    if r.state ≠ .ready then (.badClip, 0)
    else if r.blocks ≤ e.start.toNat || r.blocks < e.start.toNat + n then (.badRange, 0)
    else (.good, n)

/-- A copy of the entry at an index, taken now (R57, R58). -/
def State.copyOf (s : State) (i : CueIndex) (path : PathTag) (trailing : Bool) : Copy :=
  let e := s.cueEntry i
  { index := i
    entry := e
    length := (s.validate e).2
    status := (s.validate e).1
    path := path
    trailing := trailing
    prepared := 0 }

/-- The index a target names (R7). -/
def Target.index (t : Target) (i : CueIndex) : CueIndex :=
  match t with
  | .near d => i + 1 + d.signExtend 12
  | .far j => j

/-- The next kinds on which late acts (R13). -/
def NextKind.branches : NextKind → Bool
  | .goto | .call | .ret | .ifSet | .ifClear => true
  | .next | .hold | .finish => false

/-- The entry is followed by a trailing entry (R13). -/
def CueEntry.isLateBranch (e : CueEntry) : Bool := e.late && e.next.branches

/-! ### Making slots (R59, R61) -/

/-- The slot of block `k` of a play of a copy; a SILENCE slot is made FILLED with zeros (R59). -/
def Copy.slot (c : Copy) (id k : Nat) (gated : Bool) : Slot :=
  match c.entry.clip with
  | none =>
    { id := id, clip := none, block := 0, path := c.path, state := .filled, data := [], gated := gated }
  | some clip =>
    { id := id
      clip := some clip
      block := c.entry.start.toNat + k
      path := c.path
      state := .wanted
      data := []
      gated := gated }

/-- A new slot joins the back of the ring, and its request joins the fetch queue at once when that has a free place
(R61). -/
def addSlot (t : TrackId) (x : Slot) (s : State) : State :=
  let s1 := { s.modTrack t (fun tr => { tr with ring := tr.ring ++ [x] }) with slotSeq := s.slotSeq + 1 }
  match x.request t with
  | none => s1
  | some r =>
    let b := (s.clip r.clip).bank
    if (s.bank b).fetch.length < Config.fetchQueue then bankSettle b (joinFetch b r s1) else s1

/-! ### The walk (R64 to R69) -/

/-- The walk of a track, changed. -/
def Track.setPhase (tr : Track) (p : WalkPhase) : Track := { tr with walk := { tr.walk with phase := p } }

/-- The copy before the back copy is a HOLD, so the back copy is the index+1 it prepares (R68). -/
def Track.beyondHold (tr : Track) : Bool :=
  match tr.queue.dropLast.getLast? with
  | some c => c.isHold
  | none => false

/-- A play of the back copy remains to be prepared (R65). The last-play mark is the front copy's (R43). -/
def Track.preparesMore (tr : Track) (c : Copy) : Bool :=
  !c.trailing && !(tr.queue.length = 1 && tr.lastPlay) &&
    (c.entry.plays = 0 || c.prepared < c.entry.plays.toNat)

/-- What follows the trailing copy of a late branch, decided as the walk passes the branch (R66). -/
def Track.afterBranch (tr : Track) (c : Copy) : AfterTrailing :=
  match c.entry.next with
  | .goto => .go (c.entry.target.index c.index)
  | .call => .call (c.entry.target.index c.index) (c.index + 2)
  | .ret =>
    match tr.walk.shadow with
    | some l => .go l
    | none => .noLink
  | .ifSet | .ifClear => .awaitIf
  | .next | .hold | .finish => .none

/-- The walk goes on from a trailing copy (R66). -/
def Track.afterTrailing (tr : Track) : Track :=
  match tr.walk.after with
  | .go i => tr.setPhase (.copy i false)
  | .call i l => { tr with walk := { tr.walk with phase := .copy i false, shadow := some l } }
  | .noLink => tr.setPhase (.done .noLink)
  | .awaitIf =>
    match tr.walk.decided with
    | some i => { tr with walk := { tr.walk with phase := .copy i false, decided := none } }
    | none => tr.setPhase .await
  | .none => tr.setPhase (.done .finish)

/-- The walk decides what follows the last play of the back copy (R65, R66, R68, R69). -/
def Track.walkOn (tr : Track) (c : Copy) : Track :=
  if c.trailing then tr.afterTrailing
  else if c.entry.isLateBranch then
    { tr with walk := { tr.walk with phase := .copy (c.index + 1) true, after := tr.afterBranch c } }
  else
    match c.entry.next with
    | .next | .hold => tr.setPhase (.copy (c.index + 1) false)
    | .goto => tr.setPhase (.copy (c.entry.target.index c.index) false)
    | .call =>
      { tr with
        walk :=
          { tr.walk with
            phase := .copy (c.entry.target.index c.index) false
            shadow := some (c.index + 1) } }
    | .ret =>
      match tr.walk.shadow with
      | some l => tr.setPhase (.copy l false)
      | none => tr.setPhase (.done .noLink)
    | .ifSet | .ifClear =>
      if c.entry.target.index c.index = c.index + 1 then tr.setPhase (.copy (c.index + 1) false)
      else tr.setPhase .splitWait
    | .finish => tr.setPhase (.done .finish)

/-- The walk has made every slot of a play of the back copy: beyond a HOLD it rests; otherwise it goes on with the next
play or with what follows (R65, R68). -/
def Track.endOfPlay (tr : Track) (c : Copy) : Track :=
  if tr.beyondHold then tr.setPhase .hold
  else
    let c' := { c with prepared := c.prepared + 1 }
    let tr' : Track := { tr with queue := tr.queue.dropLast ++ [c'] }
    if tr'.preparesMore c' then tr'.setPhase (.slots 0) else tr'.walkOn c'

/-- Take the copy at an index into the queue; a BAD copy stops the walk (R58, R67). -/
def takeCopy (t : TrackId) (i : CueIndex) (trailing : Bool) (s : State) : State :=
  let c := s.copyOf i .main trailing
  s.modTrack t fun tr =>
    { tr with
      queue := tr.queue ++ [c]
      walk := { tr.walk with phase := if c.status = .good then .slots 0 else .done .bad } }

/-- Form a split at an IF copy: copy the target, then index+1 (R69, step 1). -/
def formSplit (t : TrackId) (c : Copy) (s : State) : State :=
  let taken := s.copyOf (c.entry.target.index c.index) .taken false
  let fall := s.copyOf (c.index + 1) .fall false
  s.modTrack t fun tr => ({ tr with queue := tr.queue ++ [taken, fall] } : Track).setPhase .split

/-- How many slots a path of a split gets: none when BAD, one for a first play of one block, else two (R69, step 3). -/
def Copy.splitSlots (c : Copy) : Nat := if c.status = .good then min 2 c.length else 0

/-- The slots of a path in the ring. -/
def Track.madeOn (tr : Track) (p : PathTag) : Nat := tr.ring.countP (fun x => x.path = p)

/-- The next slot of a split, as a copy and the block of its first play: TAKEN and FALL alternating, TAKEN first (R69,
step 2). -/
def Track.nextSplit (tr : Track) : Option (Copy × Nat) :=
  let made := tr.madeOn .taken
  let fell := tr.madeOn .fall
  match tr.queue.find? (fun c => c.path = .taken), tr.queue.find? (fun c => c.path = .fall) with
  | some a, some b =>
    if made < a.splitSlots && (made ≤ fell || b.splitSlots ≤ fell) then some (a, made)
    else if fell < b.splitSlots then some (b, fell)
    else none
  | _, _ => none

/-- One step of the walk of track `t`, or `none` when it is stopped, at rest or lacks the room (R64, R67). -/
def walkStep (t : TrackId) (s : State) : Option State :=
  let tr := s.track t
  let roomForSlot := tr.ring.length < Config.ringSlots
  match tr.walk.phase with
  | .stopped | .hold | .await | .done _ => none
  | .copy i trailing =>
    if tr.queue.length < Config.entryQueue then some (takeCopy t i trailing s) else none
  | .slots k =>
    match tr.queue.getLast? with
    | none => none
    | some c =>
      if c.length ≤ k then some (s.setTrack t (tr.endOfPlay c))
      else if roomForSlot then
        some (addSlot t (c.slot s.slotSeq k tr.beyondHold) (s.setTrack t (tr.setPhase (.slots (k + 1)))))
      else none
  | .splitWait =>
    match tr.queue.getLast? with
    | none => none
    | some c => if tr.queue.length + 2 ≤ Config.entryQueue then some (formSplit t c s) else none
  | .split =>
    match tr.nextSplit with
    | none => none
    | some (c, k) => if roomForSlot then some (addSlot t (c.slot s.slotSeq k false) s) else none

/-- Steps of the walk until it lacks room or comes to rest, at most `n` of them. -/
def walkLoop (t : TrackId) : Nat → State → State
  | 0, s => s
  | n + 1, s =>
    match walkStep t s with
    | none => s
    | some s' => walkLoop t n s'

/-- More steps than a walk can take at one event: 4 copies, 8 slots and a decision after each play (R64). -/
def walkBound : Nat := 64

/-! ### Priming (R30) -/

/-- The walk is at rest: it is not stopped for want of a program, and has no step (R30, R67). -/
def atRest (t : TrackId) (s : State) : Bool :=
  (s.track t).walk.phase ≠ .stopped && (walkStep t s).isNone

/-- The slot is FILLED or FAULTY. -/
def Slot.settled (x : Slot) : Bool := x.state = .filled || x.state = .faulty

/-- The priming condition (R30). -/
def primingMet (t : TrackId) (s : State) : Bool :=
  Config.primingDepth ≤ (s.track t).ring.countP (fun x => x.state = .filled) ||
    (atRest t s && (s.track t).ring.all Slot.settled)

/-- Judge the priming condition: in PRIMING the track becomes READY with PRIMED, in STARTING it sets the mark (R30). -/
def checkPriming (t : TrackId) (s : State) : State :=
  let tr := s.track t
  if !tr.primed && (tr.state = .priming || tr.state = .starting) && primingMet t s then
    if tr.state = .priming then
      (s.setTrack t { tr with primed := true, state := .ready }).raise (trackSource t) .primed
    else s.setTrack t { tr with primed := true }
  else s

/-- The lookahead of track `t` takes every step it has room for, and the track judges priming (R30, R64). -/
def walk (t : TrackId) (s : State) : State := checkPriming t (walkLoop t walkBound s)

/-! ### Discards (R75, R76) -/

/-- Discard the whole queue and ring; the walk's decided successor returns to none (R66, R75). -/
def discardAll (t : TrackId) (s : State) : State :=
  let dead := (s.track t).ring.map Slot.id
  dropSlots t dead (s.modTrack t fun tr => { tr with queue := [], walk := Walk.stopped, decision := .none })

/-- Restart the walk at home: home is the next index to copy, the shadow link empty (R64). -/
def restartWalk (t : TrackId) (s : State) : State :=
  walk t (s.modTrack t fun tr =>
    { tr with walk := { phase := .copy tr.home false, shadow := none, decided := none, after := .none } })

/-- The re-walk of a TRACK BREAK in PLAYING (R75): keep the front copy and the slots of the blocks that remain of the
play in progress, discard the rest, and walk on from the end of this play. -/
def breakWalk (t : TrackId) (s : State) : State :=
  let tr := s.track t
  match tr.queue with
  | [] => s
  | c :: _ =>
    let remain := c.length - (tr.block + 1)
    let keep := tr.ring.take remain
    let s1 := s.setTrack t
      { tr with
        queue := [{ c with prepared := tr.playNumber - 1 }]
        walk :=
          { phase := .slots (tr.block + 1 + keep.length)
            shadow := tr.link
            decided := none
            after := .none } }
    walk t (dropSlots t ((tr.ring.drop remain).map Slot.id) s1)

/-- The chosen path of a split becomes MAIN, and the walk resumes after the slots it has made of it (R70, steps 2 and
4). -/
def Track.adoptPath (tr : Track) (chosen : PathTag) : Track :=
  { tr with
    queue := tr.queue.map (fun c => { c with path := .main })
    ring := tr.ring.map (fun x => if x.path = chosen then { x with path := .main } else x)
    walk := { tr.walk with phase := .slots (tr.madeOn chosen) } }

/-- Resolve a split toward a path, in the order of R70's steps: the losing path's copy and slots are discarded, and the
places they free are offered while the chosen slots are still UNSCHEDULED (step 1); then the chosen path becomes MAIN
(step 2). -/
def resolveSplit (t : TrackId) (chosen : PathTag) (s : State) : State :=
  let losing := (s.track t).ring.filter (fun x => x.path ≠ chosen && x.path ≠ .main)
  let s1 := s.modTrack t fun tr =>
    { tr with queue := tr.queue.filter (fun c => c.path = chosen || c.path = .main) }
  (dropSlots t (losing.map Slot.id) s1).modTrack t (·.adoptPath chosen)

/-- A late IF's decision reaches the lookahead: a walk AWAITING DECISION copies the successor next, and another keeps it
as its decided successor (R66). -/
def Track.handDecision (tr : Track) (i : CueIndex) : Track :=
  if tr.walk.phase = .await then tr.setPhase (.copy i false)
  else { tr with walk := { tr.walk with decided := some i } }

/-- The release of a HOLD reaches the lookahead: deadlines become known, and a walk at rest for the HOLD resumes
(R68). -/
def Track.releaseWalk (tr : Track) : Track :=
  let tr' : Track := { tr with ring := tr.ring.map (fun x => { x with gated := false }) }
  match tr'.walk.phase, tr'.queue.getLast? with
  | .hold, some c => tr'.setPhase (.slots c.length)
  | _, _ => tr'

end Sys2Proof.Machine
end

