-- ==== Sys2Proof/Machine/Store.lean ====
section
/-! DEFINITION. The scene store (chapter 06): the allocation of a run (R122), the store requests, the completions of
the banks (R125, R128, R132, R143, R146) and the power-up scan (R137). STORE POLICY is R149. What a bank does next at
each of these events is `bankSettle`. -/

namespace Sys2Proof.Machine

/-! ### Runs of FREE sectors (R122) -/

/-- The `n` sectors of bank `b` from sector `k` on are FREE. -/
def State.runFree (s : State) (b : BankId) (k : Nat) : Nat → Bool
  | 0 => true
  | n + 1 => s.sector b k = .free && s.runFree b (k + 1) n

/-- The first of the `fuel` sectors from `k` on at which a run of `n` FREE sectors within the bank starts. -/
def State.findRun (s : State) (b : BankId) (n : Nat) : Nat → Nat → Option Nat
  | 0, _ => none
  | fuel + 1, k =>
    if k + n ≤ Config.sectorsPerBank && s.runFree b k n then some k else s.findRun b n fuel (k + 1)

/-- The first sector of the run CLIP OPEN allocates: the lowest run of `n` FREE sectors of bank `b` (R122). -/
def State.freeRun (s : State) (b : BankId) (n : Nat) : Option Nat := s.findRun b n Config.sectorsPerBank 0

/-- The `n` sectors of bank `b` from `k` on become ALLOCATED. -/
def allocate (b : BankId) (k n : Nat) (s : State) : State :=
  { s with
    store :=
      { s.store with
        sectors := tableSplice .free s.store.sectors (sectorKey b k) (List.replicate n .allocated) } }

/-! ### Opening, writing, closing and dropping a clip (R121 to R127) -/

/-- CLIP OPEN taken: the run becomes ALLOCATED and the record OPEN (R121). -/
def openClip (v : OpenValues) (first : Nat) (s : State) : State :=
  (allocate v.bank first v.sectors s).setClip v.id
    { state := .opened
      bank := v.bank
      first := first
      sectors := v.sectors
      decimation := v.decimation
      ref := v.ref
      label := v.label
      blocks := 0
      nextPage := 0
      ended := false }

/-- CLIP OPEN, checked in the order of R121. -/
def handleClipOpen (p : List Byte) (s : State) : Reply :=
  if p.length ≠ 33 then .error .length
  else
    match readOpen p with
    | none => .error .range
    | some v =>
      if s.store.scanning then .error .state
      else if (s.clip v.id).state ≠ .empty then .error .inUse
      else
        match s.freeRun v.bank v.sectors with
        | none => .error .noSpace
        | some first => .done (le16 first) (openClip v first s)

/-- The data of a page is a whole number of blocks, 1…D of them (R123). -/
def pageFits (d n : Nat) : Bool := n ≠ 0 && n % blockBytes d = 0 && n / blockBytes d ≤ d

/-- CLIP DATA taken: the page joins the program queue, and a short page ends the clip (R124). -/
def acceptPage (c : ClipId) (data : List Byte) (s : State) : State :=
  let r := s.clip c
  let s1 := s.setClip c
    { r with
      nextPage := r.nextPage + 1
      ended := r.ended || data.length / blockBytes r.decimation < r.decimation }
  let s2 := s1.modBank r.bank fun k =>
    { k with programQueue := k.programQueue ++ [{ clip := c, index := r.nextPage, data := data }] }
  bankSettle r.bank s2

/-- CLIP DATA, checked in the order of R123. -/
def handleClipData (p : List Byte) (s : State) : Reply :=
  if p.length < 6 then .error .length
  else
    match readClip (word16 p 0) with
    | none => .error .range
    | some c =>
      let r := s.clip c
      let data := p.drop 6
      if s.store.scanning then .error .state
      else if r.state ≠ .opened then .error .state
      else if r.ended then .error .order
      else if word32 p 2 ≠ r.nextPage then .error .order
      else if r.nextPage = r.sectors * Config.pagesPerSector then .error .noSpace
      else if !pageFits r.decimation data.length then .error .length
      else if Config.programQueue ≤ (s.bank r.bank).programQueue.length then .error .busy
      else .done (le32 (r.nextPage + 1) ++ le32 r.blocks) (acceptPage c data s)

/-- Reader of a request that carries one clip id. -/
def readClipRequest (p : List Byte) : Except AnswerCode ClipId :=
  if p.length ≠ 2 then .error .length
  else
    match readClip (word16 p 0) with
    | none => .error .range
    | some c => .ok c

/-- CLIP CLOSE (R126). -/
def handleClipClose (p : List Byte) (s : State) : Reply :=
  match readClipRequest p with
  | .error code => .error code
  | .ok c =>
    let r := s.clip c
    if s.store.scanning then .error .state
    else if r.state ≠ .opened then .error .state
    else if s.pagesInQueue c ≠ 0 then .error .busy
    else if r.blocks = 0 then .error .state
    else .done (le32 r.blocks) (s.setClip c { r with state := .ready })

/-- The key of the sector map lies in a clip's run. -/
def ClipRecord.inRun (r : ClipRecord) (key : Nat) : Bool :=
  sectorKey r.bank r.first ≤ key && key < sectorKey r.bank (r.first + r.sectors)

/-- How many sectors of a clip's run are ALLOCATED. -/
def State.allocatedCount (s : State) (r : ClipRecord) : Nat :=
  s.store.sectors.countP fun e => r.inRun e.1 && e.2 = .allocated

/-- The ALLOCATED sectors of a clip's run become DIRTY (R127). -/
def dirtyRun (r : ClipRecord) (s : State) : State :=
  { s with
    store :=
      { s.store with
        sectors := s.store.sectors.map fun e => (e.1, if r.inRun e.1 && e.2 = .allocated then .dirty else e.2) } }

/-- CLIP DROP taken: the run's ALLOCATED sectors become DIRTY and the record EMPTY; a free bank may start an erase
(R127). -/
def dropClip (c : ClipId) (s : State) : State :=
  let r := s.clip c
  bankSettle r.bank ((dirtyRun r s).setClip c ClipRecord.empty)

/-- CLIP DROP (R127). -/
def handleClipDrop (p : List Byte) (s : State) : Reply :=
  match readClipRequest p with
  | .error code => .error code
  | .ok c =>
    if s.store.scanning then .error .state
    else if (s.clip c).state = .empty then .error .notFound
    else if s.useCount c ≠ 0 then .error .inUse
    else if s.pagesInQueue c ≠ 0 then .error .busy
    else .done (le16 (s.allocatedCount (s.clip c))) (dropClip c s)

/-- The 48 bytes of CLIP INFO (section 11.7). -/
def clipInfo (c : ClipId) (s : State) : List Byte :=
  let r := s.clip c
  le16 c.1 ++ le8 r.state.code ++ le8 r.bank.1 ++ le16 r.first ++ le16 r.sectors ++ le8 r.decimation ++
  bit8 r.ended ++ leSigned16 r.ref ++ le32 r.blocks ++ le32 r.nextPage ++ le8 (s.pagesInQueue c) ++
  le8 r.label.length ++ le16 (s.useCount c) ++ padTo 24 r.label

/-- CLIP INFO (R134). -/
def handleClipInfo (p : List Byte) (s : State) : Reply :=
  match readClipRequest p with
  | .error code => .error code
  | .ok c => if s.store.scanning then .error .state else .done (clipInfo c s) s

/-! ### The banks (R129 to R131, R135, R149) -/

/-- How many sectors of bank `b` the map lists in a state other than FREE. -/
def State.listedSectors (s : State) (b : BankId) (x : SectorState) : Nat :=
  s.store.sectors.countP fun e => sectorKey b 0 ≤ e.1 && e.1 < sectorKey b 8192 && e.2 = x

/-- How many sectors of bank `b` are in a state (R135). -/
def State.sectorCount (s : State) (b : BankId) (x : SectorState) : Nat :=
  match x with
  | .free =>
    8192 - (s.listedSectors b .allocated + s.listedSectors b .dirty + s.listedSectors b .erasing +
      s.listedSectors b .unsettled + s.listedSectors b .retired)
  | x => s.listedSectors b x

/-- The clip or sector and the page index of a store operation, as STORE STATUS reports them. -/
def opFields : Option Operation → Nat × Nat
  | none => (0, 0)
  | some op =>
    match op.kind with
    | .program c q => (c.1, q)
    | .erase n => (n, 0)

/-- The suspension count of the operation in progress, 0 without one (R144). -/
def Bank.suspensions (k : Bank) : Nat := (k.op.map Operation.count).getD 0

/-- The 28 bytes of a bank record (section 11.7). -/
def bankStatus (s : State) (b : BankId) : List Byte :=
  let k := s.bank b
  le16 (s.sectorCount b .free) ++ le16 (s.sectorCount b .allocated) ++ le16 (s.sectorCount b .dirty) ++
  le16 (s.sectorCount b .erasing) ++ le16 (s.sectorCount b .unsettled) ++ le16 (s.sectorCount b .retired) ++
  le8 (opCode k.op) ++ le8 (subCode k.op) ++ le16 (opFields k.op).1 ++ le32 (opFields k.op).2 ++
  le8 k.programQueue.length ++ le8 k.fetch.length ++ bit8 k.sweep ++ bit8 k.eraseHold ++ le8 k.policy.code ++
  bit8 k.autoSweep ++ le8 k.suspensions ++ [0]

/-- STORE STATUS (R135). -/
def handleStoreStatus (p : List Byte) (s : State) : Reply :=
  if p.length ≠ 0 then .error .length
  else if s.store.scanning then .error .state
  else .done (allFour.flatMap (bankStatus s)) s

/-- Reader of a request that carries one bank number. -/
def readBankRequest (p : List Byte) : Except AnswerCode BankId :=
  if p.length ≠ 1 then .error .length
  else
    match readFour (byteAt p 0) with
    | none => .error .range
    | some b => .ok b

/-- An erase is in progress at the bank. -/
def Bank.erasing (k : Bank) : Bool :=
  match k.op with
  | some op => match op.kind with
    | .erase _ => true
    | .program _ _ => false
  | none => false

/-- STORE SWEEP taken (R129): a sweep with nothing to erase ends at once. -/
def sweepBank (b : BankId) (s : State) : State :=
  let k := s.bank b
  if k.sweep then s
  else if (s.erasable b).isEmpty && !k.erasing then
    (s.setBank b { k with eraseHold := false }).raise (bankSource b) .sweepDone
  else bankSettle b (s.setBank b { k with sweep := true, eraseHold := false })

/-- STORE SWEEP (R129). -/
def handleStoreSweep (p : List Byte) (s : State) : Reply :=
  match readBankRequest p with
  | .error code => .error code
  | .ok b =>
    if s.store.scanning then .error .state
    else .done (le16 (s.erasable b).length) (sweepBank b s)

/-- The clip becomes DAMAGED and its pages leave the program queue of its bank (R131, R132). -/
def damageClip (b : BankId) (c : ClipId) (s : State) : State :=
  (s.setClip c { s.clip c with state := .damaged }).modBank b fun k =>
    { k with programQueue := k.programQueue.filter (fun p => p.clip ≠ c) }

/-- The store operation of a bank becomes NONE. -/
def endOperation (b : BankId) (s : State) : State := s.modBank b fun k => { k with op := none }

/-- The operation in progress is stopped by a STORE HALT (R131, step 1). -/
def stopOperation (b : BankId) (s : State) : State :=
  match (s.bank b).op with
  | none => s
  | some op =>
    match op.kind with
    | .program c _ => endOperation b (damageClip b c s)
    | .erase n => endOperation b (s.setSector b n .unsettled)

/-- STORE HALT taken (R131, R150). -/
def haltBank (b : BankId) (s : State) : State :=
  let s1 := (stopOperation b s).modBank b fun k => { k with sweep := false, eraseHold := true }
  bankSettle b (s1.raise (bankSource b) .halted)

/-- STORE HALT (R131). -/
def handleStoreHalt (p : List Byte) (s : State) : Reply :=
  match readBankRequest p with
  | .error code => .error code
  | .ok b => if s.store.scanning then .error .state else .done [] (haltBank b s)

/-- STORE POLICY taken (R149): waiting requests may suspend a RUNNING operation, and a free bank may start an erase. -/
def setPolicy (b : BankId) (policy : Policy) (auto : Bool) (s : State) : State :=
  let s1 := s.modBank b fun k => { k with policy := policy, autoSweep := auto, eraseHold := false }
  bankSettle b (suspendReact b s1)

/-- STORE POLICY (R149). -/
def handleStorePolicy (p : List Byte) (s : State) : Reply :=
  if p.length ≠ 3 then .error .length
  else
    match readFour (byteAt p 0), readPolicy (byteAt p 1), readBool (byteAt p 2) with
    | some b, some policy, some auto =>
      if s.store.scanning then .error .state else .done [] (setPolicy b policy auto s)
    | _, _, _ => .error .range

/-! ### Completions (R125, R128, R132, R143, R146) -/

/-- The result of a read reaches its slot: FILLED with the block, or FAULTY; a slot that has left the ring takes
nothing, and the completion is stale (R62). -/
def deliverRead (r : FetchRequest) (correct : Bool) (s : State) : State :=
  let data := s.blockData r.clip r.block
  s.modTrack r.track fun tr =>
    tr.modSlot r.slot fun x => if correct then { x with state := .filled, data := data } else { x with state := .faulty }

/-- BLOCK_READ_COMPLETION (R62, R143): the result is delivered, the track judges its priming, and the bank goes on. -/
def completeRead (b : BankId) (correct : Bool) (s : State) : State :=
  match (s.bank b).inFlight with
  | none => s
  | some r =>
    let s1 := checkPriming r.track (deliverRead r correct s)
    bankSettle b (s1.modBank b fun k => { k with inFlight := none })

/-- The page in progress is programmed: its bytes stand in flash, its blocks are counted, and it leaves the queue
(R125). -/
def programPage (b : BankId) (page : Page) (s : State) : State :=
  let r := s.clip page.clip
  let s1 := { s with
    store := { s.store with flash := Memory.writeAll s.store.flash (r.pageAddress page.index) page.data } }
  (s1.setClip page.clip { r with blocks := r.blocks + page.data.length / blockBytes r.decimation }).modBank b
    fun k => { k with programQueue := k.programQueue.tail }

/-- The program of page `q` of clip `c` failed: its sector is RETIRED, the clip DAMAGED and its pages discarded
(R132). -/
def failProgram (b : BankId) (c : ClipId) (q : Nat) (s : State) : State :=
  let r := s.clip c
  (damageClip b c (s.setSector b (r.first + q / Config.pagesPerSector) .retired)).raise (bankSource b) .programFail

/-- PROGRAM_COMPLETION (R125, R132). A suspended operation does not complete (R144). -/
def completeProgram (b : BankId) (success : Bool) (s : State) : State :=
  match (s.bank b).op, (s.bank b).programQueue with
  | some op, page :: _ =>
    match op.kind with
    | .program c q =>
      if op.sub = .suspended then s
      else if success then bankSettle b (endOperation b (programPage b page s))
      else bankSettle b (endOperation b (failProgram b c q s))
    | .erase _ => s
  | _, _ => s

/-- The flash addresses of a sector are erased. -/
def eraseSector (b : BankId) (n : Nat) (s : State) : State :=
  { s with
    store :=
      { s.store with
        flash := Memory.erase s.store.flash (flashAddress b n 0 0) (Config.pagesPerSector * Config.pageBytes) } }

/-- The erased sector becomes FREE, or RETIRED with ERASE_FAIL (R128, R133). -/
def endErase (b : BankId) (n : Nat) (success : Bool) (s : State) : State :=
  if success then eraseSector b n (s.setSector b n .free)
  else (s.setSector b n .retired).raise (bankSource b) .eraseFail

/-- The sweep ends when an erase completion leaves no DIRTY or UNSETTLED sector (R129). -/
def endSweep (b : BankId) (s : State) : State :=
  if (s.bank b).sweep && (s.erasable b).isEmpty then
    (s.modBank b fun k => { k with sweep := false }).raise (bankSource b) .sweepDone
  else s

/-- ERASE_COMPLETION (R128). A suspended operation does not complete (R144). -/
def completeErase (b : BankId) (success : Bool) (s : State) : State :=
  match (s.bank b).op with
  | none => s
  | some op =>
    match op.kind with
    | .program _ _ => s
    | .erase n =>
      if op.sub = .suspended then s
      else bankSettle b (endSweep b (endOperation b (endErase b n success s)))

/-- SUSPEND_COMPLETION (R146): the operation is SUSPENDED with its count raised; the bank reads, or resumes at once. -/
def completeSuspend (b : BankId) (s : State) : State :=
  match (s.bank b).op with
  | none => s
  | some op =>
    if op.sub = .suspending then
      bankSettle b (s.modBank b fun k => { k with op := some { op with sub := .suspended, count := op.count + 1 } })
    else s

/-! ### The power-up scan (R137) -/

/-- The scan leaves no clip OPEN. -/
def ClipRecord.scanned (r : ClipRecord) : ClipRecord := if r.state = .opened then { r with state := .damaged } else r

/-- The scan leaves no sector ERASING. -/
def SectorState.scanned (x : SectorState) : SectorState := if x = .erasing then .unsettled else x

/-- SCAN_COMPLETION (R137): OPEN clips become DAMAGED, ERASING sectors UNSETTLED, SCAN_DONE is raised at the four banks,
and the banks are free. -/
def completeScan (s : State) : State :=
  if s.store.scanning then
    let s1 := { s with
      store :=
        { s.store with
          scanning := false
          clips := s.store.clips.map (fun e => (e.1, e.2.scanned))
          sectors := s.store.sectors.map (fun e => (e.1, e.2.scanned)) } }
    forEach allFour (fun s b => bankSettle b s)
      (forEach allFour (fun s b => s.raise (bankSource b) .scanDone) s1)
  else s

end Sys2Proof.Machine
end

