-- ==== Sys2Proof/Machine/Device.lean ====
section
/-! DEFINITION. The part itself (section 10.4): DEVICE INFO, the warm reset of DEVICE RESET (R196), the hard reset and
its release (R155, R169, R197). -/

namespace Sys2Proof.Machine

/-! ### DEVICE INFO (R195) -/

/-- The family name, padded with spaces to eight bytes. -/
def familyName : List Byte := [0x4B, 0x6F, 0x6C, 0x76, 0x61, 0x72, 0x61, 0x20]

/-- The 37 bytes of DEVICE INFO: name, part code, revision and the capacities of R195 in its table's order. -/
def deviceInfoBytes : List Byte :=
  familyName ++ le16 0x4804 ++ le8 1 ++ le8 48 ++ le8 4 ++ le8 4 ++ le16 4096 ++ le8 16 ++
  le8 Config.entryQueue ++ le8 Config.ringSlots ++ le8 Config.primingDepth ++ le16 1024 ++ le8 4 ++
  le16 Config.sectorsPerBank ++ le8 Config.programQueue ++ le8 Config.fetchQueue ++ le8 Config.suspensionCap ++
  le8 4 ++ le8 4 ++ le8 Config.captureQueue ++ le8 Config.requestQueue ++ le8 Config.answerList ++
  le16 Config.largestPayload ++ le8 59 ++ le8 8

/-- DEVICE INFO (R195). -/
def handleDeviceInfo (p : List Byte) (s : State) : Reply :=
  if p.length ≠ 0 then .error .length else .done deviceInfoBytes s

/-! ### The warm reset (R196) -/

/-- A port at a warm reset: OFF, backoff and counts 0, no pending set; calibration and guard kept (R114). -/
def Port.warmReset (p : Port) : Port :=
  { p with
    state := .off
    backoff := 0
    lastClips := 0
    lastFeeds := 0
    overloads := 0
    pending := none
    feeds := 0
    sum := [] }

/-- The line unit at a warm reset: configuration and levels kept, no holdoff or pulse remains, the capture queue empty
(R181). -/
def Lines.warmReset (l : Lines) : Lines :=
  { triggers := l.triggers.map fun x => { x with remaining := 0 }
    markers := l.markers.map fun x => { x with remaining := 0 }
    captures := []
    overrun := false }

/-- The notice table at a warm reset: levels and enable kept, no record (R189, R196). -/
def NoticeTable.warmReset (n : NoticeTable) : NoticeTable := { n with records := Vector.replicate 59 none }

/-- The warm reset, in one event (R196): every block takes its own; the requests behind the DEVICE RESET are discarded.
A SUSPENDED operation with no read in flight resumes, its fetch queue being empty (R152). The link receiver's state,
start mark and gap count are kept, as R185 and R196 say, where R182 has the receiver in HUNT with the mark clear (the
model's choice: log entry 37). -/
def warmReset (s : State) : State :=
  forEach allFour (fun s b => bankSettle b s)
    { s with
      tracks := Vector.replicate 48 Track.reset
      flags := 0
      ports := s.ports.map Port.warmReset
      banks := s.banks.map fun k => { k with fetch := [] }
      timeline := { s.timeline with pendingSet := none }
      lines := s.lines.warmReset
      notices := s.notices.warmReset
      link := { s.link with requests := s.link.requests.take 1 } }

/-- DEVICE RESET (R196). -/
def handleDeviceReset (p : List Byte) (s : State) : Reply :=
  if p.length ≠ 0 then .error .length else .done [] (warmReset s)

/-! ### The hard reset (R136, R167, R181, R197) -/

/-- HARD_RESET: every block at its hard-reset value and held there; the persistent record and the flash stay, and the
power-up scan begins (R119, R136). -/
def hardReset (s : State) : State :=
  { State.reset with
    held := true
    store := { s.store with scanning := true }
    pending := s.pending }

/-- A trigger line whose input is sampled for the first time after a hard reset (R169). -/
def TriggerLine.sampled (x : TriggerLine) (level : Bool) : TriggerLine := { x with level := level }

/-- RESET_RELEASE: the tick with count 0 begins, and the first sample of each input sets its level last seen (R155,
R169). -/
def releaseReset (levels : BitVec 4) (s : State) : State :=
  if s.held then
    { s with
      held := false
      lines :=
        { s.lines with
          triggers := Vector.ofFn fun n : Fin 4 => (s.lines.triggers[n]).sampled (levels.getLsbD n.1) } }
  else s

end Sys2Proof.Machine
end

