-- ==== Sys2Proof/Machine/Level.lean ====
section
/-! DEFINITION. Level and frequency arithmetic (chapter 04): fades, base, gain, scaling, interpolation, frequency clamp,
NCO word and rotation, and the saturation of a port (R100). All of it is integer arithmetic on values; the track and
port state it works on is changed in `Machine/Track.lean`. -/

namespace Sys2Proof.Machine

/-! ### Fades (R82 to R84) -/

/-- Fade-in attenuation of block `k` of a first play with fade-in field `f`: ((F − k) × 180) div F while k is below F,
none (0) beyond it (R82). -/
def fadeInAtt (f k : Nat) : Nat := if k < f then (f - k) * 180 / f else 0

/-- Fade-out attenuation with `m` ticks left in a last play and fade-out field `g`: ((G − m + 1) × 180) div G while m is
at most G (R83). -/
def fadeOutAtt (g m : Nat) : Nat := if g ≠ 0 ∧ m ≤ g then (g - m + 1) * 180 / g else 0

/-- Stop-fade attenuation at position `j` of a FADE stop of `h` ticks (R84). -/
def stopFadeAtt (h j : Nat) : Nat := j * 180 / h

/-! ### Level base, total and gain (R81, R85, R86) -/

/-- The raw sum of the level base (R81). -/
def rawBase (fs ref : Int) (x : Nat) (level : Int) (trim offset : Nat) : Int :=
  fs + ref - x - level + trim + offset

/-- The level base: the raw sum, clamped at 0 (R81). -/
def levelBase (raw : Int) : Nat := raw.toNat

/-- The gain table T (R86). -/
def gainTable : List Nat :=
  [32768, 30935, 29205, 27571, 26029, 24573, 23198, 21900, 20675, 19519, 18427, 17396]

/-- The gain factor of a total attenuation: T[A mod 12] shifted right by A div 12, and 0 above 180 hd (R85, R86). -/
def gainOf (a : Nat) : Nat := if a ≤ 180 then gainTable.getD (a % 12) 0 / 2 ^ (a / 12) else 0

/-- A sample component scaled by a gain factor: x × g / 32768 rounded to the nearest, halves upward (R87). -/
def scaleComponent (g : Nat) (x : Int) : Int := (x * g + 16384) / 32768

/-- A stored sample scaled by a gain factor (R87). -/
def scaleSample (g : Nat) (x : Sample) : Sample := ⟨scaleComponent g x.i, scaleComponent g x.q⟩

/-! ### Stored samples -/

/-- The samples of a block's bytes: four bytes hold one I/Q pair, I first, each little-endian (00_scope; log entry 9).
-/
def samplesOf : List Byte → List Sample
  | b0 :: b1 :: b2 :: b3 :: r =>
    ⟨signed 16 (b0.toNat + 256 * b1.toNat), signed 16 (b2.toNat + 256 * b3.toNat)⟩ :: samplesOf r
  | _ => []

/-- A block of zeros at decimation D: 4096 / D stored samples. -/
def zeroBlock (d : Nat) : List Sample := List.replicate (4096 / d) Sample.zero

/-- Every sample is zero. -/
def allZero (xs : List Sample) : Bool := xs.all (· = Sample.zero)

/-! ### Interpolation (R88) -/

/-- A component held within lo…hi. -/
def clampTo (lo hi z : Int) : Int := if z < lo then lo else if hi < z then hi else z

/-- The delay of a decimation in port samples (R88). -/
def delayOf (d : Nat) : Nat :=
  if d = 2 then 24 else if d = 4 then 40 else if d = 8 then 56 else if d = 16 then 72
  else if d = 32 then 88 else if d = 64 then 104 else if d = 128 then 120 else 0

/-- Port sample `n` of an interpolator that held `held` at D `hd` and takes the scaled samples `taken` at D `td` (R88).
Before the delay of `td` the new block shapes nothing, and from the delay of `hd` on, or where they are zeros, the held
samples and their D shape nothing, so that a ramp between two gains lasts no longer than that delay (R95); a port sample
that only zeros shape is zero; at D = 1 the samples that nothing else shapes pass unchanged; every other sample is a
free value held within 16 bits, of what shapes it and nothing else (log entry 13). -/
def interpolated (hd : Nat) (held : List Sample) (td : Nat) (taken : List Sample) (n : Nat) : Sample :=
  let spent := delayOf hd ≤ n || allZero held
  if spent && td = 1 then taken.getD n Sample.zero
  else if spent && (n < delayOf td || allZero taken) then Sample.zero
  else
    let y := Config.interpolate (if spent then td else hd) (if spent then [] else held) td
      (if n < delayOf td then [] else taken) n
    ⟨clampTo (-32768) 32767 y.i, clampTo (-32768) 32767 y.q⟩

/-! ### Rotation (R94) -/

/-- The squared magnitude of a sample. -/
def samplePower (x : Sample) : Int := x.i * x.i + x.q * x.q

/-- A rotation keeps the magnitude within 0.01 dB (a power ratio within 10^±0.001, R94). -/
def keepsMagnitude (y z : Sample) : Bool :=
  samplePower y * 997700063823 ≤ samplePower z * 1000000000000 &&
    samplePower z * 1000000000000 ≤ samplePower y * 1002305238077

/-- Both components lie within −46341…46341 (R94). -/
def rotatedInRange (z : Sample) : Bool := inRange (-46341) 46341 z.i && inRange (-46341) 46341 z.q

/-- One, in the fixed point of the rotator's cosine and sine. -/
def unity : Int := 2 ^ 40

/-- 1 − u/d₁ (1 − u/d₂ (…)), in fixed point: a cosine or sine series in the square `u` of the angle. -/
def series (u : Int) (ds : List Int) : Int := ds.foldr (fun d acc => unity - u * acc / (unity * d)) unity

/-- An angle below a quarter turn, given in units of 2^-32 turn, in radians: a quarter turn is π/2 (R94). -/
def radians (r : Nat) : Int := r * 1727108826179 / 2 ^ 30

/-- The cosine of an angle in radians of at most a quarter turn. -/
def cosine (a : Int) : Int := series (a * a / unity) [2, 12, 30, 56, 90, 132, 182, 240]

/-- The sine of an angle in radians of at most a quarter turn. -/
def sine (a : Int) : Int := a * series (a * a / unity) [6, 20, 42, 72, 110, 156, 210, 272] / unity

/-- A sample turned through `q` quarter turns, exactly. -/
def quarterTurns : Nat → Sample → Sample
  | 0, y => y
  | q + 1, y => let z := quarterTurns q y; ⟨-z.q, z.i⟩

/-- The quarter turns an angle holds. -/
def quartersOf (turn : BitVec 32) : Nat := turn.toNat / 2 ^ 30

/-- The angle beyond its quarter turns. -/
def beyondQuarters (turn : BitVec 32) : Nat := turn.toNat % 2 ^ 30

/-- The formula of R94 in fixed point: y_I × cos θ − y_Q × sin θ and y_I × sin θ + y_Q × cos θ, in units of
1 / `unity`. -/
def exactRotation (y : Sample) (turn : BitVec 32) : Sample :=
  let z := quarterTurns (quartersOf turn) y
  let a := radians (beyondQuarters turn)
  ⟨z.i * cosine a - z.q * sine a, z.i * sine a + z.q * cosine a⟩

/-- A fixed-point value as the nearest whole number. -/
def nearestWhole (v : Int) : Int := (v + unity / 2) / unity

/-- The whole-number sample nearest to what the formula of R94 gives. -/
def formulaOf (y : Sample) (turn : BitVec 32) : Sample :=
  let z := exactRotation y turn
  ⟨nearestWhole z.i, nearestWhole z.q⟩

/-- The squared distance of a whole-number sample from what the formula of R94 gives, in fixed point. -/
def offFormula (y : Sample) (turn : BitVec 32) (z : Sample) : Nat :=
  let w := exactRotation y turn
  (samplePower ⟨unity * z.i - w.i, unity * z.q - w.q⟩).toNat

/-- The whole-number samples whose components lie within `r` of those of `w`. -/
def window (w : Sample) (r : Nat) : List Sample :=
  let steps : List Int := (List.range (2 * r + 1)).map fun k => (k : Int) - r
  steps.flatMap fun a => steps.map fun b => ⟨w.i + a, w.q + b⟩

/-- The samples of a window that keep the magnitude of `y` and the range as R94 asks. -/
def keptAround (y w : Sample) (r : Nat) : List Sample :=
  (window w r).filter fun z => keepsMagnitude y z && rotatedInRange z

/-- The first of the window sizes whose window holds a sample that keeps the magnitude of `y`. A sample that is nearest
to the middle among all that keep it lies in the window of twice that size. -/
def keptWindow (y w : Sample) : Option Nat :=
  [0, 1, 2, 4, 8, 16, 32, 64].find? fun r => !(keptAround y w r).isEmpty

/-- The whole-number sample that stands for R94's rotation: of those that keep the magnitude as R94 asks, the nearest to
what its formula gives. A sample turned through quarter turns keeps it where the windows hold none (log entry 14). -/
def idealRotation (y : Sample) (turn : BitVec 32) : Sample :=
  let w := formulaOf y turn
  match keptWindow y w with
  | some r => (leastBy (offFormula y turn) (keptAround y w (2 * r))).getD (quarterTurns (quartersOf turn) y)
  | none => quarterTurns (quartersOf turn) y

/-- A sample that follows R94's rotation: its distance from it is at most about 0.02 dB of the magnitude, or 2.8 where
that is more (log entry 14). -/
def followsRotation (y z : Sample) (turn : BitVec 32) : Bool :=
  let w := idealRotation y turn
  samplePower ⟨z.i - w.i, z.q - w.q⟩ * 1000000 ≤ samplePower y * 6 + 8000000

/-- The interpolated sample `y` rotated through `turn`: a free value within the limits of R94 that follows its formula
(log entry 14). -/
def rotated (y : Sample) (turn : BitVec 32) : Sample :=
  let z := Config.rotate y turn
  if keepsMagnitude y z && rotatedInRange z && followsRotation y z turn then z else idealRotation y turn

/-- The angle of port sample `n`, in units of 2^-32 turn: accumulator plus n words plus the feed's phase (R93, R94). -/
def turnAt (acc word : BitVec 32) (phase : BitVec 16) (n : Nat) : BitVec 32 :=
  acc + BitVec.ofNat 32 n * word + BitVec.ofNat 32 (phase.toNat * 65536)

/-! ### Frequency (R89 to R92) -/

/-- The frequency limit of an entry: 16,000,000 − 16,000,000 / D, and 15,875,000 Hz for SILENCE (R89). -/
def freqLimit : Option Nat → Int
  | none => 15875000
  | some d => 16000000 - (16000000 / d : Nat)

/-- The detune the frequency clamp leaves (R90). -/
def clampDetune (limit offset detune : Int) : Int :=
  if limit < offset + detune then limit - offset
  else if offset + detune < -limit then -limit - offset
  else detune

/-- The clamp rewrites the detune: |F| is above the limit (R90). -/
def clampActs (limit offset detune : Int) : Bool := limit < offset + detune || offset + detune < -limit

/-- The magnitude of the NCO word: |F| × 65536 / 625 rounded to the nearest (R92). -/
def wordMagnitude (f : Nat) : Nat := (f * 65536 * 2 + 625) / 1250

/-- The NCO word of a frequency offset (R92). -/
def ncoWord (f : Int) : BitVec 32 :=
  if 0 ≤ f then BitVec.ofNat 32 (wordMagnitude f.natAbs)
  else -BitVec.ofNat 32 (wordMagnitude f.natAbs)

/-! ### The port's sum (R100, R101) -/

/-- Sum two runs of samples; the empty run stands for zeros. -/
def addSamples : List Sample → List Sample → List Sample
  | [], ys => ys
  | xs, [] => xs
  | x :: xs, y :: ys => ⟨x.i + y.i, x.q + y.q⟩ :: addSamples xs ys

/-- A sample with each component saturated to 16 bits (R100). -/
def saturate (x : Sample) : Sample := ⟨clampTo (-32768) 32767 x.i, clampTo (-32768) 32767 x.q⟩

/-- The saturation changes the sample's I, its Q or both (R101). -/
def isClipped (x : Sample) : Bool := saturate x ≠ x

end Sys2Proof.Machine
end

