-- ==== Sys2Proof/Machine/Line.lean ====
section
/-! DEFINITION. The line unit (chapter 09): trigger edges and the capture queue, marker outputs and their pulses,
LINE SET and CAPTURE READ. -/

namespace Sys2Proof.Machine

/-! ### Marker outputs (R175 to R177) -/

/-- Marker line `m` is active: PULSE while remaining is above 0, FOLLOW while its follow flag is set (R175). -/
def State.markerActive (s : State) (m : LineId) : Bool :=
  match (s.marker m).mode with
  | .off => false
  | .pulse => 0 < (s.marker m).remaining
  | .follow => s.flagSet (s.marker m).flag

/-- The level marker line `m` drives, `true` for high (R175). -/
def State.markerLevel (s : State) (m : LineId) : Bool :=
  match (s.marker m).polarity with
  | .activeHigh => s.markerActive m
  | .activeLow => !s.markerActive m

/-- A pulse request at a marker line: a line in mode PULSE stays active for at least its width (R176). -/
def pulseMarker (s : State) (m : LineId) : State :=
  match (s.marker m).mode with
  | .pulse => s.setMarker m { s.marker m with remaining := max (s.marker m).remaining (s.marker m).width }
  | _ => s

/-- The pulse requests of an entry start, one for each marker in the mask (R5, step 2). -/
def pulseMarkers (mask : BitVec 4) (s : State) : State :=
  forEach (allFour.filter (fun m => mask.getLsbD m.1)) pulseMarker s

/-- A marker line closes the tick that has ended: remaining falls by one when it is above 0 (R176). -/
def markerFall (s : State) (m : LineId) : State :=
  if s.work.markers.getLsbD m.1 then s
  else
    let s1 := { s with work := { s.work with markers := s.work.markers ||| BitVec.twoPow 4 m.1 } }
    s1.setMarker m { s.marker m with remaining := (s.marker m).remaining - 1 }

/-! ### Trigger inputs (R169 to R173) -/

/-- A trigger line at a tick start: holdoff remaining falls by one when it is above 0 (R171). -/
def triggerFall (s : State) (n : LineId) : State :=
  if s.work.triggers.getLsbD n.1 then s
  else
    let s1 := { s with work := { s.work with triggers := s.work.triggers ||| BitVec.twoPow 4 n.1 } }
    s1.setTrigger n { s.trigger n with remaining := (s.trigger n).remaining - 1 }

/-- The edge mode admits an edge (R171). -/
def EdgeMode.admits (m : EdgeMode) (rising : Bool) : Bool :=
  match m with
  | .off => false
  | .rise => rising
  | .fall => !rising
  | .both => true

/-- Offer a capture record to the capture queue (R173). -/
def offerCapture (c : Capture) (s : State) : State :=
  if s.lines.captures.length < Config.captureQueue then
    let s1 := { s with lines := { s.lines with captures := s.lines.captures ++ [c] } }
    s1.raiseIf s.lines.captures.isEmpty lineSource .captured
  else
    let s1 := { s with lines := { s.lines with overrun := true } }
    s1.raise lineSource .captureOverrun

/-- An accepted edge meets the TRIGGER condition of every track that is STARTING on the line (R34, R172). -/
def meetTrigger (n : LineId) (s : State) : State :=
  forEach (allTracks.filter (fun t => (s.track t).state = .starting && (s.track t).start = .trigger n))
    (fun s t => s.modTrack t (fun tr => { tr with startDue := true })) s

/-- An accepted edge on trigger line `n` (R171, R172): the holdoff, the capture record, the flag action and the tracks
that wait on the line. -/
def acceptEdge (n : LineId) (rising : Bool) (offset : BitVec 12) (s : State) : State :=
  let line := s.trigger n
  let s1 := s.setTrigger n { line with remaining := line.holdoff }
  let s2 := offerCapture { line := n, rising := rising, count := s.timeline.count, offset := offset } s1
  let s3 := if line.setsFlag then s2.setFlag line.flag else s2
  meetTrigger n s3

/-- The sample of trigger input `n` in a port sample: a level that differs from the level last seen is an edge (R169),
accepted when the edge mode admits it and no holdoff remains (R171). -/
def sampleTrigger (levels : BitVec 4) (offset : BitVec 12) (s : State) (n : LineId) : State :=
  let level := levels.getLsbD n.1
  let line := s.trigger n
  if level = line.level then s
  else
    let s1 := s.setTrigger n { line with level := level }
    if line.mode.admits level && line.remaining = 0 then acceptEdge n level offset s1 else s1

/-- TRIGGER_EDGE: the four inputs are sampled together, lowest line first (R169, R172, R173). -/
def triggerEdge (levels : BitVec 4) (offset : BitVec 12) (s : State) : State :=
  forEach allFour (sampleTrigger levels offset) s

/-! ### LINE SET and CAPTURE READ (R174, R178 to R180) -/

/-- A marker line under new settings (R180): remaining is kept only from PULSE to PULSE. -/
def MarkerLine.replaced (old : MarkerLine) (mode : MarkerMode) (flag : FlagId) (polarity : Polarity) (width : Nat) :
    MarkerLine :=
  { mode := mode
    flag := flag
    polarity := polarity
    width := width
    remaining := if mode = .pulse ∧ old.mode = .pulse then old.remaining else 0 }

/-- LINE SET (R178 to R180). The answer sends a trigger line's level last seen as 1 for high and 0 for low (the model's
choice: log entry 38). -/
def handleLineSet (p : List Byte) (s : State) : Reply :=
  if p.length ≠ 6 then .error .length
  else if byteAt p 0 = 0 then
    match readFour (byteAt p 1), readTriggerSettings p with
    | some n, some (mode, holdoff, sets, flag) =>
      let line := s.trigger n
      .done (bit8 line.level ++ [0])
        (s.setTrigger n
          { mode := mode, holdoff := holdoff, setsFlag := sets, flag := flag, remaining := 0, level := line.level })
    | _, _ => .error .range
  else if byteAt p 0 = 1 then
    match readFour (byteAt p 1), readMarkerSettings p with
    | some m, some (mode, flag, polarity, width) =>
      let s1 := s.setMarker m ((s.marker m).replaced mode flag polarity width)
      .done (bit8 (s1.markerActive m) ++ le8 (s1.marker m).remaining) s1
    | _, _ => .error .range
  else .error .range

/-- Four yes/no values as a byte, bit m for line m. -/
def maskOf (f : LineId → Bool) : Nat := (allFour.map (fun m => (f m).toNat * 2 ^ m.1)).sum

/-- CAPTURE READ (R174). Bit n of the trigger levels is 1 for a high level last seen on line n (the model's choice: log
entry 38). -/
def handleCaptureRead (p : List Byte) (s : State) : Reply :=
  if p.length ≠ 1 then .error .length
  else if 16 < byteAt p 0 then .error .range
  else
    let out := s.lines.captures.take (byteAt p 0)
    let left := s.lines.captures.drop (byteAt p 0)
    .done
      (le8 out.length ++ le8 left.length ++ bit8 s.lines.overrun ++
        le8 (maskOf fun n => (s.trigger n).level) ++ le8 (maskOf s.markerActive) ++ out.flatMap Capture.bytes)
      { s with lines := { s.lines with captures := left, overrun := false } }

end Sys2Proof.Machine
end

