-- ==== Sys2Proof/Machine/Playback.lean ====
section
/-! DEFINITION. What a track does at a tick start (sections 1.2 to 1.5, 2.4 to 2.8, 3.6 and chapter 04): entry starts,
transfers, consumption of the front slot, the level unit's computation, boundaries, faults, stops, holds and starts. -/

namespace Sys2Proof.Machine

/-! ### Live parameters and transfers (R51, R54) -/

/-- The gate at the ON phase, counter 0 (R55). -/
def Track.restartGate (tr : Track) : Track := { tr with gatePhase := .on, gateCounter := 0 }

/-- A transfer: the whole staged copy becomes the active copy, the marks are cleared, and the gate restarts when the
gate mark was set (R54). Nothing changes without the staged-pending mark: a track that leaves playback then keeps the
active detune as the sweep and the clamp left it, beside a staged detune that differs from it (R49, R50 and R91 against
R51; the model's choice: log entry 35). -/
def Track.transfer (tr : Track) : Track :=
  if tr.stagedPending then
    let tr' : Track := { tr with active := tr.staged, stagedPending := false, nowMark := false, gateMark := false }
    if tr.gateMark then tr'.restartGate else tr'
  else tr

/-- The tick start is a transfer point (R54): at an entry start by the active transfer mode, and under the NOW mark. -/
def Track.transferPoint (tr : Track) (entryStart : Bool) (e : CueEntry) : Bool :=
  tr.nowMark || (entryStart && (tr.active.mode = .every || e.apply))

/-- The interpolators drop their samples: the track plays no block in this tick (R99). -/
def Track.silent (tr : Track) : Track := { tr with interps := Vector.replicate 4 none }

/-- A track that plays no block at this tick start: a set under the NOW mark transfers unclamped (R54, R90). -/
def Track.idleTick (tr : Track) : Track := if tr.nowMark then tr.transfer.silent else tr.silent

/-! ### The level unit (chapter 04) -/

/-- The decimation of an entry's clip; `none` for SILENCE (R89). -/
def State.entryD (s : State) (e : CueEntry) : Option Nat := e.clip.map (fun c => (s.clip c).decimation)

/-- The frequency clamp of R90 against an entry: it rewrites the active detune, latches EDGE and raises EDGE. -/
def clampTrack (t : TrackId) (e : CueEntry) (s : State) : State :=
  let tr := s.track t
  let limit := freqLimit (s.entryD e)
  if clampActs limit e.freq tr.active.detune then
    (s.setTrack t
      { tr with
        active := { tr.active with detune := clampDetune limit e.freq tr.active.detune }
        edge := true }).raise (trackSource t) .edge
  else s

/-- The track is heard in this tick (R55). -/
def Track.heard (tr : Track) : Bool :=
  tr.active.gateOn ≠ 0 && (tr.active.gateOff = 0 || tr.gatePhase = .on)

/-- The gate runs: both gate values are above 0 (R55). -/
def Track.gateRuns (tr : Track) : Bool := tr.active.gateOn ≠ 0 && tr.active.gateOff ≠ 0

/-- The length of the gate phase in progress (R55). -/
def Track.gateLength (tr : Track) : Nat :=
  match tr.gatePhase with
  | .on => tr.active.gateOn
  | .off => tr.active.gateOff

/-- The other gate phase. -/
def GatePhase.other : GatePhase → GatePhase
  | .on => .off
  | .off => .on

/-- The gate after a tick in which the track plays a block (R55). -/
def Track.advanceGate (tr : Track) : Track :=
  if tr.gateRuns then
    if tr.gateLength ≤ tr.gateCounter + 1 then { tr with gatePhase := tr.gatePhase.other, gateCounter := 0 }
    else { tr with gateCounter := tr.gateCounter + 1 }
  else tr

/-- The fade attenuation of the tick: the largest of the fade in of a first play, the fade out of a last play and the
stop fade (R82 to R84). -/
def Track.fade (tr : Track) (c : Copy) : Nat :=
  let fin := if tr.playNumber = 1 then fadeInAtt c.entry.fadeIn.toNat tr.block else 0
  let last := tr.lastPlay || c.trailing || (c.entry.plays ≠ 0 && tr.playNumber = c.entry.plays.toNat)
  let fout := if last then fadeOutAtt c.entry.fadeOut.toNat (c.length - tr.block) else 0
  let stop := match tr.state, tr.stop with
    | .stopping, .fade h => stopFadeAtt h tr.stopFade
    | _, _ => 0
  max fin (max fout stop)

/-- The raw base of a feed; `none` for a SILENCE entry, which has no reference (R80, R81). -/
def State.feedBase (s : State) (tr : Track) (e : CueEntry) (f : Feed) : Option Int :=
  e.clip.map fun c =>
    rawBase (s.port f.port).fs (s.clip c).ref (s.port f.port).x e.level tr.active.trim f.offset

/-- The gain factor of a feed in this tick (R85, R86). -/
def State.feedGain (s : State) (tr : Track) (c : Copy) (f : Feed) : Nat :=
  match s.feedBase tr c.entry f with
  | none => 0
  | some raw => if tr.heard then gainOf (levelBase raw + tr.fade c + (s.port f.port).backoff) else 0

/-- The feeds the level unit computes: those whose port is not OFF (R79). -/
def State.liveFeeds (s : State) (tr : Track) : List Feed :=
  tr.active.feeds.filter (fun f => (s.port f.port).state ≠ .off)

/-- The interpolator a feed finds: its own, or one holding zeros at D 1 for a feed that starts to be computed (R88). -/
def Track.interp (tr : Track) (p : PortId) : Interp := (tr.interps[p]).getD { held := [], inUse := 1 }

/-- The stored samples of the block taken: the block's data, or zeros (R79). -/
def blockSamples (d : Nat) : Option (List Byte) → List Sample
  | some data => samplesOf data
  | none => zeroBlock d

/-- Compute one feed: scale the block, interpolate it to port rate, rotate it and hand it to the port (R79, R87, R88,
R94, R95, R99). The track state is the one at the start of the level unit's computation. -/
def computeFeed (t : TrackId) (tr : Track) (c : Copy) (word : BitVec 32) (data : Option (List Byte)) (s : State)
    (f : Feed) : State :=
  let old := tr.interp f.port
  let d := (s.entryD c.entry).getD old.inUse
  let scaled := (blockSamples d data).map (scaleSample (s.feedGain tr c f))
  let out := (List.range Config.samplesPerTick).map fun n =>
    rotated (interpolated old.inUse old.held d scaled n) (turnAt tr.nco word f.phase n)
  let s1 := s.modPort f.port fun p => { p with feeds := p.feeds + 1, sum := addSamples p.sum out }
  s1.modTrack t fun x =>
    { x with interps := x.interps.set f.port.1 (some { held := scaled, inUse := d }) f.port.2 }

/-- A feed's base is clamped in this tick (R81). -/
def State.feedShort (s : State) (tr : Track) (c : Copy) (f : Feed) : Bool :=
  match s.feedBase tr c.entry f with
  | none => false
  | some raw => raw < 0

/-- The level unit's computation for a track that plays a block (R79): its feeds, SHORT, the accumulator, the sweep step
with its clamp, and the gate step (R55, R81, R91, R93). -/
def levelTick (t : TrackId) (c : Copy) (data : Option (List Byte)) (s : State) : State :=
  let tr := s.track t
  let word := ncoWord (c.entry.freq + tr.active.detune)
  let feeds := s.liveFeeds tr
  let s1 := forEach feeds (computeFeed t tr c word data) (s.setTrack t tr.silent)
  let short := feeds.any (s.feedShort tr c)
  let s2 := s1.modTrack t fun x =>
    { x with
      short := x.short || short
      nco := x.nco + 4096 * word
      active := { x.active with detune := x.active.detune + x.active.sweep } }
  let s3 := s2.raiseIf short (trackSource t) .short
  (clampTrack t c.entry s3).modTrack t Track.advanceGate

/-! ### Consumption (R38, R74) -/

/-- The walk is about to make the slot of a block that plays now without one: it goes on after it (R74). -/
def Track.skipBlock (tr : Track) : Track :=
  match tr.walk.phase with
  | .slots k => if tr.queue.length = 1 && k ≤ tr.block then tr.setPhase (.slots (tr.block + 1)) else tr
  | _ => tr

/-- An underrun: counted, and UNDERRUN raised (R38). -/
def underrun (t : TrackId) (s : State) : State :=
  (s.modTrack t fun tr => { tr with underruns := satSucc tr.underruns }).raise (trackSource t) .underrun

/-- A read fault: counted, and READ_FAULT raised (R38). -/
def readFault (t : TrackId) (s : State) : State :=
  (s.modTrack t fun tr => { tr with readFaults := satSucc tr.readFaults }).raise (trackSource t) .readFault

/-- Take the front slot of the ring at a block-playing tick start: the data of a FILLED slot, `none` for zeros (R38). A
SILENCE slot hands zeros. A FAULTY slot is a read fault at the start tick too, where R36 names an underrun (the model's
choice: log entry 36). -/
def consume (t : TrackId) (s : State) : Option (List Byte) × State :=
  match (s.track t).ring with
  | [] => (none, underrun t (s.modTrack t Track.skipBlock))
  | x :: _ =>
    if x.path ≠ .main then (none, underrun t (s.modTrack t Track.skipBlock))
    else
      let s1 := dropSlots t [x.id] s
      match x.state with
      | .filled => (if x.clip.isSome then some x.data else none, s1)
      | .faulty => (none, readFault t s1)
      | .wanted | .queued | .reading => (none, underrun t s1)

/-! ### Playing a block -/

/-- The track plays the block of its position: consumption, the transfer point with its clamp, the level unit, and the
walk in the room the consumption gave (R38, R54, R64, R79, R90). -/
def playBlock (t : TrackId) (c : Copy) (entryStart : Bool) (s : State) : State :=
  let taken := consume t s
  let s1 := taken.2
  let tr := s1.track t
  let transfers := tr.transferPoint entryStart c.entry && tr.stagedPending
  let s2 := if transfers then s1.setTrack t tr.transfer else s1
  let s3 := if transfers || entryStart then clampTrack t c.entry s2 else s2
  walk t (levelTick t c taken.1 s3)

/-- The start actions of an entry start before its transfer point (R5, steps 1 to 3). -/
def startActions (t : TrackId) (e : CueEntry) (s : State) : State :=
  (pulseMarkers e.markers (s.flagAction e.action e.actionFlag)).raiseIf e.note (trackSource t) .cueNote

/-! ### Faults, stops and finishes -/

/-- Fault the track (R41): its position and its start and stop conditions are given up, queue and ring are discarded,
and a waiting set transfers. -/
def faultTrack (t : TrackId) (reason : FaultReason) (index : CueIndex) (s : State) : State :=
  let s1 := discardAll t s
  (s1.modTrack t fun tr =>
    { tr.transfer.silent with
      state := .faulted
      faultReason := reason
      faultIndex := index
      playNumber := 1
      block := 0
      lastPlay := false
      primed := false
      start := .none
      startDue := false
      stop := .none
      stopFade := 0
      breakPending := false }).raise (trackSource t) .fault

/-- Complete a stop or a finish (R49): back to home in PRIMING, raising STOPPED or FINISHED. -/
def completeStop (t : TrackId) (cause : Cause) (s : State) : State :=
  let s1 := discardAll t s
  let s2 := s1.modTrack t fun tr =>
    { tr.transfer.silent with
      state := .priming
      playNumber := 1
      block := 0
      lastPlay := false
      breakPending := false
      primed := false
      link := none
      start := .none
      startDue := false
      stop := .none
      stopFade := 0 }
  restartWalk t (s2.raise (trackSource t) cause)

/-- The fault reason of a BAD copy (R41). -/
def CopyStatus.reason : CopyStatus → FaultReason
  | .good => .none
  | .badClip => .badClip
  | .badRange => .badRange

/-! ### Entry starts and boundaries (R5, R6, R39, R40) -/

/-- Begin the front copy of the queue as the current entry: a BAD copy faults the track (R41); a GOOD one has its entry
start and plays its first block (R5, R40). -/
def beginFront (t : TrackId) (s : State) : State :=
  match (s.track t).queue with
  | [] => s
  | c :: _ =>
    if c.status ≠ .good then faultTrack t c.status.reason c.index s
    else
      let s1 := s.modTrack t fun tr => { tr with playNumber := 1, block := 0, lastPlay := false }
      playBlock t c true (startActions t c.entry s1)

/-- The copy being left leaves the queue with what its end changes of the track, and the copy behind it begins (R40).
The walk keeps the successor's copy behind the front copy (R65, R66); a track without one stays as it is (log entry 12).
-/
def beginNext (t : TrackId) (leave : Track → Track) (s : State) : State :=
  match (s.track t).queue with
  | _ :: c :: r => beginFront t (s.modTrack t fun tr => { leave tr with queue := c :: r })
  | _ => s

/-- The condition of an IF entry holds for the flag as the flag unit holds it (R10). -/
def State.branchTaken (s : State) (e : CueEntry) : Bool :=
  match e.next with
  | .ifSet => s.flagSet e.testFlag
  | _ => !s.flagSet e.testFlag

/-- The decision at the end of a late branch (R13): the successor, and the link a CALL sets. -/
def Track.decide (tr : Track) (taken : Bool) (c : Copy) : Track :=
  let target := c.entry.target.index c.index
  match c.entry.next with
  | .goto => { tr with decision := .go target }
  | .call => { tr with decision := .go target, link := some (c.index + 2) }
  | .ret =>
    match tr.link with
    | some l => { tr with decision := .go l }
    | none => { tr with decision := .noLink }
  | .ifSet | .ifClear =>
    let i := if taken then target else c.index + 2
    ({ tr with decision := .go i } : Track).handDecision i
  | .next | .hold | .finish => tr

/-- The end of a trailing entry's play: the decided successor begins, or an empty link faults the track with the index
of the RETURN entry (R9, R13, R41). -/
def afterTrailing (t : TrackId) (c : Copy) (s : State) : State :=
  match (s.track t).decision with
  | .noLink => faultTrack t .noLink (c.index - 1) s
  | _ => beginNext t (fun tr => { tr with decision := .none }) s

/-- The copy behind the front copy is the first path of a split formed at the front copy (R69). -/
def Track.splitsHere (tr : Track) : Bool :=
  match tr.queue with
  | _ :: d :: _ => d.path ≠ .main
  | _ => false

/-- The end of an IF entry's last play without late: the flag is sampled and the entry's split resolved (R10, R70). An
IF whose two successors are one entry has formed none (R69). -/
def resolveIf (t : TrackId) (c : Copy) (s : State) : State :=
  let chosen := if s.branchTaken c.entry then PathTag.taken else PathTag.fall
  beginNext t id (if (s.track t).splitsHere then resolveSplit t chosen s else s)

/-- A HOLD boundary (R11): in STOPPING it completes the stop (R47); a track the flag unit has released begins index+1;
otherwise the track enters HOLDING and plays no block. -/
def holdBoundary (t : TrackId) (s : State) : State :=
  if (s.track t).state = .stopping then completeStop t .stopped s
  else if s.isReleased t then beginNext t Track.releaseWalk s
  else s.modTrack t fun tr => { tr.idleTick with state := .holding }

/-- The boundary after an entry's last play: the successor is decided and begins (R6 to R13, R40). -/
def followEntry (t : TrackId) (c : Copy) (s : State) : State :=
  if c.trailing then afterTrailing t c s
  else if c.entry.isLateBranch then
    beginNext t (fun tr => tr.decide (s.branchTaken c.entry) c) s
  else
    match c.entry.next with
    | .next | .goto => beginNext t id s
    | .call => beginNext t (fun tr => { tr with link := some (c.index + 1) }) s
    | .ret =>
      match (s.track t).link with
      | some _ => beginNext t id s
      | none => faultTrack t .noLink c.index s
    | .ifSet | .ifClear => resolveIf t c s
    | .hold => holdBoundary t s
    | .finish =>
      completeStop t (if (s.track t).state = .stopping then .stopped else .finished) s

/-- A boundary (R39): the END stop completes there (R47), a remaining play begins with its first block and no entry
start (R4), and otherwise the track acts on what follows the entry. -/
def boundary (t : TrackId) (c : Copy) (s : State) : State :=
  let tr := s.track t
  if tr.state = .stopping && tr.stop = .atEnd then completeStop t .stopped s
  else if tr.playRemains c then
    let n := if tr.playNumber < 255 then tr.playNumber + 1 else 255
    playBlock t c false (s.setTrack t { tr with playNumber := n, block := 0 })
  else followEntry t c s

/-- The FADE stop is at its end: j has reached h (R46). -/
def Track.fadeStopEnds (tr : Track) : Bool :=
  match tr.state, tr.stop with
  | .stopping, .fade h => h ≤ tr.stopFade
  | _, _ => false

/-- The stop fade position grows in a STOPPING track with stop mode FADE (R46). -/
def Track.advanceStopFade (tr : Track) : Track :=
  match tr.state, tr.stop with
  | .stopping, .fade _ => { tr with stopFade := tr.stopFade + 1 }
  | _, _ => tr

/-- A track in PLAYING or STOPPING at a tick start (R38, R39, R46, R47, R49). -/
def playTick (t : TrackId) (s : State) : State :=
  let tr := s.track t
  if tr.stop = .now || tr.fadeStopEnds then completeStop t .stopped s
  else
    match tr.queue with
    | [] => s
    | c :: _ =>
      let tr' := tr.advanceStopFade
      if tr.playEnded c then boundary t c (s.setTrack t tr')
      else playBlock t c false (s.setTrack t { tr' with block := tr.block + 1 })

/-! ### Starts and holds (R33 to R36, R42, R44) -/

/-- The track begins its home entry at its start tick (R36). Its interpolators begin with zeros at D 1 (R88, R99),
whatever play of before this tick start they held samples of. -/
def beginTrack (t : TrackId) (s : State) : State :=
  match (s.track t).queue with
  | [] => s
  | c :: _ =>
    if c.status ≠ .good then faultTrack t c.status.reason c.index s
    else
      let s1 := s.modTrack t fun tr =>
        { tr.restartGate.silent with
          state := .playing
          start := .none
          startDue := false
          stopFade := 0
          nco := 0 }
      (beginFront t s1).raise (trackSource t) .started

/-- This tick start is the start tick of a STARTING track (R32 to R35). -/
def State.startsNow (s : State) (t : TrackId) : Bool :=
  let tr := s.track t
  match tr.start with
  | .atTime time => tr.startDue || time = s.timeline.count
  | .flag _ _ => s.isReleased t
  | .next | .trigger _ => tr.startDue
  | .none => false

/-- The time of an AT start has been jumped over: it is late against the count this tick start brings (R33). -/
def State.jumpedOver (s : State) (t : TrackId) : Bool :=
  match (s.track t).start with
  | .atTime time => !ahead time s.timeline.count
  | _ => false

/-- A STARTING track at a tick start: it starts, or waits; a time jumped over latches LATE, raises LATE and makes the
next tick start the start tick (R33). -/
def startTick (t : TrackId) (s : State) : State :=
  if s.startsNow t then beginTrack t s
  else if s.jumpedOver t then
    (s.modTrack t fun tr => { tr.idleTick with late := true, startDue := true }).raise (trackSource t) .late
  else s.modTrack t Track.idleTick

/-- A HOLDING track at a tick start: a stop completes, a break or a flag release begins index+1, or it waits on (R42).
-/
def holdTick (t : TrackId) (s : State) : State :=
  let tr := s.track t
  if tr.stop = .now then completeStop t .stopped s
  else if tr.breakPending || s.isReleased t then
    beginNext t (fun tr => { tr.releaseWalk with state := .playing, breakPending := false }) s
  else s.setTrack t tr.idleTick

/-- What track `t` does at a tick start, once the flag unit has judged (R27). -/
def trackTick (t : TrackId) (s : State) : State :=
  if s.trackDone t then s
  else
    let s1 := s.markTrack t
    match (s.track t).state with
    | .starting => startTick t s1
    | .holding => holdTick t s1
    | .playing | .stopping => playTick t s1
    | .idle | .priming | .ready | .faulted => s1.modTrack t Track.silent

end Sys2Proof.Machine
end

