-- ==== Sys2Proof/Machine/Port.lean ====
section
/-! DEFINITION. The port units (chapter 05): what a port drives (R100, R102, R103), the closing of a tick and the
overload guard (R98, R105), PORT SET and PORT STATUS (R109 to R112). -/

namespace Sys2Proof.Machine

/-! ### The tick in progress -/

/-- The sum a port has formed for a port sample of the tick (R100). -/
def Port.sumAt (p : Port) (n : Nat) : Sample := p.sum.getD n Sample.zero

/-- The sample a port drives on its bus for port sample `n` of the tick: the saturated sum when LIVE, zeros when MUTED
or OFF (R100, R102, R103). -/
def Port.busSample (p : Port) (n : Nat) : Sample :=
  if p.state = .live then saturate (p.sumAt n) else Sample.zero

/-- The clip count of the tick: the port samples a LIVE port's saturation changed (R101). -/
def Port.clipCount (p : Port) : Nat :=
  if p.state = .live then (p.sum.take Config.samplesPerTick).countP isClipped else 0

/-- The feed count of the tick; an OFF tick has none (R99). -/
def Port.feedCount (p : Port) : Nat := if p.state = .off then 0 else p.feeds

/-! ### Closing the tick that has ended (R98, R105, R110) -/

/-- The ended tick is overloaded: a LIVE tick whose clip count is above the limit (R105). -/
def Port.overloaded (p : Port) : Bool := p.state = .live && p.limit < p.clipCount

/-- The cause an overloaded tick raises, by guard mode and backoff (R105). -/
def Port.guardCause (p : Port) : Option Cause :=
  match p.guard with
  | .off => none
  | .count => some .overload
  | .backoff => if p.backoff < 96 then some .backoff else some .overload

/-- The port after the judgement of an overloaded tick: the count, and in BACKOFF mode the backoff step (R105, R107). -/
def Port.judged (p : Port) : Port :=
  { p with
    overloads := satSucc p.overloads
    backoff := if p.guard = .backoff && p.backoff < 96 then p.backoff + 12 else p.backoff }

/-- The port once the pending set is applied; a restore clears the backoff and the overloaded-tick count (R110). -/
def Port.applyPending (p : Port) : Port :=
  match p.pending with
  | none => p
  | some v =>
    { p with
      state := v.state
      fs := v.fs
      x := v.x
      guard := v.guard
      limit := v.limit
      pending := none
      backoff := if v.restore then 0 else p.backoff
      overloads := if v.restore then 0 else p.overloads }

/-- The last-tick counts take the ended tick's counts, and a new tick begins with no feed (R98, step 1). -/
def Port.recorded (p : Port) : Port :=
  { p with lastClips := p.clipCount, lastFeeds := p.feedCount, feeds := 0, sum := [] }

/-- A port at a tick start: it closes and judges the ended tick, then applies its pending set (R98). -/
def portTick (s : State) (p : PortId) : State :=
  if s.work.ports.getLsbD p.1 then s
  else
    let s1 := { s with work := { s.work with ports := s.work.ports ||| BitVec.twoPow 4 p.1 } }
    let old := s.port p
    if old.overloaded then
      let s2 := s1.setPort p old.recorded.judged.applyPending
      match old.guardCause with
      | none => s2
      | some c => s2.raise (portSource p) c
    else s1.setPort p old.recorded.applyPending

/-! ### PORT SET and PORT STATUS -/

/-- The pending set after a PORT SET: the carried values, and a restore once pending stays (R109). -/
def Port.withPending (p : Port) (v : PortSet) : Port :=
  { p with pending := some { v with restore := v.restore || (p.pending.map PortSet.restore).getD false } }

/-- PORT SET (R109). -/
def handlePortSet (p : List Byte) (s : State) : Reply :=
  if p.length ≠ 10 then .error .length
  else
    match readPortSet p with
    | none => .error .range
    | some (port, v) =>
      .done [] ((s.modPort port fun x => x.withPending v).setNotice (portSource port) none)

/-- The pending set in PORT STATUS, zeros when absent (R199, section 11.7). -/
def pendingBytes : Option PortSet → List Byte
  | none => zeros 9
  | some v =>
    le8 v.state.code ++ leSigned16 v.fs ++ le16 v.x ++ le8 v.guard.code ++ le16 v.limit ++ bit8 v.restore

/-- The 24 bytes of PORT STATUS (section 11.7). -/
def Port.status (p : Port) : List Byte :=
  le8 p.state.code ++ leSigned16 p.fs ++ le16 p.x ++ le8 p.guard.code ++ le16 p.limit ++ le8 p.backoff ++
  le16 p.lastClips ++ le8 p.lastFeeds ++ le16 p.overloads ++ bit8 p.pending.isSome ++ pendingBytes p.pending

/-- PORT STATUS (R112). -/
def handlePortStatus (p : List Byte) (s : State) : Reply :=
  if p.length ≠ 1 then .error .length
  else
    match readFour (byteAt p 0) with
    | none => .error .range
    | some port => .done (s.port port).status s

end Sys2Proof.Machine
end

