-- ==== Sys2Proof/Machine/Timeline.lean ====
section
/-! DEFINITION. The timeline unit (chapter 08): the count brought at a tick start (R156), adoption, marker age and
contention (R163, R165, R166), the sync pair (R159, R162, R164), CLOCK SET, CLOCK STATUS and SYNC SET. -/

namespace Sys2Proof.Machine

/-! ### The tick start (R156, R163, R165, R166) -/

/-- The marker a FOLLOW unit adopts at the coming tick start (R165). -/
def Timeline.adopts (x : Timeline) : Option Marker := if x.role = .follow then x.pendingMarker else none

/-- The pending set a unit in ALONE or LEAD brings at the coming tick start (R157). -/
def Timeline.setValue (x : Timeline) : Option Count := if x.role = .follow then none else x.pendingSet

/-- The count the coming tick start brings (R156). -/
def Timeline.brings (x : Timeline) : Count :=
  match x.adopts, x.setValue with
  | some m, _ => m.count
  | none, some v => v
  | none, none => x.count + 1

/-- The marker age of a FOLLOW unit once the count is brought (R166). -/
def Timeline.nextAge (x : Timeline) : Option Nat :=
  if x.role = .follow then (if x.pendingMarker.isSome then some 0 else x.age.map satSucc) else x.age

/-- The marker loss expiry: a LOCKED unit's age reaches 16 (R166). -/
def Timeline.losesMarker (x : Timeline) : Bool :=
  x.role = .follow && x.follow = .locked && x.nextAge = some 16

/-- The follow state after a tick start (R165, R166). -/
def Timeline.nextFollow (x : Timeline) : FollowState :=
  if x.adopts.isSome then .locked else if x.losesMarker then .holdover else x.follow

/-- LOCKED is raised: a marker is adopted in SEEK or HOLDOVER (R165). -/
def Timeline.raisesLocked (x : Timeline) : Bool := x.adopts.isSome && x.follow ≠ .locked

/-- SLIP is raised: a marker whose count differs from the unit's own next count is adopted in LOCKED or HOLDOVER
(R165). -/
def Timeline.raisesSlip (x : Timeline) : Bool :=
  match x.adopts with
  | none => false
  | some m => x.follow ≠ .seek && m.count ≠ x.count + 1

/-- The quiet count of a LEAD unit with the contention mark set, before it ends the contention (R163). -/
def Timeline.quietNext (x : Timeline) : Nat := if x.heardHigher then 0 else x.quiet + 1

/-- The contention is being watched: LEAD with the mark set (R163). -/
def Timeline.contends (x : Timeline) : Bool := x.role = .lead && x.contention

/-- The contention ends: the quiet count reaches 16 (R163). -/
def Timeline.contentionEnds (x : Timeline) : Bool := x.contends && 16 ≤ x.quietNext

/-- The timeline unit at a tick start: count, follow state, marker age, contention; the pending marker and set are then
cleared (R156, R163, R165, R166). -/
def Timeline.tick (x : Timeline) : Timeline :=
  { x with
    count := x.brings
    pendingSet := if x.role = .follow then x.pendingSet else none
    pendingMarker := none
    follow := x.nextFollow
    age := x.nextAge
    contention := x.contention && !x.contentionEnds
    quiet := if x.contentionEnds then 0 else if x.contends then x.quietNext else x.quiet
    heardHigher := false
    sendPassed := false
    sent := none }

/-- The timeline part of a tick start, with its causes at the CLOCK source. -/
def timelineTick (s : State) : State :=
  if s.work.timeline then s
  else
    let x := s.timeline
    let s1 := { s with timeline := x.tick, work := { s.work with timeline := true } }
    ((s1.raiseIf x.raisesLocked clockSource .locked).raiseIf x.raisesSlip clockSource .slip).raiseIf
      x.losesMarker clockSource .holdover

/-! ### The sync pair (R159, R162, R164) -/

/-- MARKER_SEND: at the marker send point of the tick a LEAD unit sends its id and the count its next tick will bring
(R159). -/
def Timeline.send (x : Timeline) : Timeline :=
  if x.sendPassed then x
  else
    { x with
      sendPassed := true
      sent := if x.role = .lead then some { id := x.unitId, count := x.pendingSet.getD (x.count + 1) } else none }

/-- A FOLLOW unit accepts a marker (R164). -/
def Timeline.accepts (x : Timeline) (id : UnitId) : Bool :=
  match x.pendingMarker with
  | some m => id.toNat ≤ m.id.toNat
  | none =>
    match x.follow, x.leaderSeen with
    | .locked, some l => id.toNat ≤ l.toNat
    | _, _ => true

/-- An accepted marker becomes the pending marker, and its id the leader id seen (R164). -/
def Timeline.accept (x : Timeline) (m : Marker) : Timeline :=
  { x with pendingMarker := some m, leaderSeen := some m.id }

/-- A LEAD unit yields: FOLLOW in SEEK, with its pending set, contention, leader and age given up (R162). -/
def Timeline.yields (x : Timeline) : Timeline :=
  { x with
    role := .follow
    follow := .seek
    pendingSet := none
    contention := false
    quiet := 0
    heardHigher := false
    leaderSeen := none
    age := none }

/-- A marker with a good check is heard (R161, R162, R164). -/
def hearMarker (m : Marker) (s : State) : State :=
  let x := s.timeline
  match x.role with
  | .alone => s
  | .follow => if x.accepts m.id then { s with timeline := x.accept m } else s
  | .lead =>
    if m.id.toNat < x.unitId.toNat then
      ({ s with timeline := x.yields.accept m } : State).raise clockSource .leadLost
    else if m.id = x.unitId then
      ({ s with timeline := x.yields.accept m } : State).raise clockSource .idClash
    else
      ({ s with timeline := { x with contention := true, heardHigher := true } } : State).raiseIf
        (!x.contention) clockSource .contend

/-! ### CLOCK SET, CLOCK STATUS, SYNC SET (R157, R158, R160) -/

/-- CLOCK SET (R157): answered STATE in FOLLOW. -/
def handleClockSet (p : List Byte) (s : State) : Reply :=
  if p.length ≠ 4 then .error .length
  else if s.timeline.role = .follow then .error .state
  else .done [] { s with timeline := { s.timeline with pendingSet := some (BitVec.ofNat 32 (word32 p 0)) } }

/-- The follow state as reported: SEEK in the roles ALONE and LEAD (R158). -/
def Timeline.reportedFollow (x : Timeline) : FollowState := if x.role = .follow then x.follow else .seek

/-- The 16 bytes of CLOCK STATUS (section 11.7). -/
def Timeline.status (x : Timeline) : List Byte :=
  le32 x.count.toNat ++ le32 ((x.pendingSet.map BitVec.toNat).getD 0) ++ bit8 x.pendingSet.isSome ++
  le8 x.role.code ++ le8 x.unitId.toNat ++ le8 x.reportedFollow.code ++
  le8 ((x.leaderSeen.map BitVec.toNat).getD 0xFF) ++
  le8 (x.age.isSome.toNat + 2 * x.pendingMarker.isSome.toNat + 4 * x.contention.toNat) ++ le16 (x.age.getD 0)

/-- CLOCK STATUS (R158). -/
def handleClockStatus (p : List Byte) (s : State) : Reply :=
  if p.length ≠ 0 then .error .length else .done s.timeline.status s

/-- The timeline unit after SYNC SET (R160). -/
def Timeline.syncSet (x : Timeline) (role : Role) (id : UnitId) : Timeline :=
  { x with
    role := role
    unitId := id
    pendingMarker := none
    contention := false
    quiet := 0
    heardHigher := false
    leaderSeen := none
    age := none
    follow := if role = .follow then .seek else x.follow
    pendingSet := if role = .follow then none else x.pendingSet }

/-- SYNC SET (R160). -/
def handleSyncSet (p : List Byte) (s : State) : Reply :=
  if p.length ≠ 2 then .error .length
  else
    match readRole (byteAt p 0) with
    | none => .error .range
    | some role =>
      if 8 ≤ byteAt p 1 then .error .range
      else .done [] { s with timeline := s.timeline.syncSet role (BitVec.ofNat 3 (byteAt p 1)) }

end Sys2Proof.Machine
end

