-- ==== Sys2Proof/Machine/Tick.lean ====
section
/-! DEFINITION. The tick start as a whole and its parts. TICK_START takes the tick start in one canonical order; a row
for one part of it (BOUNDARY, FLAG_RELEASE, PORT_SET_APPLY and the others) takes that part of the coming tick start
first, so that the orders the rules leave open can be commanded, but for the judgement of the flag unit that releases no
one (log entry 5). A part that is not due changes nothing (log entry 10). -/

namespace Sys2Proof.Machine

/-! ### The tick start (R156) -/

/-- The parts of a tick start before any flag is judged and any track taken: the count, the ports, the trigger and
marker lines, the gap count (R156, R98, R171, R176, R185). -/
def openTick (s : State) : State :=
  gapTick (forEach allFour markerFall (forEach allFour triggerFall (forEach allFour portTick (timelineTick s))))

/-- The flag unit judges the holders of every set flag, and each track it releases is taken at once (R18). -/
def flagPart (s : State) : State :=
  if s.work.flags then s
  else
    let s1 := judgeFlags s
    forEach (allTracks.filter s1.isReleased) (fun s t => trackTick t s) s1

/-- Take the part of track `t`; a holder is judged by the flag unit first (R17, R18). -/
def takeTrack (t : TrackId) (s : State) : State :=
  trackTick t (if (s.holderOf t).isSome then flagPart s else s)

/-- TICK_START: all of the tick start that has not been taken yet. -/
def tickStart (s : State) : State :=
  { forEach allTracks (fun s t => trackTick t s) (flagPart (openTick s)) with work := TickWork.none }

/-! ### Parts of the tick start that are due -/

/-- Take part `f` of the coming tick start if it is due. -/
def takePart (due : Bool) (f : State → State) (s : State) : State := if due then f s else s

/-- The coming tick start completes the gap of a frame in reception (R185). -/
def State.gapDue (s : State) : Bool := !s.work.gap && s.link.rx.receiving && 11 ≤ s.link.gap + 1

/-- GAP_EXPIRY (R185). -/
def gapExpires (s : State) : State := takePart s.gapDue (fun s => gapTick (timelineTick s)) s

/-- The track is playing its program and its part of the coming tick start has not been taken. -/
def State.playsOn (s : State) (t : TrackId) : Bool :=
  !s.trackDone t && ((s.track t).state = .playing || (s.track t).state = .stopping)

/-- The coming tick start is a boundary of track `t` (R39), no NOW stop or fade end coming first (R46, R49). -/
def State.boundaryDue (s : State) (t : TrackId) : Bool :=
  let tr := s.track t
  s.playsOn t && tr.stop ≠ .now && !tr.fadeStopEnds && (tr.queue.head?.map tr.playEnded).getD false

/-- BOUNDARY (R39). -/
def boundaryPart (t : TrackId) (s : State) : State :=
  takePart (s.boundaryDue t) (fun s => takeTrack t (openTick s)) s

/-- Some holder of a set flag waits for the flag unit's judgement (R18). A judgement that would release no one is no
release: FLAG_RELEASE does not take it ahead of the tracks, so that R19's order 'judged with f as it was, then another
track's entry start sets f, then a third track samples f' is taken only where the canonical order takes it (the model's
choice: log entry 5). -/
def State.flagReleaseDue (s : State) : Bool :=
  !s.work.flags && allTracks.any fun t =>
    match s.holderOf t with
    | some (f, _) => s.flagSet f
    | none => false

/-- FLAG_RELEASE (R18). -/
def flagReleasePart (s : State) : State := takePart s.flagReleaseDue (fun s => flagPart (openTick s)) s

/-- A broken hold of track `t` waits for its release (R44). -/
def State.breakDue (s : State) (t : TrackId) : Bool :=
  let tr := s.track t
  !s.trackDone t && tr.state = .holding && tr.breakPending && tr.stop ≠ .now

/-- BREAK_RELEASE (R44). -/
def breakReleasePart (t : TrackId) (s : State) : State :=
  takePart (s.breakDue t) (fun s => takeTrack t (openTick s)) s

/-- The opened tick start is the start tick of track `t` (R32 to R36): for FLAG, the flag unit would release it now. -/
def State.startDue (s : State) (t : TrackId) : Bool :=
  !s.trackDone t && (s.track t).state = .starting &&
    (s.startsNow t || (!s.work.flags && (judgeFlags s).startsNow t))

/-- TRACK_START (R36). -/
def trackStartPart (t : TrackId) (s : State) : State :=
  takePart ((openTick s).startDue t) (fun s => takeTrack t (openTick s)) s

/-- The coming tick start completes a stop of track `t`: NOW (R45), a FADE at its end (R46), END at its boundary, or any
stop at a HOLD or END boundary (R47, R49). -/
def State.stopDue (s : State) (t : TrackId) : Bool :=
  let tr := s.track t
  !s.trackDone t &&
    (((tr.state = .playing || tr.state = .holding || tr.state = .stopping) && tr.stop = .now) || tr.fadeStopEnds ||
      (tr.state = .stopping && s.boundaryDue t &&
        (tr.stop = .atEnd ||
          (tr.queue.head?.map fun c =>
            !tr.playRemains c && !c.trailing && (c.entry.next = .hold || c.entry.next = .finish)).getD false)))

/-- STOP_COMPLETION (R49). -/
def stopPart (t : TrackId) (s : State) : State := takePart (s.stopDue t) (fun s => takeTrack t (openTick s)) s

/-- The coming tick start ends the FADE stop of track `t` (R46). -/
def State.fadeEndDue (s : State) (t : TrackId) : Bool :=
  !s.trackDone t && (s.track t).stop ≠ .now && (s.track t).fadeStopEnds

/-- STOP_FADE_END (R46). -/
def fadeEndPart (t : TrackId) (s : State) : State :=
  takePart (s.fadeEndDue t) (fun s => takeTrack t (openTick s)) s

/-- TRANSFER (R54): the part of track `t` is taken when it transfers the waiting set. -/
def transferPart (t : TrackId) (s : State) : State :=
  let s1 := takeTrack t (openTick s)
  takePart ((s.track t).stagedPending && !(s1.track t).stagedPending) (fun _ => s1) s

/-- GATE_PHASE_CHANGE (R55): the part of track `t` is taken when its gate changes phase in it. -/
def gatePart (t : TrackId) (s : State) : State :=
  let s1 := takeTrack t (openTick s)
  takePart (s.playsOn t && decide ((s1.track t).gatePhase ≠ (s.track t).gatePhase)) (fun _ => s1) s

/-- Port `p` has a pending set and its part of the coming tick start has not been taken (R110). -/
def State.portSetDue (s : State) (p : PortId) : Bool := !s.work.ports.getLsbD p.1 && (s.port p).pending.isSome

/-- PORT_SET_APPLY (R98, R110). -/
def portSetPart (p : PortId) (s : State) : State :=
  takePart (s.portSetDue p) (fun s => portTick (timelineTick s) p) s

/-- CLOCK_SET_APPLY (R157). -/
def clockSetPart (s : State) : State :=
  takePart (!s.work.timeline && s.timeline.adopts.isNone && s.timeline.setValue.isSome) timelineTick s

/-- MARKER_ADOPTION (R165). -/
def adoptionPart (s : State) : State := takePart (!s.work.timeline && s.timeline.adopts.isSome) timelineTick s

/-- MARKER_LOSS_EXPIRY (R166). -/
def markerLossPart (s : State) : State := takePart (!s.work.timeline && s.timeline.losesMarker) timelineTick s

/-- CONTENTION_EXPIRY (R163). -/
def contentionPart (s : State) : State := takePart (!s.work.timeline && s.timeline.contentionEnds) timelineTick s

/-- The holdoff of trigger line `n` falls to 0 at the coming tick start (R171). -/
def State.holdoffDue (s : State) (n : LineId) : Bool := !s.work.triggers.getLsbD n.1 && (s.trigger n).remaining = 1

/-- HOLDOFF_EXPIRY (R171). -/
def holdoffPart (n : LineId) (s : State) : State :=
  takePart (s.holdoffDue n) (fun s => triggerFall (timelineTick s) n) s

/-- The remaining of marker line `m` falls to 0 at the coming tick start (R176). -/
def State.pulseEndDue (s : State) (m : LineId) : Bool :=
  !s.work.markers.getLsbD m.1 && (s.marker m).mode = .pulse && (s.marker m).remaining = 1

/-- PULSE_END (R176). -/
def pulseEndPart (m : LineId) (s : State) : State :=
  takePart (s.pulseEndDue m) (fun s => markerFall (timelineTick s) m) s

/-- MARKER_SEND (R159). -/
def sendMarker (s : State) : State := { s with timeline := s.timeline.send }

end Sys2Proof.Machine
end

