-- ==== Sys2Proof/Machine/Events.lean ====
section
/-! DEFINITION. The meanings of the event commands: the link's bytes and frame ends, the tick start and its parts, the
sync pair, the trigger lines, the completions of the banks and the two ends of a hard reset. -/

namespace Sys2Proof.Machine

/-- LINK_BYTE (R182). -/
def execLinkByte (b : Byte) (s : State) : Host.Outcome State Fault Refusal :=
  .next (s.event (receive b))

/-- GAP_EXPIRY (R185). -/
def execGapExpiry (s : State) : Host.Outcome State Fault Refusal :=
  .next (s.event gapExpires)

/-- FRAME_COMPLETION (R188). -/
def execFrameCompletion (s : State) : Host.Outcome State Fault Refusal :=
  .next (s.event completeFrame)

/-- TICK_START (R156). -/
def execTickStart (s : State) : Host.Outcome State Fault Refusal :=
  .next (s.event Machine.tickStart)

/-- BOUNDARY (R39). -/
def execBoundary (t : TrackId) (s : State) : Host.Outcome State Fault Refusal :=
  .next (s.event (boundaryPart t))

/-- FLAG_RELEASE (R18). -/
def execFlagRelease (s : State) : Host.Outcome State Fault Refusal :=
  .next (s.event flagReleasePart)

/-- BREAK_RELEASE (R44). -/
def execBreakRelease (t : TrackId) (s : State) : Host.Outcome State Fault Refusal :=
  .next (s.event (breakReleasePart t))

/-- TRACK_START (R36). -/
def execTrackStart (t : TrackId) (s : State) : Host.Outcome State Fault Refusal :=
  .next (s.event (trackStartPart t))

/-- STOP_COMPLETION (R49). -/
def execStopCompletion (t : TrackId) (s : State) : Host.Outcome State Fault Refusal :=
  .next (s.event (stopPart t))

/-- STOP_FADE_END (R46). -/
def execStopFadeEnd (t : TrackId) (s : State) : Host.Outcome State Fault Refusal :=
  .next (s.event (fadeEndPart t))

/-- TRANSFER (R54). -/
def execTransfer (t : TrackId) (s : State) : Host.Outcome State Fault Refusal :=
  .next (s.event (transferPart t))

/-- GATE_PHASE_CHANGE (R55). -/
def execGatePhaseChange (t : TrackId) (s : State) : Host.Outcome State Fault Refusal :=
  .next (s.event (gatePart t))

/-- PORT_SET_APPLY (R110). -/
def execPortSetApply (p : PortId) (s : State) : Host.Outcome State Fault Refusal :=
  .next (s.event (portSetPart p))

/-- CLOCK_SET_APPLY (R157). -/
def execClockSetApply (s : State) : Host.Outcome State Fault Refusal :=
  .next (s.event clockSetPart)

/-- MARKER_ADOPTION (R165). -/
def execMarkerAdoption (s : State) : Host.Outcome State Fault Refusal :=
  .next (s.event adoptionPart)

/-- MARKER_LOSS_EXPIRY (R166). -/
def execMarkerLossExpiry (s : State) : Host.Outcome State Fault Refusal :=
  .next (s.event markerLossPart)

/-- CONTENTION_EXPIRY (R163). -/
def execContentionExpiry (s : State) : Host.Outcome State Fault Refusal :=
  .next (s.event contentionPart)

/-- HOLDOFF_EXPIRY (R171). -/
def execHoldoffExpiry (n : LineId) (s : State) : Host.Outcome State Fault Refusal :=
  .next (s.event (holdoffPart n))

/-- PULSE_END (R176). -/
def execPulseEnd (m : LineId) (s : State) : Host.Outcome State Fault Refusal :=
  .next (s.event (pulseEndPart m))

/-- MARKER_SEND (R159). -/
def execMarkerSend (s : State) : Host.Outcome State Fault Refusal :=
  .next (s.event sendMarker)

/-- MARKER_HEARD (R164). A marker with a failed check is treated as not heard (R159). -/
def execMarkerHeard (id : UnitId) (count : Count) (checkGood : Bool) (s : State) : Host.Outcome State Fault Refusal :=
  .next (s.event fun s => if checkGood then hearMarker { id := id, count := count } s else s)

/-- TRIGGER_EDGE (R172). -/
def execTriggerEdge (levels : BitVec 4) (offset : BitVec 12) (s : State) : Host.Outcome State Fault Refusal :=
  .next (s.event (Machine.triggerEdge levels offset))

/-- BLOCK_READ_COMPLETION (R143). -/
def execBlockReadCompletion (b : BankId) (correct : Bool) (s : State) : Host.Outcome State Fault Refusal :=
  .next (s.event (completeRead b correct))

/-- PROGRAM_COMPLETION (R125). -/
def execProgramCompletion (b : BankId) (success : Bool) (s : State) : Host.Outcome State Fault Refusal :=
  .next (s.event (completeProgram b success))

/-- ERASE_COMPLETION (R128). -/
def execEraseCompletion (b : BankId) (success : Bool) (s : State) : Host.Outcome State Fault Refusal :=
  .next (s.event (completeErase b success))

/-- SUSPEND_COMPLETION (R146). -/
def execSuspendCompletion (b : BankId) (s : State) : Host.Outcome State Fault Refusal :=
  .next (s.event (completeSuspend b))

/-- SCAN_COMPLETION (R137). -/
def execScanCompletion (s : State) : Host.Outcome State Fault Refusal :=
  .next (s.event completeScan)

/-- HARD_RESET (R136). -/
def execHardReset (s : State) : Host.Outcome State Fault Refusal :=
  .next (Machine.hardReset s)

/-- RESET_RELEASE (R155). -/
def execResetRelease (levels : BitVec 4) (s : State) : Host.Outcome State Fault Refusal :=
  .next (releaseReset levels s)

end Sys2Proof.Machine
end

