-- ==== Sys2Proof/Machine/Cue.lean ====
section
/-! DEFINITION. CUE PUT, CUE GET, FLAG WRITE and FLAG READ (R15, R16, R21 to R24). -/

namespace Sys2Proof.Machine

/-- Write entries to an index and the indices after it, wrapping from 4095 to 0 (R21). -/
def putEntries (i : CueIndex) : List CueEntry → State → State
  | [], s => s
  | e :: r, s => putEntries (i + 1) r (s.setCueEntry i e)

/-- The index `x` is one of the `n` indices written from `i` on. -/
def writtenIndex (i : CueIndex) (n : Nat) (x : CueIndex) : Bool := (x - i).toNat < n

/-- The held count: the tracks whose entry queue holds a copy of a written index (R23). -/
def State.heldCount (s : State) (i : CueIndex) (n : Nat) : Nat :=
  allTracks.countP fun t => (s.track t).queue.any fun c => writtenIndex i n c.index

/-- CUE PUT (R21): size against the count as carried, then start index and count, then every field of every entry. -/
def handleCuePut (p : List Byte) (s : State) : Reply :=
  let n := byteAt p 2
  if p.length < 4 ∨ p.length ≠ 4 + 28 * n then .error .length
  else if n < 1 ∨ 16 < n ∨ byteAt p 3 ≠ 0 then .error .range
  else
    match readIndex (word16 p 0), readEntries n (p.drop 4) with
    | some i, some es => .done (le8 (s.heldCount i n)) (putEntries i es s)
    | _, _ => .error .range

/-- The bytes of `n` entries from an index on, wrapping (R24). -/
def State.entryBytes (s : State) (i : CueIndex) : Nat → List Byte
  | 0 => []
  | n + 1 => (s.cueEntry i).bytes ++ s.entryBytes (i + 1) n

/-- CUE GET (R24). -/
def handleCueGet (p : List Byte) (s : State) : Reply :=
  let n := byteAt p 2
  if p.length ≠ 3 then .error .length
  else if n < 1 ∨ 16 < n then .error .range
  else
    match readIndex (word16 p 0) with
    | some i => .done (s.entryBytes i n) s
    | none => .error .range

/-- The flags after a FLAG WRITE with a set mask and a clear mask (R15). -/
def writeFlags (flags set clear : BitVec 16) : BitVec 16 := (flags ||| set) &&& ~~~clear

/-- FLAG WRITE (R15): a flag named in both masks is answered RANGE. -/
def handleFlagWrite (p : List Byte) (s : State) : Reply :=
  let set := BitVec.ofNat 16 (word16 p 0)
  let clear := BitVec.ofNat 16 (word16 p 2)
  if p.length ≠ 4 then .error .length
  else if set &&& clear ≠ 0 then .error .range
  else
    let flags := writeFlags s.flags set clear
    .done (le16 flags.toNat) { s with flags := flags }

/-- FLAG READ (R16). -/
def handleFlagRead (p : List Byte) (s : State) : Reply :=
  if p.length ≠ 0 then .error .length else .done (le16 s.flags.toNat) s

end Sys2Proof.Machine
end

