-- ==== Sys2Proof/Machine/Track.lean ====
section
/-! DEFINITION. The track requests (R27 to R56): TRACK ARM, GO, STOP, BREAK, TUNE, FEED, STATUS and CLEAR. Each handler
checks the payload size, then the fields, then the track's state (R28). -/

namespace Sys2Proof.Machine

/-! ### TRACK ARM (R29) -/

/-- TRACK ARM taken (R29, steps 1 to 5). -/
def armTrack (t : TrackId) (home : CueIndex) (s : State) : State :=
  let s1 := discardAll t s
  let s2 := s1.modTrack t fun tr =>
    { tr with
      state := .priming
      home := home
      playNumber := 1
      block := 0
      lastPlay := false
      primed := false
      link := none
      start := .none
      startDue := false
      stop := .none
      underruns := 0
      readFaults := 0
      short := false
      edge := false
      late := false
      faultReason := .none }
  restartWalk t (s2.setNotice (trackSource t) none)

/-- How TRACK ARM is answered in a state in which it is not taken (R27, R29). -/
def armRefusal : TrackState → Option AnswerCode
  | .starting | .stopping => some .busy
  | .playing | .holding => some .state
  | .idle | .priming | .ready | .faulted => none

/-- TRACK ARM (R29). -/
def handleTrackArm (p : List Byte) (s : State) : Reply :=
  if p.length ≠ 3 then .error .length
  else
    match readTrack (byteAt p 0), readIndex (word16 p 1) with
    | some t, some home =>
      if s.store.scanning then .error .state
      else
        match armRefusal (s.track t).state with
        | some code => .error code
        | none => .done [] (armTrack t home s)
    | _, _ => .error .range

/-! ### TRACK GO (R31, R32) -/

/-- TRACK GO taken: the start condition is recorded and the track becomes STARTING. NEXT, and AT with a time that is
late, make the next tick start the start tick; the latter latches and raises LATE (R31, R32). -/
def goTrack (t : TrackId) (c : StartCond) (s : State) : State :=
  match c with
  | .atTime time =>
    if ahead time s.timeline.count then
      s.modTrack t fun tr => { tr with state := .starting, start := c, startDue := false }
    else
      (s.modTrack t fun tr => { tr with state := .starting, start := c, startDue := true, late := true }).raise
        (trackSource t) .late
  | _ => s.modTrack t fun tr => { tr with state := .starting, start := c, startDue := c = .next }

/-- How TRACK GO is answered in a state in which it is not taken (R27). -/
def goRefusal : TrackState → Option AnswerCode
  | .starting | .stopping => some .busy
  | .idle | .playing | .holding | .faulted => some .state
  | .priming | .ready => none

/-- TRACK GO (R31). -/
def handleTrackGo (p : List Byte) (s : State) : Reply :=
  if p.length ≠ 8 then .error .length
  else
    match readTrack (byteAt p 0), readStartCond p with
    | some t, some c =>
      match goRefusal (s.track t).state with
      | some code => .error code
      | none => .done [] (goTrack t c s)
    | _, _ => .error .range

/-! ### TRACK STOP (R37, R45) -/

/-- A start cancelled by TRACK STOP in STARTING (R37). -/
def Track.cancelStart (tr : Track) : Track :=
  { tr.transfer with state := if tr.primed then .ready else .priming, start := .none, startDue := false }

/-- TRACK STOP taken in PLAYING: NOW leaves the state, FADE and END make it STOPPING; a pending NOW stop stays (R45). -/
def Track.stopPlaying (tr : Track) (m : StopMode) : Track :=
  if tr.stop = .now then tr
  else if m = .now then { tr with stop := .now }
  else { tr with state := .stopping, stop := m, stopFade := 0 }

/-- TRACK STOP in each state (R45): the changed track, or the refusal. -/
def Track.stopRequest (tr : Track) (m : StopMode) : Except AnswerCode Track :=
  match tr.state with
  | .starting => .ok tr.cancelStart
  | .playing => .ok (tr.stopPlaying m)
  | .holding => .ok { tr with stop := .now, breakPending := false }
  | .stopping => if m = .now then .ok { tr with stop := .now } else .error .busy
  | .idle | .priming | .ready | .faulted => .error .state

/-- TRACK STOP (R45). -/
def handleTrackStop (p : List Byte) (s : State) : Reply :=
  if p.length ≠ 3 then .error .length
  else
    match readTrack (byteAt p 0), readStopMode p with
    | some t, some m =>
      match (s.track t).stopRequest m with
      | .error code => .error code
      | .ok tr => .done [] (s.setTrack t tr)
    | _, _ => .error .range

/-! ### TRACK BREAK (R43, R44) -/

/-- TRACK BREAK makes the play in progress the last, and the lookahead walks again (R43, R75). -/
def breakPlay (t : TrackId) (s : State) : State :=
  breakWalk t (s.modTrack t fun tr => { tr with lastPlay := true })

/-- TRACK BREAK (R43, R44). -/
def handleTrackBreak (p : List Byte) (s : State) : Reply :=
  if p.length ≠ 1 then .error .length
  else
    match readTrack (byteAt p 0) with
    | none => .error .range
    | some t =>
      let tr := s.track t
      match tr.state, tr.queue with
      | .playing, c :: _ => if tr.playRemains c then .done [] (breakPlay t s) else .error .state
      | .holding, _ =>
        .done [] (if tr.stop = .now then s else s.setTrack t { tr with breakPending := true })
      | _, _ => .error .state

/-! ### TRACK TUNE and TRACK FEED (R52, R53) -/

/-- The states in which a request writes both copies of the live parameters (R51). -/
def TrackState.writesBoth : TrackState → Bool
  | .idle | .priming | .ready | .faulted => true
  | .starting | .playing | .holding | .stopping => false

/-- The six values of TRACK TUNE in a copy; the feeds are left (R52). -/
def LiveParams.tuned (l : LiveParams) (v : TuneValues) : LiveParams :=
  { l with
    detune := v.detune
    sweep := v.sweep
    trim := v.trim
    gateOn := v.gateOn
    gateOff := v.gateOff
    mode := v.mode }

/-- TRACK TUNE taken (R52). -/
def Track.tune (tr : Track) (v : TuneValues) : Track :=
  if tr.state.writesBoth then
    ({ tr with active := tr.active.tuned v, staged := tr.staged.tuned v } : Track).restartGate
  else
    { tr with
      staged := tr.staged.tuned v
      stagedPending := true
      gateMark := true
      nowMark := tr.nowMark || v.now }

/-- TRACK TUNE (R52). -/
def handleTrackTune (p : List Byte) (s : State) : Reply :=
  if p.length ≠ 18 then .error .length
  else
    match readTrack (byteAt p 0), readTune p with
    | some t, some v => .done [] (s.modTrack t fun tr => tr.tune v)
    | _, _ => .error .range

/-- TRACK FEED taken (R53). -/
def Track.feed (tr : Track) (now : Bool) (fs : List Feed) : Track :=
  if tr.state.writesBoth then
    { tr with active := { tr.active with feeds := fs }, staged := { tr.staged with feeds := fs } }
  else
    { tr with
      staged := { tr.staged with feeds := fs }
      stagedPending := true
      nowMark := tr.nowMark || now }

/-- TRACK FEED (R53): the payload size is judged against the count as carried (R198). -/
def handleTrackFeed (p : List Byte) (s : State) : Reply :=
  if p.length < 4 ∨ p.length ≠ 4 + 4 * byteAt p 2 then .error .length
  else
    match readTrack (byteAt p 0), readFeedList p with
    | some t, some (now, fs) => .done [] (s.modTrack t fun tr => tr.feed now fs)
    | _, _ => .error .range

/-! ### TRACK CLEAR (R50) -/

/-- TRACK CLEAR taken (R50). -/
def clearTrack (t : TrackId) (s : State) : State :=
  (discardAll t s).modTrack t fun tr =>
    { tr.transfer with
      state := .idle
      playNumber := 1
      block := 0
      stopFade := 0
      lastPlay := false
      breakPending := false
      primed := false
      link := none
      start := .none
      startDue := false
      stop := .none
      underruns := 0
      readFaults := 0
      short := false
      edge := false
      late := false
      faultReason := .none }

/-- TRACK CLEAR (R50). -/
def handleTrackClear (p : List Byte) (s : State) : Reply :=
  if p.length ≠ 1 then .error .length
  else
    match readTrack (byteAt p 0) with
    | none => .error .range
    | some t =>
      match (s.track t).state with
      | .starting | .stopping => .error .busy
      | _ => .done [] (clearTrack t s)

/-! ### TRACK STATUS (R56, section 11.6) -/

/-- The current index (R56): the current entry's, the faulted entry's in FAULTED, and home otherwise. -/
def Track.currentIndex (tr : Track) : CueIndex :=
  match tr.state, tr.current with
  | .faulted, _ => tr.faultIndex
  | _, some c => c.index
  | _, none => tr.home

/-- The marks byte of TRACK STATUS. -/
def Track.marksByte (tr : Track) : Nat :=
  tr.lastPlay.toNat + 2 * tr.breakPending.toNat + 4 * tr.stagedPending.toNat + 8 * tr.nowMark.toNat +
    16 * tr.gateMark.toNat + 32 * tr.short.toNat + 64 * tr.edge.toNat + 128 * tr.late.toNat

/-- A link field: FFFFh when empty (R199). -/
def linkField : Option CueIndex → Nat
  | none => 0xFFFF
  | some i => i.toNat

/-- The start line or flag, the consume byte and the time of a start condition. -/
def StartCond.fields : StartCond → Nat × Bool × Nat
  | .none | .next => (0, false, 0)
  | .atTime t => (0, false, t.toNat)
  | .trigger n => (n.1, false, 0)
  | .flag f c => (f.toNat, c, 0)

/-- The length h of a FADE stop. -/
def StopMode.fadeLength : StopMode → Nat
  | .fade h => h
  | .none | .now | .atEnd => 0

/-- A queue copy in TRACK STATUS: index, status with the trailing mark in bit 7, path tag. -/
def Copy.bytes (c : Copy) : List Byte :=
  le16 c.index.toNat ++ le8 (c.status.code + 128 * c.trailing.toNat) ++ le8 c.path.code

/-- A ring slot in TRACK STATUS: clip, block, deadline, path tag, and state with bit 7 set when the deadline is known.
-/
def Slot.bytes (x : Slot) (deadline : Option Count) : List Byte :=
  le16 (clipField x.clip) ++ le32 x.block ++ le32 ((deadline.map BitVec.toNat).getD 0) ++ le8 x.path.code ++
    le8 (x.state.code + 128 * deadline.isSome.toNat)

/-- The current copy's part of TRACK STATUS: its resolved length and its entry, zeros when there is none (R199). -/
def currentBytes : Option Copy → List Byte
  | none => zeros 32
  | some c => le32 c.length ++ c.entry.bytes

/-- The 248 bytes of TRACK STATUS (section 11.6). -/
def trackStatus (t : TrackId) (s : State) : List Byte :=
  let tr := s.track t
  let f := tr.start.fields
  le8 t.1 ++ le8 tr.state.code ++ le16 tr.home.toNat ++ le16 tr.currentIndex.toNat ++ le8 tr.playNumber ++
  le8 tr.marksByte ++ le32 tr.block ++ le16 (linkField tr.link) ++ le8 tr.start.code ++ le8 f.1 ++ bit8 f.2.1 ++
  le8 tr.stop.code ++ le8 tr.stop.fadeLength ++ le8 tr.stopFade ++ le32 f.2.2 ++ le32 tr.nco.toNat ++
  le8 tr.gatePhase.code ++ le8 tr.faultReason.code ++ le16 tr.gateCounter ++ le16 tr.underruns ++
  le16 tr.readFaults ++ tr.active.bytes ++ tr.staged.bytes ++ bit8 tr.current.isSome ++ le8 tr.queue.length ++
  le8 tr.ring.length ++ [0] ++ currentBytes tr.current ++ padTo 16 (tr.queue.flatMap Copy.bytes) ++
  padTo 96 (tr.ring.zipIdx.flatMap fun x => x.1.bytes (s.deadline t x.2))

/-- TRACK STATUS (R56). -/
def handleTrackStatus (p : List Byte) (s : State) : Reply :=
  if p.length ≠ 1 then .error .length
  else
    match readTrack (byteAt p 0) with
    | none => .error .range
    | some t => .done (trackStatus t s) s

end Sys2Proof.Machine
end

