-- ==== Sys2Proof/WellFormed.lean ====
section
/-! DEFINITION. Which commands are well formed: what a request frame can carry (R183) and what an unknown request
is (R187). `exec` gives every command its meaning, well formed or not. -/

namespace Sys2Proof

/-- The request codes of the catalogue (11_record_and_frame_layouts, section 11.3). -/
def catalogueCodes : List Byte :=
  [0x01, 0x02, 0x03, 0x04, 0x10, 0x11, 0x12, 0x20, 0x21, 0x30, 0x31, 0x32, 0x33] ++
  [0x40, 0x41, 0x42, 0x43, 0x44, 0x45, 0x46, 0x47] ++
  [0x50, 0x51, 0x52, 0x53, 0x54, 0x55, 0x56, 0x57, 0x58, 0x60, 0x61]

/-- A frame carries at most 16,400 payload bytes (R183). -/
def payloadFits (payload : List Byte) : Bool := payload.length ≤ Config.largestPayload

/-- The command is one that can reach the part: its payload fits a frame, and an unknown request has a code outside
the catalogue. -/
def WellFormed : Instr → Bool
  | .unknownRequest _ code payload => !catalogueCodes.contains code && payloadFits payload
  | .deviceInfo _ payload => payloadFits payload
  | .deviceReset _ payload => payloadFits payload
  | .noticeSet _ payload => payloadFits payload
  | .noticeTake _ payload => payloadFits payload
  | .clockSet _ payload => payloadFits payload
  | .clockStatus _ payload => payloadFits payload
  | .syncSet _ payload => payloadFits payload
  | .portSet _ payload => payloadFits payload
  | .portStatus _ payload => payloadFits payload
  | .cuePut _ payload => payloadFits payload
  | .cueGet _ payload => payloadFits payload
  | .flagWrite _ payload => payloadFits payload
  | .flagRead _ payload => payloadFits payload
  | .trackArm _ payload => payloadFits payload
  | .trackGo _ payload => payloadFits payload
  | .trackStop _ payload => payloadFits payload
  | .trackBreak _ payload => payloadFits payload
  | .trackTune _ payload => payloadFits payload
  | .trackFeed _ payload => payloadFits payload
  | .trackStatus _ payload => payloadFits payload
  | .trackClear _ payload => payloadFits payload
  | .clipOpen _ payload => payloadFits payload
  | .clipData _ payload => payloadFits payload
  | .clipClose _ payload => payloadFits payload
  | .clipDrop _ payload => payloadFits payload
  | .clipInfo _ payload => payloadFits payload
  | .storeStatus _ payload => payloadFits payload
  | .storeSweep _ payload => payloadFits payload
  | .storeHalt _ payload => payloadFits payload
  | .storePolicy _ payload => payloadFits payload
  | .lineSet _ payload => payloadFits payload
  | .captureRead _ payload => payloadFits payload
  | .linkByte _ => true
  | .gapExpiry => true
  | .frameCompletion => true
  | .tickStart => true
  | .boundary _ => true
  | .flagRelease => true
  | .breakRelease _ => true
  | .trackStart _ => true
  | .stopCompletion _ => true
  | .stopFadeEnd _ => true
  | .transfer _ => true
  | .gatePhaseChange _ => true
  | .portSetApply _ => true
  | .clockSetApply => true
  | .markerAdoption => true
  | .markerLossExpiry => true
  | .contentionExpiry => true
  | .holdoffExpiry _ => true
  | .pulseEnd _ => true
  | .markerSend => true
  | .markerHeard _ _ _ => true
  | .triggerEdge _ _ => true
  | .blockReadCompletion _ _ => true
  | .programCompletion _ _ => true
  | .eraseCompletion _ _ => true
  | .suspendCompletion _ => true
  | .scanCompletion => true
  | .hardReset => true
  | .resetRelease _ => true

end Sys2Proof
end

