-- ==== Sys2Proof/Machine/Requests.lean ====
section
/-! DEFINITION. The meanings of the request commands: each request of the catalogue (section 11.3) meets the request
handler (R187) with its code and the handler of the block that owns it. A request is one event, at whose end the
transmit arbiter chooses (`State.event`). -/

namespace Sys2Proof.Machine

/-- UNKNOWN_REQUEST (R187): a request with a code outside the catalogue is answered UNKNOWN. A code of the catalogue
is no unknown request, and changes nothing (log entry 10). -/
def execUnknownRequest (tag code : Byte) (payload : List Byte) (s : State) : Host.Outcome State Fault Refusal :=
  if catalogueCodes.contains code then .next s
  else .next (s.event (serve handleUnknown { tag := tag, code := code, payload := payload }))

/-- DEVICE_INFO (R195). -/
def execDeviceInfo (tag : Byte) (payload : List Byte) (s : State) : Host.Outcome State Fault Refusal :=
  .next (s.event (serve handleDeviceInfo { tag := tag, code := 0x01, payload := payload }))

/-- DEVICE_RESET (R196). -/
def execDeviceReset (tag : Byte) (payload : List Byte) (s : State) : Host.Outcome State Fault Refusal :=
  .next (s.event (serve handleDeviceReset { tag := tag, code := 0x02, payload := payload }))

/-- NOTICE_SET (R194). -/
def execNoticeSet (tag : Byte) (payload : List Byte) (s : State) : Host.Outcome State Fault Refusal :=
  .next (s.event (serve handleNoticeSet { tag := tag, code := 0x03, payload := payload }))

/-- NOTICE_TAKE (R193). -/
def execNoticeTake (tag : Byte) (payload : List Byte) (s : State) : Host.Outcome State Fault Refusal :=
  .next (s.event (serve handleNoticeTake { tag := tag, code := 0x04, payload := payload }))

/-- CLOCK_SET (R157). -/
def execClockSet (tag : Byte) (payload : List Byte) (s : State) : Host.Outcome State Fault Refusal :=
  .next (s.event (serve handleClockSet { tag := tag, code := 0x10, payload := payload }))

/-- CLOCK_STATUS (R158). -/
def execClockStatus (tag : Byte) (payload : List Byte) (s : State) : Host.Outcome State Fault Refusal :=
  .next (s.event (serve handleClockStatus { tag := tag, code := 0x11, payload := payload }))

/-- SYNC_SET (R160). -/
def execSyncSet (tag : Byte) (payload : List Byte) (s : State) : Host.Outcome State Fault Refusal :=
  .next (s.event (serve handleSyncSet { tag := tag, code := 0x12, payload := payload }))

/-- PORT_SET (R109). -/
def execPortSet (tag : Byte) (payload : List Byte) (s : State) : Host.Outcome State Fault Refusal :=
  .next (s.event (serve handlePortSet { tag := tag, code := 0x20, payload := payload }))

/-- PORT_STATUS (R112). -/
def execPortStatus (tag : Byte) (payload : List Byte) (s : State) : Host.Outcome State Fault Refusal :=
  .next (s.event (serve handlePortStatus { tag := tag, code := 0x21, payload := payload }))

/-- CUE_PUT (R21). -/
def execCuePut (tag : Byte) (payload : List Byte) (s : State) : Host.Outcome State Fault Refusal :=
  .next (s.event (serve handleCuePut { tag := tag, code := 0x30, payload := payload }))

/-- CUE_GET (R24). -/
def execCueGet (tag : Byte) (payload : List Byte) (s : State) : Host.Outcome State Fault Refusal :=
  .next (s.event (serve handleCueGet { tag := tag, code := 0x31, payload := payload }))

/-- FLAG_WRITE (R15). -/
def execFlagWrite (tag : Byte) (payload : List Byte) (s : State) : Host.Outcome State Fault Refusal :=
  .next (s.event (serve handleFlagWrite { tag := tag, code := 0x32, payload := payload }))

/-- FLAG_READ (R16). -/
def execFlagRead (tag : Byte) (payload : List Byte) (s : State) : Host.Outcome State Fault Refusal :=
  .next (s.event (serve handleFlagRead { tag := tag, code := 0x33, payload := payload }))

/-- TRACK_ARM (R29). -/
def execTrackArm (tag : Byte) (payload : List Byte) (s : State) : Host.Outcome State Fault Refusal :=
  .next (s.event (serve handleTrackArm { tag := tag, code := 0x40, payload := payload }))

/-- TRACK_GO (R31). -/
def execTrackGo (tag : Byte) (payload : List Byte) (s : State) : Host.Outcome State Fault Refusal :=
  .next (s.event (serve handleTrackGo { tag := tag, code := 0x41, payload := payload }))

/-- TRACK_STOP (R45). -/
def execTrackStop (tag : Byte) (payload : List Byte) (s : State) : Host.Outcome State Fault Refusal :=
  .next (s.event (serve handleTrackStop { tag := tag, code := 0x42, payload := payload }))

/-- TRACK_BREAK (R43). -/
def execTrackBreak (tag : Byte) (payload : List Byte) (s : State) : Host.Outcome State Fault Refusal :=
  .next (s.event (serve handleTrackBreak { tag := tag, code := 0x43, payload := payload }))

/-- TRACK_TUNE (R52). -/
def execTrackTune (tag : Byte) (payload : List Byte) (s : State) : Host.Outcome State Fault Refusal :=
  .next (s.event (serve handleTrackTune { tag := tag, code := 0x44, payload := payload }))

/-- TRACK_FEED (R53). -/
def execTrackFeed (tag : Byte) (payload : List Byte) (s : State) : Host.Outcome State Fault Refusal :=
  .next (s.event (serve handleTrackFeed { tag := tag, code := 0x45, payload := payload }))

/-- TRACK_STATUS (R56). -/
def execTrackStatus (tag : Byte) (payload : List Byte) (s : State) : Host.Outcome State Fault Refusal :=
  .next (s.event (serve handleTrackStatus { tag := tag, code := 0x46, payload := payload }))

/-- TRACK_CLEAR (R50). -/
def execTrackClear (tag : Byte) (payload : List Byte) (s : State) : Host.Outcome State Fault Refusal :=
  .next (s.event (serve handleTrackClear { tag := tag, code := 0x47, payload := payload }))

/-- CLIP_OPEN (R121). -/
def execClipOpen (tag : Byte) (payload : List Byte) (s : State) : Host.Outcome State Fault Refusal :=
  .next (s.event (serve handleClipOpen { tag := tag, code := 0x50, payload := payload }))

/-- CLIP_DATA (R123). -/
def execClipData (tag : Byte) (payload : List Byte) (s : State) : Host.Outcome State Fault Refusal :=
  .next (s.event (serve handleClipData { tag := tag, code := 0x51, payload := payload }))

/-- CLIP_CLOSE (R126). -/
def execClipClose (tag : Byte) (payload : List Byte) (s : State) : Host.Outcome State Fault Refusal :=
  .next (s.event (serve handleClipClose { tag := tag, code := 0x52, payload := payload }))

/-- CLIP_DROP (R127). -/
def execClipDrop (tag : Byte) (payload : List Byte) (s : State) : Host.Outcome State Fault Refusal :=
  .next (s.event (serve handleClipDrop { tag := tag, code := 0x53, payload := payload }))

/-- CLIP_INFO (R134). -/
def execClipInfo (tag : Byte) (payload : List Byte) (s : State) : Host.Outcome State Fault Refusal :=
  .next (s.event (serve handleClipInfo { tag := tag, code := 0x54, payload := payload }))

/-- STORE_STATUS (R135). -/
def execStoreStatus (tag : Byte) (payload : List Byte) (s : State) : Host.Outcome State Fault Refusal :=
  .next (s.event (serve handleStoreStatus { tag := tag, code := 0x55, payload := payload }))

/-- STORE_SWEEP (R129). -/
def execStoreSweep (tag : Byte) (payload : List Byte) (s : State) : Host.Outcome State Fault Refusal :=
  .next (s.event (serve handleStoreSweep { tag := tag, code := 0x56, payload := payload }))

/-- STORE_HALT (R131). -/
def execStoreHalt (tag : Byte) (payload : List Byte) (s : State) : Host.Outcome State Fault Refusal :=
  .next (s.event (serve handleStoreHalt { tag := tag, code := 0x57, payload := payload }))

/-- STORE_POLICY (R149). -/
def execStorePolicy (tag : Byte) (payload : List Byte) (s : State) : Host.Outcome State Fault Refusal :=
  .next (s.event (serve handleStorePolicy { tag := tag, code := 0x58, payload := payload }))

/-- LINE_SET (R178). -/
def execLineSet (tag : Byte) (payload : List Byte) (s : State) : Host.Outcome State Fault Refusal :=
  .next (s.event (serve handleLineSet { tag := tag, code := 0x60, payload := payload }))

/-- CAPTURE_READ (R174). -/
def execCaptureRead (tag : Byte) (payload : List Byte) (s : State) : Host.Outcome State Fault Refusal :=
  .next (s.event (serve handleCaptureRead { tag := tag, code := 0x61, payload := payload }))

end Sys2Proof.Machine
end

