-- ==== Sys2Proof/Machine/Dispatch.lean ====
section
/-! DEFINITION. Which meaning each command has, one arm per constructor of `Instr`. -/

namespace Sys2Proof.Machine

def exec (i : Instr) (s : State) : Host.Outcome State Fault Refusal :=
  match i with
  | .linkByte b => Sys2Proof.Machine.execLinkByte b s
  | .gapExpiry => Sys2Proof.Machine.execGapExpiry s
  | .frameCompletion => Sys2Proof.Machine.execFrameCompletion s
  | .unknownRequest tag code payload => Sys2Proof.Machine.execUnknownRequest tag code payload s
  | .deviceInfo tag payload => Sys2Proof.Machine.execDeviceInfo tag payload s
  | .deviceReset tag payload => Sys2Proof.Machine.execDeviceReset tag payload s
  | .noticeSet tag payload => Sys2Proof.Machine.execNoticeSet tag payload s
  | .noticeTake tag payload => Sys2Proof.Machine.execNoticeTake tag payload s
  | .clockSet tag payload => Sys2Proof.Machine.execClockSet tag payload s
  | .clockStatus tag payload => Sys2Proof.Machine.execClockStatus tag payload s
  | .syncSet tag payload => Sys2Proof.Machine.execSyncSet tag payload s
  | .portSet tag payload => Sys2Proof.Machine.execPortSet tag payload s
  | .portStatus tag payload => Sys2Proof.Machine.execPortStatus tag payload s
  | .cuePut tag payload => Sys2Proof.Machine.execCuePut tag payload s
  | .cueGet tag payload => Sys2Proof.Machine.execCueGet tag payload s
  | .flagWrite tag payload => Sys2Proof.Machine.execFlagWrite tag payload s
  | .flagRead tag payload => Sys2Proof.Machine.execFlagRead tag payload s
  | .trackArm tag payload => Sys2Proof.Machine.execTrackArm tag payload s
  | .trackGo tag payload => Sys2Proof.Machine.execTrackGo tag payload s
  | .trackStop tag payload => Sys2Proof.Machine.execTrackStop tag payload s
  | .trackBreak tag payload => Sys2Proof.Machine.execTrackBreak tag payload s
  | .trackTune tag payload => Sys2Proof.Machine.execTrackTune tag payload s
  | .trackFeed tag payload => Sys2Proof.Machine.execTrackFeed tag payload s
  | .trackStatus tag payload => Sys2Proof.Machine.execTrackStatus tag payload s
  | .trackClear tag payload => Sys2Proof.Machine.execTrackClear tag payload s
  | .clipOpen tag payload => Sys2Proof.Machine.execClipOpen tag payload s
  | .clipData tag payload => Sys2Proof.Machine.execClipData tag payload s
  | .clipClose tag payload => Sys2Proof.Machine.execClipClose tag payload s
  | .clipDrop tag payload => Sys2Proof.Machine.execClipDrop tag payload s
  | .clipInfo tag payload => Sys2Proof.Machine.execClipInfo tag payload s
  | .storeStatus tag payload => Sys2Proof.Machine.execStoreStatus tag payload s
  | .storeSweep tag payload => Sys2Proof.Machine.execStoreSweep tag payload s
  | .storeHalt tag payload => Sys2Proof.Machine.execStoreHalt tag payload s
  | .storePolicy tag payload => Sys2Proof.Machine.execStorePolicy tag payload s
  | .lineSet tag payload => Sys2Proof.Machine.execLineSet tag payload s
  | .captureRead tag payload => Sys2Proof.Machine.execCaptureRead tag payload s
  | .tickStart => Sys2Proof.Machine.execTickStart s
  | .boundary t => Sys2Proof.Machine.execBoundary t s
  | .flagRelease => Sys2Proof.Machine.execFlagRelease s
  | .breakRelease t => Sys2Proof.Machine.execBreakRelease t s
  | .trackStart t => Sys2Proof.Machine.execTrackStart t s
  | .stopCompletion t => Sys2Proof.Machine.execStopCompletion t s
  | .stopFadeEnd t => Sys2Proof.Machine.execStopFadeEnd t s
  | .transfer t => Sys2Proof.Machine.execTransfer t s
  | .gatePhaseChange t => Sys2Proof.Machine.execGatePhaseChange t s
  | .portSetApply p => Sys2Proof.Machine.execPortSetApply p s
  | .clockSetApply => Sys2Proof.Machine.execClockSetApply s
  | .markerAdoption => Sys2Proof.Machine.execMarkerAdoption s
  | .markerLossExpiry => Sys2Proof.Machine.execMarkerLossExpiry s
  | .contentionExpiry => Sys2Proof.Machine.execContentionExpiry s
  | .holdoffExpiry n => Sys2Proof.Machine.execHoldoffExpiry n s
  | .pulseEnd m => Sys2Proof.Machine.execPulseEnd m s
  | .markerSend => Sys2Proof.Machine.execMarkerSend s
  | .markerHeard id count checkGood => Sys2Proof.Machine.execMarkerHeard id count checkGood s
  | .triggerEdge levels offset => Sys2Proof.Machine.execTriggerEdge levels offset s
  | .blockReadCompletion b correct => Sys2Proof.Machine.execBlockReadCompletion b correct s
  | .programCompletion b success => Sys2Proof.Machine.execProgramCompletion b success s
  | .eraseCompletion b success => Sys2Proof.Machine.execEraseCompletion b success s
  | .suspendCompletion b => Sys2Proof.Machine.execSuspendCompletion b s
  | .scanCompletion => Sys2Proof.Machine.execScanCompletion s
  | .hardReset => Sys2Proof.Machine.execHardReset s
  | .resetRelease levels => Sys2Proof.Machine.execResetRelease levels s

end Sys2Proof.Machine
end

