-- ==== Sys2Proof/Safety.lean ====
section
/-! DEFINITION. What statements about the machine speak of: the frames on their way out, the answer to a request, the
requests of the catalogue with their sizes, and what every step keeps (the bounds and canonical forms of the records).
-/

namespace Sys2Proof.Machine

/-! ### Requests and their answers -/

/-- The frames on their way out, in the order they go out: the frame being sent, then the answers that wait (R188). -/
def State.outbox (s : State) : List Frame := s.link.tx.toList ++ s.link.answers.map Answer.frame

/-- The state without its link interface. Two states that agree under `sansLink` agree on every block but the link. -/
def State.sansLink (s : State) : State := { s with link := Link.reset }

/-- The state in which the handler meets request `r`: the one in which it stands in the queue (R186, R187). -/
def State.met (s : State) (r : Request) : State := if s.link.requests.head? = some r then s else arrive r s

/-- The part handles request `r` in its event: no hard reset is held, the answer list has a free place, and `r` is the
front request or meets an empty queue (R187). -/
def State.serves (s : State) (r : Request) : Prop :=
  s.held = false ∧ s.link.answers.length < Config.answerList ∧
    (s.link.requests.head? = some r ∨ s.link.requests = [])

/-- From `s` to `t` one request has been answered: its answer goes out after everything that was on its way, the
transmitter is at work, and the receiver stands as it stood (R187, R188). -/
def Answered (s t : State) (tag : Byte) (code : AnswerCode) (payload : List Byte) : Prop :=
  t.link.rx = s.link.rx ∧ t.link.gap = s.link.gap ∧ t.link.tx.isSome = true ∧
    t.outbox = s.outbox ++ [Answer.frame { tag := tag, code := code, payload := payload }]

/-- Command `c` completes its request: the next state `t` stands as `u` in every block but the link, the request has
left the request queue, and its answer DONE with `payload` is on its way (R187). -/
def Completes (c : Instr) (s : State) (tag : Byte) (payload : List Byte) (u : State) : Prop :=
  ∃ t, exec c s = .next t ∧ Answered s t tag .done payload ∧ t.link.requests = s.link.requests.tail ∧
    t.sansLink = u.sansLink

/-- Command `c` is refused with `code`: its request has left the request queue, an answer with that code and no
payload is on its way, and nothing else has changed (R187). -/
def Refuses (c : Instr) (s : State) (tag : Byte) (code : AnswerCode) : Prop :=
  ∃ t, exec c s = .next t ∧ Answered s t tag code [] ∧ t.link.requests = s.link.requests.tail ∧
    t.sansLink = s.sansLink

/-- An event acts: the next state is what the transmit arbiter leaves of `u` (R188). -/
def Acts (c : Instr) (s u : State) : Prop := exec c s = .next (arbitrate u)

/-- A command that answers no next state leaves the state as it is; no command does (`EveryCommandCompletes`). -/
def State.after (s : State) (c : Instr) : State :=
  match exec c s with
  | .next t => t
  | .fault _ => s
  | .refused _ => s

/-- The state after a run of commands. -/
def State.afterAll (s : State) (cs : List Instr) : State := cs.foldl State.after s

/-! ### What a block does by itself -/

/-- Two slots alike but for their states. -/
def Slot.SameBut (x y : Slot) : Prop := { x with state := .wanted } = { y with state := .wanted }

/-- The track plays over a boundary: in PLAYING with no stop pending, or in STOPPING with a FADE short of its end (R46,
R47). -/
def Track.goesOn (x : Track) : Prop :=
  (x.state = .playing ∧ x.stop = .none) ∨ (x.state = .stopping ∧ ∃ h, x.stop = .fade h ∧ x.stopFade < h)

/-- The stop fade position of a track that goes on, in the tick a tick start begins: it grows by one in STOPPING with
stop mode FADE (R46). -/
def Track.nextFade (x : Track) : Nat :=
  match x.stop with
  | .fade _ => x.stopFade + 1
  | .none | .now | .atEnd => x.stopFade

/-- A feed of the track reaches port `p` in the tick: one of the active list whose port is not OFF (R79). -/
def State.feeds (s : State) (x : Track) (p : PortId) : Prop :=
  (s.port p).state ≠ .off ∧ ∃ f ∈ x.active.feeds, f.port = p

/-- Track `t` meets the priming condition (R30): four of its slots are FILLED, or its walk is at rest and every slot is
FILLED or FAULTY. -/
def State.primes (s : State) (t : TrackId) : Prop :=
  4 ≤ (s.track t).ring.countP (fun x => x.state = .filled) ∨
    ((s.track t).walk.phase ≠ .stopped ∧ walkStep t s = none ∧
      ∀ x ∈ (s.track t).ring, x.state = .filled ∨ x.state = .faulty)

/-- A track whose slots have at most changed their states. -/
def Track.SameBut (a b : Track) : Prop := { b with ring := a.ring } = a ∧ List.Forall₂ Slot.SameBut a.ring b.ring

/-- Bank `b`, when it is free, may start a store operation of a kind: the program of its front page, or with no page
waiting and erasing allowed the erase of its lowest DIRTY or UNSETTLED sector (R120, R128). -/
def State.mayStart (s : State) (b : BankId) : OpKind → Prop
  | .program c q => ∃ p r, (s.bank b).programQueue = p :: r ∧ p.clip = c ∧ p.index = q
  | .erase n =>
    (s.bank b).programQueue = [] ∧
      ((s.bank b).sweep = true ∨ ((s.bank b).autoSweep = true ∧ (s.bank b).eraseHold = false)) ∧
      n < 8192 ∧ (s.sector b n = .dirty ∨ s.sector b n = .unsettled) ∧
      ∀ m < n, s.sector b m ≠ .dirty ∧ s.sector b m ≠ .unsettled

/-- The free bank `b` goes to work: its operation is a new one that R120 allows, RUNNING with count 0, and it has none
only where R120 allows none. -/
def State.startsWork (s u : State) (b : BankId) : Prop :=
  match (u.bank b).op with
  | some o => o.sub = .running ∧ o.count = 0 ∧ o.cap = false ∧ s.mayStart b o.kind
  | none => ∀ kind, ¬ s.mayStart b kind

/-- An operation waits for the reads of its bank: there is none, or it is SUSPENDED (R140). -/
def Bank.mayRead (k : Bank) : Prop := ∀ o, k.op = some o → o.sub = .suspended

/-- What a bank does by itself, from `k` to `k'` and from the notice record `n` of its source to `n'` at a tick of
`count`, while it may start the operations `starts`. A read in flight stays, and one starts only where no operation
runs, which then stays as it is (R140, R142). An operation in progress keeps its kind and its count; it goes from
SUSPENDED to RUNNING, and from RUNNING to SUSPENDING under ALLOW below the cap; at the cap SUSPEND_CAP is raised once
(R144, R145, R147, R148). A bank without an operation has none or a new one, and its record stays (R120). -/
structure Bank.Works (starts : OpKind → Prop) (count : Count) (k k' : Bank) (n n' : Option Notice) : Prop where
  flight : ∀ f, k.inFlight = some f → k'.inFlight = some f
  reads : k'.inFlight ≠ none → (k.inFlight = none → k.mayRead) ∧ (k.mayRead → k'.op = k.op)
  goesOn : ∀ o, k.op = some o → ∃ o', k'.op = some o' ∧ o'.kind = o.kind ∧ o'.count = o.count ∧
    (o'.sub = .suspended → o' = o) ∧ (o'.sub = .running → o.sub ≠ .suspending) ∧
    (o'.sub = .suspending → o.sub = .suspending ∨ (k.policy = .allow ∧ o.count < 16)) ∧
    ((o'.cap = o.cap ∧ n' = n) ∨
      (k.policy = .allow ∧ 16 ≤ o.count ∧ o.sub ≠ .suspending ∧ o.cap = false ∧ o'.cap = true ∧ o'.sub = .running ∧
        n' = some (mergeCause count .suspendCap n)))
  fresh : k.op = none → n' = n ∧ ∀ o, k'.op = some o →
    starts o.kind ∧ o.count = 0 ∧ o.cap = false ∧ (o.sub = .running ∨ (o.sub = .suspending ∧ k.policy = .allow))

/-- Bank `b`, as it stands in `v` without a read in flight and without an operation that runs, goes on in `u` (R120,
R140, R141, R143, R147): it reads the most urgent request that waits; with none waiting a SUSPENDED operation resumes,
and a free bank goes to work. During the scan, and beside a read or an operation, it stays as it is. -/
def State.settles (v u : State) (b : BankId) : Prop :=
  let k := v.bank b
  let l := u.bank b
  (v.store.scanning = false → k.inFlight = none → k.mayRead →
    (k.fetch ≠ [] → l.op = k.op ∧ ∃ r ∈ k.fetch, l.inFlight = some r ∧ ∀ f ∈ k.fetch, v.urgency r ≤ v.urgency f) ∧
    (k.fetch = [] → l.inFlight = none ∧ (∀ op, k.op = some op → l.op = some { op with sub := .running }) ∧
      (k.op = none → tableWf SectorState.free v.store.sectors = true → v.startsWork u b))) ∧
  (v.store.scanning = true ∨ k.inFlight ≠ none ∨ ¬ k.mayRead → l.op = k.op ∧ l.inFlight = k.inFlight)

/-- What neither bank service nor playback changes: the link, the levels, the timeline, cue memory, the clip
directory, the flash, the policies, marks and program queues of the banks, the trigger lines, the captures and the
commands that wait. A bank's reads, its operation and its notice record move as `Bank.Works` says, and a sector changes
only where an erase of it has started. -/
structure Undisturbed (s u : State) : Prop where
  held : u.held = s.held
  link : u.link = s.link
  levels : u.notices.levels = s.notices.levels
  enable : u.notices.enable = s.notices.enable
  timeline : u.timeline = s.timeline
  cue : u.cue = s.cue
  scanning : u.store.scanning = s.store.scanning
  clips : u.store.clips = s.store.clips
  flash : u.store.flash = s.store.flash
  tables : tableWf SectorState.free s.store.sectors = true → tableWf SectorState.free u.store.sectors = true
  sectors : ∀ b n, n < 8192 → u.sector b n =
    if (s.bank b).op = none ∧ (u.bank b).op.map Operation.kind = some (.erase n) then .erasing else s.sector b n
  banks : ∀ b, (s.bank b).Works (fun kind => tableWf SectorState.free s.store.sectors = true → s.mayStart b kind)
    s.timeline.count (u.bank b) (s.notice (bankSource b)) (u.notice (bankSource b))
  policy : ∀ b, (u.bank b).policy = (s.bank b).policy ∧ (u.bank b).autoSweep = (s.bank b).autoSweep ∧
    (u.bank b).sweep = (s.bank b).sweep ∧ (u.bank b).eraseHold = (s.bank b).eraseHold
  pages : ∀ b, (u.bank b).programQueue = (s.bank b).programQueue
  triggers : u.lines.triggers = s.lines.triggers
  captures : u.lines.captures = s.lines.captures
  overrun : u.lines.overrun = s.lines.overrun
  pending : u.pending = s.pending

/-- What the banks do by themselves (chapter 07, R120): fetch queues, reads in flight and operations move, slots change
their states, an erase that starts makes its sector ERASING, and causes are raised at the banks' own sources. -/
structure BankWork (s u : State) : Prop extends Undisturbed s u where
  notices : ∀ n : SourceId, n.1 < 2 ∨ 6 ≤ n.1 → u.notice n = s.notice n
  tracks : ∀ k, (s.track k).SameBut (u.track k)
  slotSeq : u.slotSeq = s.slotSeq
  flags : u.flags = s.flags
  ports : u.ports = s.ports
  markers : u.lines.markers = s.lines.markers
  work : u.work = s.work

/-- What the lookahead of track `t` does by itself (chapter 03): it copies entries, makes slots and moves its walk,
and the track may become primed (R30). The banks serve what it asks for. -/
structure LookaheadWork (t : TrackId) (s u : State) : Prop extends Undisturbed s u where
  notices : ∀ n : SourceId, n.1 < 2 ∨ 6 ≤ n.1 → n ≠ trackSource t → u.notice n = s.notice n
  others : ∀ k, k ≠ t → (s.track k).SameBut (u.track k)
  own : { u.track t with
    queue := (s.track t).queue
    ring := (s.track t).ring
    walk := (s.track t).walk
    state := (s.track t).state
    primed := (s.track t).primed } = s.track t
  primed :
    ((u.track t).state = (s.track t).state ∧ u.notice (trackSource t) = s.notice (trackSource t) ∧
        ((s.track t).primed = true → (u.track t).primed = true)) ∨
      ((s.track t).state = .priming ∧ (s.track t).primed = false ∧ (u.track t).state = .ready ∧
        (u.track t).primed = true ∧
        u.notice (trackSource t) = some (mergeCause s.timeline.count .primed (s.notice (trackSource t))))
  slotSeq : s.slotSeq ≤ u.slotSeq
  flags : u.flags = s.flags
  ports : u.ports = s.ports
  markers : u.lines.markers = s.lines.markers
  work : u.work = s.work

/-- What track `t` does at a tick start, as far as it reaches other blocks: flags and pulses of an entry start, the
samples it hands to the ports, causes at its own source, and what the banks do with its requests. -/
structure TrackWork (t : TrackId) (s u : State) : Prop extends Undisturbed s u where
  notices : ∀ n : SourceId, n.1 < 2 ∨ 6 ≤ n.1 → n ≠ trackSource t → u.notice n = s.notice n
  others : ∀ k, k ≠ t → (s.track k).SameBut (u.track k)
  ports : ∀ p, { u.port p with feeds := (s.port p).feeds, sum := (s.port p).sum } = s.port p
  markers : ∀ m, { u.marker m with remaining := (s.marker m).remaining } = s.marker m
  work : { u.work with tracks := s.work.tracks } = s.work

/-- The request a command stands for; `none` for an event. -/
def requestOf : Instr → Option Request
  | .linkByte _ => none
  | .gapExpiry => none
  | .frameCompletion => none
  | .unknownRequest tag code payload => some { tag := tag, code := code, payload := payload }
  | .deviceInfo tag payload => some { tag := tag, code := 0x01, payload := payload }
  | .deviceReset tag payload => some { tag := tag, code := 0x02, payload := payload }
  | .noticeSet tag payload => some { tag := tag, code := 0x03, payload := payload }
  | .noticeTake tag payload => some { tag := tag, code := 0x04, payload := payload }
  | .clockSet tag payload => some { tag := tag, code := 0x10, payload := payload }
  | .clockStatus tag payload => some { tag := tag, code := 0x11, payload := payload }
  | .syncSet tag payload => some { tag := tag, code := 0x12, payload := payload }
  | .portSet tag payload => some { tag := tag, code := 0x20, payload := payload }
  | .portStatus tag payload => some { tag := tag, code := 0x21, payload := payload }
  | .cuePut tag payload => some { tag := tag, code := 0x30, payload := payload }
  | .cueGet tag payload => some { tag := tag, code := 0x31, payload := payload }
  | .flagWrite tag payload => some { tag := tag, code := 0x32, payload := payload }
  | .flagRead tag payload => some { tag := tag, code := 0x33, payload := payload }
  | .trackArm tag payload => some { tag := tag, code := 0x40, payload := payload }
  | .trackGo tag payload => some { tag := tag, code := 0x41, payload := payload }
  | .trackStop tag payload => some { tag := tag, code := 0x42, payload := payload }
  | .trackBreak tag payload => some { tag := tag, code := 0x43, payload := payload }
  | .trackTune tag payload => some { tag := tag, code := 0x44, payload := payload }
  | .trackFeed tag payload => some { tag := tag, code := 0x45, payload := payload }
  | .trackStatus tag payload => some { tag := tag, code := 0x46, payload := payload }
  | .trackClear tag payload => some { tag := tag, code := 0x47, payload := payload }
  | .clipOpen tag payload => some { tag := tag, code := 0x50, payload := payload }
  | .clipData tag payload => some { tag := tag, code := 0x51, payload := payload }
  | .clipClose tag payload => some { tag := tag, code := 0x52, payload := payload }
  | .clipDrop tag payload => some { tag := tag, code := 0x53, payload := payload }
  | .clipInfo tag payload => some { tag := tag, code := 0x54, payload := payload }
  | .storeStatus tag payload => some { tag := tag, code := 0x55, payload := payload }
  | .storeSweep tag payload => some { tag := tag, code := 0x56, payload := payload }
  | .storeHalt tag payload => some { tag := tag, code := 0x57, payload := payload }
  | .storePolicy tag payload => some { tag := tag, code := 0x58, payload := payload }
  | .lineSet tag payload => some { tag := tag, code := 0x60, payload := payload }
  | .captureRead tag payload => some { tag := tag, code := 0x61, payload := payload }
  | .tickStart => none
  | .boundary _ => none
  | .flagRelease => none
  | .breakRelease _ => none
  | .trackStart _ => none
  | .stopCompletion _ => none
  | .stopFadeEnd _ => none
  | .transfer _ => none
  | .gatePhaseChange _ => none
  | .portSetApply _ => none
  | .clockSetApply => none
  | .markerAdoption => none
  | .markerLossExpiry => none
  | .contentionExpiry => none
  | .holdoffExpiry _ => none
  | .pulseEnd _ => none
  | .markerSend => none
  | .markerHeard _ _ _ => none
  | .triggerEdge _ _ => none
  | .blockReadCompletion _ _ => none
  | .programCompletion _ _ => none
  | .eraseCompletion _ _ => none
  | .suspendCompletion _ => none
  | .scanCompletion => none
  | .hardReset => none
  | .resetRelease _ => none

/-- The payload size of a request of one fixed size (section 11.3); `none` for CUE PUT, TRACK FEED and CLIP DATA, whose
size depends on what they carry, for an unknown request and for an event. -/
def fixedSize : Instr → Option Nat
  | .linkByte _ => none
  | .gapExpiry => none
  | .frameCompletion => none
  | .unknownRequest _ _ _ => none
  | .deviceInfo _ _ => some 0
  | .deviceReset _ _ => some 0
  | .noticeSet _ _ => some 7
  | .noticeTake _ _ => some 1
  | .clockSet _ _ => some 4
  | .clockStatus _ _ => some 0
  | .syncSet _ _ => some 2
  | .portSet _ _ => some 10
  | .portStatus _ _ => some 1
  | .cuePut _ _ => none
  | .cueGet _ _ => some 3
  | .flagWrite _ _ => some 4
  | .flagRead _ _ => some 0
  | .trackArm _ _ => some 3
  | .trackGo _ _ => some 8
  | .trackStop _ _ => some 3
  | .trackBreak _ _ => some 1
  | .trackTune _ _ => some 18
  | .trackFeed _ _ => none
  | .trackStatus _ _ => some 1
  | .trackClear _ _ => some 1
  | .clipOpen _ _ => some 33
  | .clipData _ _ => none
  | .clipClose _ _ => some 2
  | .clipDrop _ _ => some 2
  | .clipInfo _ _ => some 2
  | .storeStatus _ _ => some 0
  | .storeSweep _ _ => some 1
  | .storeHalt _ _ => some 1
  | .storePolicy _ _ => some 3
  | .lineSet _ _ => some 6
  | .captureRead _ _ => some 1
  | .tickStart => none
  | .boundary _ => none
  | .flagRelease => none
  | .breakRelease _ => none
  | .trackStart _ => none
  | .stopCompletion _ => none
  | .stopFadeEnd _ => none
  | .transfer _ => none
  | .gatePhaseChange _ => none
  | .portSetApply _ => none
  | .clockSetApply => none
  | .markerAdoption => none
  | .markerLossExpiry => none
  | .contentionExpiry => none
  | .holdoffExpiry _ => none
  | .pulseEnd _ => none
  | .markerSend => none
  | .markerHeard _ _ _ => none
  | .triggerEdge _ _ => none
  | .blockReadCompletion _ _ => none
  | .programCompletion _ _ => none
  | .eraseCompletion _ _ => none
  | .suspendCompletion _ => none
  | .scanCompletion => none
  | .hardReset => none
  | .resetRelease _ => none

/-! ### What every step keeps -/

/-- Every pending notice record has a merge count in 1…255 (R189). -/
def State.noticesOk (s : State) : Prop := ∀ n r, s.notice n = some r → 1 ≤ r.merge ∧ r.merge ≤ 255

/-- The request queue holds at most 4 requests and the answer list at most 8 answers (R186). -/
def State.linkOk (s : State) : Prop :=
  s.link.requests.length ≤ Config.requestQueue ∧ s.link.answers.length ≤ Config.answerList

/-- The capture queue holds at most 16 records (R173). -/
def State.capturesOk (s : State) : Prop := s.lines.captures.length ≤ Config.captureQueue

/-- A port's backoff is one of 0, 12, 24, 36, 48, 60, 72, 84 and 96 hd (R108). -/
def State.portsOk (s : State) : Prop := ∀ p, (s.port p).backoff % 12 = 0 ∧ (s.port p).backoff ≤ 96

/-- A bank's queues and suspension count are within their bounds (R120, R139, R144). A SUSPENDING operation has not
reached the cap (R145). -/
def Bank.ok (k : Bank) : Prop :=
  k.programQueue.length ≤ Config.programQueue ∧ k.fetch.length ≤ Config.fetchQueue ∧
    ∀ op, k.op = some op →
      op.count ≤ Config.suspensionCap ∧ (op.sub = .suspending → op.count < Config.suspensionCap)

/-- Every bank is within its bounds. -/
def State.banksOk (s : State) : Prop := ∀ b, (s.bank b).ok

/-- A track's entry queue holds at most 4 copies and its ring at most 8 slots (R57, R59). -/
def State.tracksOk (s : State) : Prop :=
  ∀ t, (s.track t).queue.length ≤ Config.entryQueue ∧ (s.track t).ring.length ≤ Config.ringSlots

/-- Cue memory, the clip directory, the sector map and the flash are in their canonical forms. -/
def State.tablesOk (s : State) : Prop :=
  tableWf CueEntry.empty s.cue = true ∧ tableWf ClipRecord.empty s.store.clips = true ∧
    tableWf SectorState.free s.store.sectors = true ∧ Memory.wf s.store.flash = true

/-- Every slot that names a clip and every GOOD copy refers to a READY clip, and no BAD copy has a block to play
(R57, R58, R77). -/
def State.referencesReady (s : State) : Prop :=
  ∀ t,
    (∀ x ∈ (s.track t).ring, ∀ c, x.clip = some c → (s.clip c).state = .ready) ∧
      ∀ q ∈ (s.track t).queue,
        (q.status = .good → ∀ c, q.entry.clip = some c → (s.clip c).state = .ready) ∧ (q.status ≠ .good → q.length = 0)

/-- Every waiting page belongs to an OPEN clip of its bank, a program in progress is that of the front page, and during
the power-up scan no page waits and no operation is in progress (R117, R120, R136). -/
def State.pagesOpen (s : State) : Prop :=
  ∀ b,
    (∀ p ∈ (s.bank b).programQueue, (s.clip p.clip).state = .opened ∧ (s.clip p.clip).bank = b) ∧
      (∀ op c q, (s.bank b).op = some op → op.kind = .program c q →
        ∃ p r, (s.bank b).programQueue = p :: r ∧ p.clip = c ∧ p.index = q) ∧
      (s.store.scanning = true → (s.bank b).programQueue = [] ∧ (s.bank b).op = none)

/-- A copy of the live parameters is within the ranges of R51, its feed list legal (R53). -/
def LiveParams.ok (l : LiveParams) : Prop :=
  -32000000 ≤ l.detune ∧ l.detune ≤ 32000000 ∧ -100000 ≤ l.sweep ∧ l.sweep ≤ 100000 ∧ l.trim ≤ 120 ∧
    l.gateOn ≤ 65535 ∧ l.gateOff ≤ 65535 ∧ l.feeds.length ≤ 4 ∧
    (l.feeds.map Feed.port).Nodup ∧ ∀ f ∈ l.feeds, f.offset ≤ 120

/-- The frequency offset of an entry is within its range (R22). -/
def CueEntry.freqOk (e : CueEntry) : Prop := -16000000 ≤ e.freq ∧ e.freq ≤ 16000000

/-- Both copies of every track's live parameters are within their ranges, and so are the frequency offsets in cue memory
and in every entry queue, against which the sweep and the clamp move the active detune (R90, R91). -/
def State.paramsOk (s : State) : Prop :=
  (∀ t, (s.track t).active.ok ∧ (s.track t).staged.ok ∧ ∀ c ∈ (s.track t).queue, c.entry.freqOk) ∧
    ∀ i, (s.cueEntry i).freqOk

/-- Every clip's run lies within its bank, its label has at most 24 bytes (R115, R117), and an erase in progress is
that of a sector of its bank. -/
def State.runsOk (s : State) : Prop :=
  (∀ c, (s.clip c).first + (s.clip c).sectors ≤ 8192 ∧ (s.clip c).label.length ≤ 24) ∧
    ∀ b op n, (s.bank b).op = some op → op.kind = .erase n → n < 8192

/-- No bank idles: outside the power-up scan, a bank with no read in flight and no store operation has no request and
no page waiting and, where it may erase, no sector to erase, and a bank with no read in flight holds no SUSPENDED
operation (R120, R140, R147). -/
def State.banksWork (s : State) : Prop :=
  s.store.scanning = false → ∀ b, (s.bank b).inFlight = none →
    ((s.bank b).op = none →
      (s.bank b).fetch = [] ∧ (s.bank b).programQueue = [] ∧ ((s.bank b).mayErase = true → s.erasable b = [])) ∧
    ∀ op, (s.bank b).op = some op → op.sub ≠ .suspended

/-! ### The program a track follows -/

/-- An IF entry without late, played with its own next kind, whose two successors differ: it forms a split (R10, R69).
-/
def Copy.splits (c : Copy) : Prop :=
  c.trailing = false ∧ c.entry.late = false ∧ (c.entry.next = .ifSet ∨ c.entry.next = .ifClear) ∧
    c.entry.target.index c.index ≠ c.index + 1

/-- Where a track stands as a copy begins: its link, and the decided successor that waits for the end of a trailing
entry (R8, R13). -/
structure Standing where
  link : Option CueIndex
  decision : Decision

/-- Where copy `c` leaves a track at the end of its last play: a CALL has set the link to the index it returns to, a
late branch has decided its successor, but for a late IF, whose flag is not known before, and a trailing entry has
used the decision up (R8, R9, R10, R13). -/
def Copy.leaves (c : Copy) (x : Standing) : Standing :=
  let target := c.entry.target.index c.index
  if c.trailing then { x with decision := .none }
  else
    match c.entry.next, c.entry.late with
    | .call, false => { x with link := some (c.index + 1) }
    | .goto, true => { x with decision := .go target }
    | .call, true => { link := some (c.index + 2), decision := .go target }
    | .ret, true =>
      { x with decision := match x.link with
        | some l => .go l
        | none => .noLink }
    | .ifSet, true | .ifClear, true => { x with decision := .none }
    | _, _ => x

/-- The copy behind copy `c` outside a split may be that of index `i`, as a trailing entry or not, in a track that
stands at `x` as `c` begins (R6 to R13, R65, R66): behind a RETURN that of the link, and behind a trailing entry that
of the decided successor. -/
def Copy.leadsTo (c : Copy) (x : Standing) (i : CueIndex) (trailing : Bool) : Prop :=
  if c.trailing then trailing = false ∧ x.decision = .go i
  else if c.entry.isLateBranch then i = c.index + 1 ∧ trailing = true
  else
    trailing = false ∧
      match c.entry.next with
      | .next | .hold => i = c.index + 1
      | .goto | .call => i = c.entry.target.index c.index
      | .ret => x.link = some i
      | .ifSet | .ifClear => i = c.index + 1 ∧ c.entry.target.index c.index = c.index + 1
      | .finish => False

/-- Each copy leads to the one behind it, the first beginning where the track stands at `x`. -/
def copiesLead : Standing → List Copy → Prop
  | x, c :: d :: r => c.leadsTo x d.index d.trailing ∧ copiesLead (c.leaves x) (d :: r)
  | _, _ => True

/-- Where a track that stands at `x` stands once the copies have played. -/
def standsAfter (x : Standing) (cs : List Copy) : Standing := cs.foldl (fun x c => c.leaves x) x

/-- What the walk keeps for the end of a trailing copy agrees with where the track then stands (R66). -/
def Walk.agrees (w : Walk) (x : Standing) : Prop :=
  match w.after with
  | .go i => x.decision = .go i ∧ w.shadow = x.link ∧ w.decided = none
  | .call i l => x.decision = .go i ∧ x.link = some l ∧ w.decided = none
  | .awaitIf => w.shadow = x.link ∧ ∀ i, w.decided = some i → x.decision = .go i
  | .noLink | .none => True

/-- The walk goes on from the back copy as the program does: its shadow link is the link that the copies ahead of it
leave, and what it copies next is what the back copy leads to (R65 to R68). -/
def Track.walkFollows (tr : Track) : Prop :=
  let start : Standing := { link := tr.link, decision := tr.decision }
  let x := standsAfter start tr.queue.dropLast
  let plain (l : Option CueIndex) : Prop := tr.walk.shadow = l ∧ tr.walk.decided = none
  match tr.walk.phase, tr.queue.getLast? with
  | .copy _ trailing, none => trailing = false ∧ plain tr.link
  | .copy i trailing, some c => c.leadsTo x i trailing ∧
      if trailing then tr.walk.decided = none ∧ tr.walk.agrees (c.leaves x) else plain (c.leaves x).link
  | .slots _, some c | .hold, some c => if c.trailing then tr.walk.agrees x else plain x.link
  | .await, some c => c.trailing = true ∧ plain x.link
  | .splitWait, some c => c.splits ∧ plain x.link
  | .slots _, none | .hold, none | .await, none | .splitWait, none | .split, _ | .done _, _ | .stopped, _ => True

/-- The entry queue of a track follows its program: each copy leads to the one behind it, from the track's own link and
decision on; the two paths of a split stand last, behind the IF entry that formed them; and the walk goes on from the
last copy. A HOLDING track stands at a HOLD entry. -/
def Track.followsProgram (tr : Track) : Prop :=
  let start : Standing := { link := tr.link, decision := tr.decision }
  (∃ main split, tr.queue = main ++ split ∧ (∀ c ∈ main, c.path = .main) ∧ copiesLead start main ∧
    (split = [] ∨ ∃ before c a b, main = before ++ [c] ∧ split = [a, b] ∧ c.splits ∧ tr.walk.phase = .split ∧
      tr.walk.shadow = (standsAfter start before).link ∧ tr.walk.decided = none ∧
      a.path = .taken ∧ a.index = c.entry.target.index c.index ∧ a.trailing = false ∧
      b.path = .fall ∧ b.index = c.index + 1 ∧ b.trailing = false)) ∧
  tr.walkFollows ∧ (∀ c, tr.state = .holding → tr.queue.head? = some c → c.isHold = true)

/-- Every track's entry queue follows its program. -/
def State.programsFollowed (s : State) : Prop := ∀ t, (s.track t).followsProgram

end Sys2Proof.Machine
end

