-- ==== Sys2Proof/Certificates/Slice0/Obligations.lean ====
section
/-! DEFINITION. The statements for the provers, in the order of the chapters of `spec/`. A request statement says what
a request does that the part handles (`State.serves`): `Completes` gives its answer and the state it leaves in every
block, `Refuses` that it changes nothing. An event statement gives the next state by `Acts`, before the transmit
arbiter's choice. -/

open Sys2Proof Sys2Proof.Machine

/-! ### The block as a whole -/

/-- A step takes the command at the front of the queue and runs its meaning with the queue's rest; with no command
waiting the block idles. Derived: the queue and the idling are the model's (log entry 1). -/
def Obligations.StepTakesFrontCommand : Prop :=
  (∀ (s : State) (c : Instr) (r : List Instr), s.pending = c :: r → step s = exec c { s with pending := r }) ∧
    ∀ s : State, s.pending = [] → step s = .next s

/-- Every command of the table completes from every state, and none touches the commands that wait behind it. Derived:
the queue is the model's (log entry 1), and an event that is not due changes nothing (log entries 10 and 15). -/
def Obligations.EveryCommandCompletes : Prop :=
  ∀ (c : Instr) (s : State), ∃ t, exec c s = .next t ∧ t.pending = s.pending

/-- HARD_RESET and RESET_RELEASE (R197, with the reset columns of R25, R97, R155, R170, R175, R189, and R119, R136,
R169). Every block takes its hard-reset value and is held there; the persistent record and the flash stay and the
power-up scan begins. While it is held no other event and no request acts. A release begins the tick with count 0 and
samples each trigger input into its level last seen; nothing else changes. A release without a held reset changes
nothing: the model's choice (log entry 10), since the spec describes no such event. That the flash bytes under an
operation the reset cuts off stay is the model's choice too (log entry 30). The model's other choices: log entries 15
and 17. -/
def Obligations.HardResetAndRelease : Prop :=
  (∀ s : State, ∃ t, exec .hardReset s = .next t ∧ t.held = true ∧
    t.link = { rx := .hunt false, gap := 0, requests := [], answers := [], tx := none } ∧
    (∀ n, t.notice n = none) ∧ (∀ k : Fin 6, t.notices.levels[k] = 0) ∧ t.notices.enable = false ∧
    t.timeline.count = 0 ∧ t.timeline.pendingSet = none ∧ t.timeline.role = .alone ∧ t.timeline.unitId = 0 ∧
    t.timeline.follow = .seek ∧ t.timeline.pendingMarker = none ∧ t.timeline.leaderSeen = none ∧
    t.timeline.age = none ∧ t.timeline.contention = false ∧ t.timeline.quiet = 0 ∧
    (∀ i, t.cueEntry i = CueEntry.empty) ∧ t.flags = 0 ∧
    (∀ k, t.track k = Track.reset) ∧
    (∀ p, t.port p = Port.reset) ∧
    t.store = { s.store with scanning := true } ∧
    (∀ b, t.bank b =
      { op := none, programQueue := [], sweep := false, eraseHold := false, policy := .allow, autoSweep := true,
        fetch := [], inFlight := none }) ∧
    (∀ n, (t.trigger n).mode = .off ∧ (t.trigger n).holdoff = 0 ∧ (t.trigger n).setsFlag = false ∧
      (t.trigger n).flag = 0 ∧ (t.trigger n).remaining = 0) ∧
    (∀ m, t.marker m = { mode := .off, flag := 0, polarity := .activeHigh, width := 1, remaining := 0 } ∧
      t.markerLevel m = false) ∧
    t.lines.captures = [] ∧ t.lines.overrun = false ∧ t.pending = s.pending) ∧
  (∀ (c : Instr) (s : State), s.held = true → c ≠ .hardReset → (∀ levels, c ≠ .resetRelease levels) →
    exec c s = .next s) ∧
  ∀ (s : State) (levels : BitVec 4),
    (s.held = false → exec (.resetRelease levels) s = .next s) ∧
    (s.held = true → ∃ t, exec (.resetRelease levels) s = .next t ∧ t.held = false ∧
      (∀ n, t.trigger n = { s.trigger n with level := levels.getLsbD n.1 }) ∧
      { t with held := s.held, lines := { t.lines with triggers := s.lines.triggers } } = s) ∧
    ∃ u t, exec .hardReset s = .next u ∧ exec (.resetRelease levels) u = .next t ∧ t.held = false ∧
      t.timeline.count = 0

/-! ### The control link (chapter 10) -/

/-- A frame sent byte by byte is read as it was sent (R182, R183, R184): from HUNT, whatever the start mark and whatever
run of C6h bytes comes before 39h, the kind, tag, code, length and payload, followed by two check bytes, end in the
outcome the table of R184 gives; a length above 16,400 is discarded at the header with OVERSIZE. The transmitter is busy
meanwhile, so that the arbiter is idle. The gap count is 0 in HUNT (the model's choice: log entry 34). -/
def Obligations.FramesAreReadAsSent : Prop :=
  (∀ (s : State) (f : Frame) (x : Frame) (mark : Bool) (run : Nat) (high low : Byte),
    s.held = false → s.link.tx = some x → s.link.rx = .hunt mark → f.payload.length ≤ 16400 →
    s.afterAll ((List.replicate (run + 1) 0xC6 ++ [0x39] ++ checkedBytes f.kind f.tag f.code f.payload ++
        [high, low]).map .linkByte) =
      let ended := s.setRx (.hunt false)
      if fieldsCheck f.kind f.tag f.code f.payload ≠ high ++ low then ended.raise linkSource .badCheck
      else if f.kind ≠ 0x01 then ended.raise linkSource .unexpected
      else arrive { tag := f.tag, code := f.code, payload := f.payload } ended) ∧
  ∀ (s : State) (x : Frame) (mark : Bool) (kind tag code low high : Byte),
    s.held = false → s.link.tx = some x → s.link.rx = .hunt mark → 16400 < low.toNat + 256 * high.toNat →
    s.afterAll ([0xC6, 0x39, kind, tag, code, low, high].map .linkByte) =
      (s.setRx (.hunt false)).raise linkSource .oversize

/-- LINK_BYTE and GAP_EXPIRY (R182, R183, R184, R185): what the receiver does with a byte in each of its states, every
byte taken outside HUNT returning the gap count to 0. The gap count grows by one at each tick start during reception
and stands in HUNT; at the tick start at which it would reach 11 the frame is discarded, the receiver is back in HUNT
and TRUNCATED is raised with the count that tick start brings. The model's choices: log entries 5 and 34. -/
def Obligations.ReceiverTakesBytesAndGaps : Prop :=
  (∀ (s : State) (b : Byte), s.held = false →
    (∀ mark, s.link.rx = .hunt mark →
      Acts (.linkByte b) s (s.setRx (if b = 0xC6 then .hunt true
        else if b = 0x39 ∧ mark = true then .header [] else .hunt false))) ∧
    (∀ got, s.link.rx = .header got → got.length < 4 → Acts (.linkByte b) s (s.setRx (.header (got ++ [b])))) ∧
    (∀ kind tag code low, s.link.rx = .header [kind, tag, code, low] →
      Acts (.linkByte b) s
        (if 16400 < low.toNat + 256 * b.toNat then (s.setRx (.hunt false)).raise linkSource .oversize
        else if low.toNat + 256 * b.toNat = 0 then s.setRx (.check kind tag code [] none)
        else s.setRx (.body kind tag code (low.toNat + 256 * b.toNat) []))) ∧
    (∀ kind tag code length got, s.link.rx = .body kind tag code length got →
      Acts (.linkByte b) s
        (if got.length + 1 < length then s.setRx (.body kind tag code length (got ++ [b]))
        else s.setRx (.check kind tag code (got ++ [b]) none))) ∧
    (∀ kind tag code payload, s.link.rx = .check kind tag code payload none →
      Acts (.linkByte b) s (s.setRx (.check kind tag code payload (some b)))) ∧
    ∀ kind tag code payload high, s.link.rx = .check kind tag code payload (some high) →
      Acts (.linkByte b) s
        (if fieldsCheck kind tag code payload ≠ high ++ b then (s.setRx (.hunt false)).raise linkSource .badCheck
        else if kind ≠ 0x01 then (s.setRx (.hunt false)).raise linkSource .unexpected
        else arrive { tag := tag, code := code, payload := payload } (s.setRx (.hunt false)))) ∧
  (∀ s : State, s.held = false → s.work.gap = false →
    (s.link.rx.receiving = true → s.link.gap < 10 →
      ∃ u, Acts .tickStart s u ∧ u.link = { s.link with gap := s.link.gap + 1 }) ∧
    (s.link.rx.receiving = true → s.link.gap = 10 →
      ∃ u, Acts .tickStart s u ∧ u.link = { s.link with rx := .hunt false, gap := 0 } ∧
        u.notice linkSource = some (mergeCause u.timeline.count .truncated (s.notice linkSource))) ∧
    (s.link.rx.receiving = false → ∃ u, Acts .tickStart s u ∧ u.link = s.link)) ∧
  ∀ s : State, s.held = false → s.work.gap = false → s.link.rx.receiving = true → s.link.gap = 10 →
    Acts .gapExpiry s
      (({ timelineTick s with work := { (timelineTick s).work with gap := true } }.setRx (.hunt false)).raise
        linkSource .truncated)

/-- R190: a cause makes a record at a source that has none, with the count of the tick in progress and merge count 1,
and joins the record of a source that has one, whose merge count grows up to 255 and whose first tick stays. Nothing
else changes. The detail of a source's record is what its block shows as the record leaves: the requests in queue, the
leader seen (FFh for none), the bank's store operation, the port's backoff step, the captures in queue, or the track's
state. Sources and cause bits stand as in the table of R189. -/
def Obligations.CausesGatherInRecords : Prop :=
  ∀ (s : State) (n : SourceId) (c : Cause),
    (s.notice n = none →
      (s.raise n c).notice n = some { causes := BitVec.twoPow 16 c.bit, first := s.timeline.count, merge := 1 }) ∧
    (∀ r, s.notice n = some r → (s.raise n c).notice n =
      some
        { causes := r.causes ||| BitVec.twoPow 16 c.bit
          first := r.first
          merge := min (r.merge + 1) 255 }) ∧
    (∀ m, m ≠ n → (s.raise n c).notice m = s.notice m) ∧
    { s.raise n c with notices := { (s.raise n c).notices with records := s.notices.records } } = s ∧
    [Cause.badCheck, .oversize, .truncated, .unexpected].map Cause.bit = [0, 1, 2, 3] ∧
    [Cause.locked, .slip, .holdover, .leadLost, .idClash, .contend].map Cause.bit = [0, 1, 2, 3, 4, 5] ∧
    [Cause.scanDone, .sweepDone, .programFail, .eraseFail, .halted, .suspendCap].map Cause.bit = [0, 1, 2, 3, 4, 5] ∧
    [Cause.overload, .backoff].map Cause.bit = [0, 1] ∧ [Cause.captured, .captureOverrun].map Cause.bit = [0, 1] ∧
    [Cause.primed, .started, .late, .finished, .stopped, .fault, .underrun, .readFault, .short, .edge,
      .cueNote].map Cause.bit = [0, 1, 2, 3, 4, 5, 6, 7, 8, 9, 10] ∧
    linkSource.1 = 0 ∧ clockSource.1 = 1 ∧ (∀ b, (bankSource b).1 = 2 + b.1) ∧ (∀ p, (portSource p).1 = 6 + p.1) ∧
    lineSource.1 = 10 ∧ (∀ t, (trackSource t).1 = 11 + t.1) ∧
    s.noticeDetail linkSource = s.link.requests.length ∧
    s.noticeDetail clockSource = (match s.timeline.leaderSeen with
      | some id => id.toNat
      | none => 0xFF) ∧
    (∀ b, s.noticeDetail (bankSource b) = match (s.bank b).op.map Operation.kind with
      | none => 0
      | some (.program _ _) => 1
      | some (.erase _) => 2) ∧
    (∀ p, s.noticeDetail (portSource p) = (s.port p).backoff / 12) ∧
    s.noticeDetail lineSource = s.lines.captures.length ∧
    ∀ t, s.noticeDetail (trackSource t) = match (s.track t).state with
      | .idle => 0
      | .priming => 1
      | .ready => 2
      | .starting => 3
      | .playing => 4
      | .holding => 5
      | .stopping => 6
      | .faulted => 7

/-- FRAME_COMPLETION and the arbiter's choice (R188, R191): the front answer goes first; without one, the record whose
class level is highest, and among equals the one with the lowest source number, leaves the table as a notice frame
while the enable is on; otherwise the transmitter stays free. The model's choice: log entry 4. -/
def Obligations.ArbiterChoosesNextFrame : Prop :=
  ∀ s : State, s.held = false →
    (∀ a r, s.link.answers = a :: r →
      exec .frameCompletion s =
        .next (s.modLink fun l => { l with
          answers := r
          tx := some { kind := 0x02, tag := a.tag, code := a.code.byte, payload := a.payload } })) ∧
    (s.link.answers = [] → (s.notices.enable = false ∨ ∀ n r, s.notice n = some r → s.noticeLevel n = 0) →
      exec .frameCompletion s = .next (s.modLink fun l => { l with tx := none })) ∧
    ∀ n r, s.link.answers = [] → s.notices.enable = true → s.notice n = some r → 1 ≤ s.noticeLevel n →
      (∀ m q, s.notice m = some q →
        s.noticeLevel m < s.noticeLevel n ∨ (s.noticeLevel m = s.noticeLevel n ∧ n ≤ m)) →
      exec .frameCompletion s =
        .next ((s.setNotice n none).modLink fun l => { l with
          tx := some
            { kind := 0x03
              tag := 0
              code := BitVec.ofNat 8 n.1
              payload := [BitVec.ofNat 8 n.1] ++ r.bytes (s.noticeDetail n) } })

/-- R187: every request of the catalogue that the part handles is answered with its tag, and an answer other than DONE
has an empty payload and leaves every block as it was. The answer codes are those of R187's table. The model's choice:
log entry 2. -/
def Obligations.EveryHandledRequestIsAnswered : Prop :=
  [AnswerCode.done, .unknown, .length, .range, .state, .busy, .inUse, .noSpace, .notFound, .full, .order].map
      AnswerCode.byte = [0x00, 0x01, 0x02, 0x03, 0x04, 0x05, 0x06, 0x07, 0x08, 0x09, 0x0A] ∧
  ∀ (c : Instr) (r : Request) (s : State), requestOf c = some r → WellFormed c = true → s.serves r →
    ∃ t code payload, exec c s = .next t ∧ Answered s t r.tag code payload ∧
      (code ≠ .done → payload = [] ∧ t.link.requests = s.link.requests.tail ∧ t.sansLink = s.sansLink)

/-- R186: a request that meets a busy handler waits. With another request in front it joins the back of the queue while
that holds fewer than 4, is answered FULL while the answer list has a place, and is dropped otherwise. With the answer
list full the front request stays where it is, and a request that meets an empty queue joins it and waits. Derived:
which event a request row stands for, and that a request in the queue is handled at its own row, are the model's choices
(log entries 2 and 11). -/
def Obligations.UnhandledRequestsWait : Prop :=
  ∀ (c : Instr) (r : Request) (s : State), requestOf c = some r → WellFormed c = true → s.held = false →
    (∀ q rest, s.link.requests = q :: rest → q ≠ r → s.link.requests.length < 4 →
      Acts c s (s.modLink fun l => { l with requests := l.requests ++ [r] })) ∧
    (∀ q rest, s.link.requests = q :: rest → q ≠ r → 4 ≤ s.link.requests.length → s.link.answers.length < 8 →
      Acts c s (s.modLink fun l =>
        { l with answers := l.answers ++ [{ tag := r.tag, code := .full, payload := [] }] })) ∧
    (∀ q rest, s.link.requests = q :: rest → q ≠ r → 4 ≤ s.link.requests.length → 8 ≤ s.link.answers.length →
      Acts c s s) ∧
    (s.link.requests.head? = some r → 8 ≤ s.link.answers.length → Acts c s s) ∧
    (s.link.requests = [] → 8 ≤ s.link.answers.length → Acts c s (s.modLink fun l => { l with requests := [r] }))

/-- R187, R198: a code outside the catalogue is answered UNKNOWN, and a payload whose size does not match the
catalogue is answered LENGTH before any field is judged; a payload that carries a count is judged against the count as
carried. -/
def Obligations.UnknownAndMissizedRequestsAreRefused : Prop :=
  (∀ (s : State) (tag code : Byte) (payload : List Byte), catalogueCodes.contains code = false →
    s.serves { tag := tag, code := code, payload := payload } →
    Refuses (.unknownRequest tag code payload) s tag .unknown) ∧
  (∀ (c : Instr) (r : Request) (n : Nat) (s : State), requestOf c = some r → fixedSize c = some n →
    r.payload.length ≠ n → s.serves r → Refuses c s r.tag .length) ∧
  (∀ (s : State) (tag : Byte) (p : List Byte), s.serves { tag := tag, code := 0x30, payload := p } →
    p.length < 4 ∨ p.length ≠ 4 + 28 * (p.getD 2 0).toNat → Refuses (.cuePut tag p) s tag .length) ∧
  (∀ (s : State) (tag : Byte) (p : List Byte), s.serves { tag := tag, code := 0x45, payload := p } →
    p.length < 4 ∨ p.length ≠ 4 + 4 * (p.getD 2 0).toNat → Refuses (.trackFeed tag p) s tag .length) ∧
  ∀ (s : State) (tag : Byte) (p : List Byte), s.serves { tag := tag, code := 0x51, payload := p } → p.length < 6 →
    Refuses (.clipData tag p) s tag .length

/-- NOTICE_SET (R194) and NOTICE_TAKE (R193). A level above 7 or an enable above 1 is answered RANGE; otherwise the six
levels, in the order of the classes, and the enable take their new values, and no record changes. A count above 59 is
answered RANGE; otherwise the pending records of the lowest source numbers, up to the count, leave the table whatever
the levels and the enable, and the answer carries how many left, how many still wait, and each record with its source
and its detail. The model's choice: log entry 23. -/
def Obligations.NoticeRequests : Prop :=
  (∀ (s : State) (tag l0 l1 l2 l3 l4 l5 e : Byte),
    s.serves { tag := tag, code := 0x03, payload := [l0, l1, l2, l3, l4, l5, e] } →
    if (∀ l ∈ [l0, l1, l2, l3, l4, l5], l.toNat ≤ 7) ∧ e.toNat ≤ 1 then
      Completes (.noticeSet tag [l0, l1, l2, l3, l4, l5, e]) s tag []
        { s with notices := { s.notices with
            levels := #v[l0.setWidth 3, l1.setWidth 3, l2.setWidth 3, l3.setWidth 3, l4.setWidth 3, l5.setWidth 3]
            enable := decide (e = 1) } }
    else Refuses (.noticeSet tag [l0, l1, l2, l3, l4, l5, e]) s tag .range) ∧
  ∀ (s : State) (tag n : Byte), s.serves { tag := tag, code := 0x04, payload := [n] } →
    let pending := (List.finRange 59).filter fun k => (s.notice k).isSome
    let taken := pending.take n.toNat
    let met := s.met { tag := tag, code := 0x04, payload := [n] }
    if n.toNat ≤ 59 then
      ∃ u : State,
        Completes (.noticeTake tag [n]) s tag
          ([BitVec.ofNat 8 taken.length, BitVec.ofNat 8 (pending.length - taken.length)] ++
            taken.flatMap fun k =>
              match s.notice k with
              | some r => [BitVec.ofNat 8 k.1] ++ r.bytes (met.noticeDetail k)
              | none => []) u ∧
        (∀ k, u.notice k = if k ∈ taken then none else s.notice k) ∧
        { u with notices := { u.notices with records := s.notices.records } } = s
    else Refuses (.noticeTake tag [n]) s tag .range

/-! ### The part itself (section 10.4) -/

/-- DEVICE_INFO (R195): the identity and the capacities, in the table's order (section 11.3); nothing changes. -/
def Obligations.DeviceInfoIsTheCapacityTable : Prop :=
  ∀ (s : State) (tag : Byte), s.serves { tag := tag, code := 0x01, payload := [] } →
    Completes (.deviceInfo tag []) s tag
      [0x4B, 0x6F, 0x6C, 0x76, 0x61, 0x72, 0x61, 0x20, 0x04, 0x48, 1, 48, 4, 4, 0x00, 0x10, 16, 4, 8, 4, 0x00, 0x04, 4,
        0x00, 0x20, 2, 64, 16, 4, 4, 16, 4, 8, 0x10, 0x40, 59, 8] s

/-- DEVICE_RESET (R196, R26, R114, R138, R152, R168, R181): the warm reset. Tracks, flags, ports, fetch queues,
pending set, holdoffs, pulses, captures and notice records take their warm-reset values; cue memory, calibration, the
clip directory, the flash, the timeline, the configurations and the link receiver stay; an operation in progress goes
on, and a SUSPENDED one whose bank has no read in flight resumes; the requests queued behind it are discarded. Where no
bank stood idle with work to do, as after every step, the sector map stays and a bank without an operation starts none.
The model's choices: log entries 16 and 37. -/
def Obligations.WarmResetValues : Prop :=
  ∀ (s : State) (tag : Byte), s.serves { tag := tag, code := 0x02, payload := [] } →
    ∃ t, exec (.deviceReset tag []) s = .next t ∧ Answered s t tag .done [] ∧ t.link.requests = [] ∧
      t.held = s.held ∧ (∀ k, t.track k = Track.reset) ∧ t.flags = 0 ∧ t.cue = s.cue ∧
      (∀ p, t.port p = { s.port p with
        state := .off, backoff := 0, lastClips := 0, lastFeeds := 0, overloads := 0, pending := none, feeds := 0,
        sum := [] }) ∧
      t.timeline = { s.timeline with pendingSet := none } ∧
      (∀ n, t.trigger n = { s.trigger n with remaining := 0 }) ∧
      (∀ m, t.marker m = { s.marker m with remaining := 0 } ∧ t.markerActive m = false) ∧
      t.lines.captures = [] ∧ t.lines.overrun = false ∧
      (∀ n, t.notice n = none) ∧ t.notices.levels = s.notices.levels ∧ t.notices.enable = s.notices.enable ∧
      t.store.scanning = s.store.scanning ∧ t.store.clips = s.store.clips ∧ t.store.flash = s.store.flash ∧
      (∀ b, (t.bank b).fetch = [] ∧ (t.bank b).inFlight = (s.bank b).inFlight ∧
        (t.bank b).programQueue = (s.bank b).programQueue ∧ (t.bank b).policy = (s.bank b).policy ∧
        (t.bank b).autoSweep = (s.bank b).autoSweep ∧ (t.bank b).sweep = (s.bank b).sweep ∧
        (t.bank b).eraseHold = (s.bank b).eraseHold ∧
        ∀ op, (s.bank b).op = some op → (t.bank b).op = some { op with
          sub :=
            if op.sub = .suspended ∧ (s.bank b).inFlight = none ∧ s.store.scanning = false then .running
            else op.sub }) ∧
      (s.banksWork → t.store = s.store ∧ ∀ b, (s.bank b).op = none → (t.bank b).op = none) ∧
      t.pending = s.pending

/-! ### The timeline and the sync pair (chapter 08) -/

/-- R155: a time is ahead of the count when it lies 1 to 2^31 ticks after it, modulo 2^32, and late otherwise. So a time
other than the count, and other than the one half the range away, is ahead of the count exactly when the count is not
ahead of it; the time half the range away is ahead, and the count itself is late. -/
def Obligations.AheadOrLate : Prop :=
  ∀ t n : Count, ahead n n = false ∧ ahead (n + 2147483648) n = true ∧ ahead (n + 2147483649) n = false ∧
    (t ≠ n → t ≠ n + 2147483648 → ahead t n = !ahead n t) ∧
    (ahead t n = true ↔ 1 ≤ (t - n).toNat ∧ (t - n).toNat ≤ 2147483648)

/-- CLOCK_SET (R157): answered STATE in FOLLOW; otherwise the value becomes the pending set, replacing any held.
SYNC_SET (R160): a role above 2 or an id above 7 is answered RANGE; otherwise role and id are those carried, the
pending marker, contention, quiet count, leader seen and marker age are cleared, FOLLOW starts in SEEK without a
pending set, and the count stays. -/
def Obligations.ClockAndSyncRequests : Prop :=
  (∀ (s : State) (tag b0 b1 b2 b3 : Byte), s.serves { tag := tag, code := 0x10, payload := [b0, b1, b2, b3] } →
    if s.timeline.role = .follow then Refuses (.clockSet tag [b0, b1, b2, b3]) s tag .state
    else Completes (.clockSet tag [b0, b1, b2, b3]) s tag []
      { s with timeline := { s.timeline with pendingSet := some (b3 ++ b2 ++ b1 ++ b0) } }) ∧
  ∀ (s : State) (tag role id : Byte), s.serves { tag := tag, code := 0x12, payload := [role, id] } →
    if 2 < role.toNat ∨ 7 < id.toNat then Refuses (.syncSet tag [role, id]) s tag .range
    else
      ∃ u : State, Completes (.syncSet tag [role, id]) s tag [] u ∧ { u with timeline := s.timeline } = s ∧
        u.timeline.role = (if role = 0 then .alone else if role = 1 then .lead else .follow) ∧
        u.timeline.unitId = id.setWidth 3 ∧ u.timeline.count = s.timeline.count ∧
        u.timeline.pendingMarker = none ∧ u.timeline.contention = false ∧ u.timeline.quiet = 0 ∧
        u.timeline.leaderSeen = none ∧ u.timeline.age = none ∧
        (role = 2 → u.timeline.follow = .seek ∧ u.timeline.pendingSet = none) ∧
        (role ≠ 2 → u.timeline.pendingSet = s.timeline.pendingSet) ∧
        u.timeline.sendPassed = s.timeline.sendPassed ∧ u.timeline.sent = s.timeline.sent

/-- TICK_START brings the count (R156): a FOLLOW unit's pending marker, a pending set in ALONE or LEAD, and otherwise
the count plus one, wrapping; the pending marker and set are then cleared. With the rest of the timeline unit at a
tick start: follow state and marker age (R165, R166), contention and quiet count (R163). The model's choices: log
entries 5 and 33. -/
def Obligations.TickStartBringsCount : Prop :=
  ∀ s : State, s.held = false → s.work.timeline = false → ∃ t, exec .tickStart s = .next t ∧
    let x := s.timeline
    let marker := if x.role = .follow then x.pendingMarker else none
    let set := if x.role = .follow then none else x.pendingSet
    let age := if x.role = .follow then (if x.pendingMarker.isSome then some 0 else x.age.map fun a => min (a + 1) 65535)
      else x.age
    let watching := x.role = .lead ∧ x.contention = true
    let quiet := if x.heardHigher then 0 else x.quiet + 1
    (t.timeline.count = match marker, set with
      | some m, _ => m.count
      | none, some v => v
      | none, none => x.count + 1) ∧
    t.timeline.pendingMarker = none ∧ (x.role ≠ .follow → t.timeline.pendingSet = none) ∧
    t.timeline.role = x.role ∧ t.timeline.unitId = x.unitId ∧ t.timeline.leaderSeen = x.leaderSeen ∧
    t.timeline.age = age ∧
    (t.timeline.follow = if marker.isSome then .locked
      else if x.role = .follow ∧ x.follow = .locked ∧ age = some 16 then .holdover else x.follow) ∧
    (watching → (16 ≤ quiet → t.timeline.contention = false ∧ t.timeline.quiet = 0) ∧
      (quiet < 16 → t.timeline.contention = true ∧ t.timeline.quiet = quiet)) ∧
    (¬ watching → t.timeline.contention = x.contention ∧ t.timeline.quiet = x.quiet) ∧
    t.work = TickWork.none

/-- The timeline's own rows of a tick start: CLOCK_SET_APPLY (R157) brings the set value, MARKER_ADOPTION (R165) the
marker's count with LOCKED from SEEK or HOLDOVER and SLIP when it jumps in LOCKED or HOLDOVER, MARKER_LOSS_EXPIRY
(R166) takes a LOCKED unit to HOLDOVER at marker age 16, and CONTENTION_EXPIRY (R163) ends a contention at quiet count
16. Only the timeline and the notice record of source 1 change; `timelineTick` is the unit's whole tick start. The
model's choice: log entry 5. -/
def Obligations.TimelineRows : Prop :=
  ∀ s : State, s.held = false → s.work.timeline = false →
    (∀ v, s.timeline.role ≠ .follow → s.timeline.pendingSet = some v →
      ∃ u, Acts .clockSetApply s u ∧ u = timelineTick s ∧ u.timeline.count = v ∧ u.timeline.pendingSet = none ∧
        { u with timeline := s.timeline, work := s.work } = s) ∧
    (∀ m, s.timeline.role = .follow → s.timeline.pendingMarker = some m →
      ∃ u, Acts .markerAdoption s u ∧ u.timeline.count = m.count ∧ u.timeline.follow = .locked ∧
        u.timeline.age = some 0 ∧ u.timeline.pendingMarker = none ∧
        u.notice clockSource =
          (let r1 := if s.timeline.follow ≠ .locked then some (mergeCause m.count .locked (s.notice clockSource))
            else s.notice clockSource
          if s.timeline.follow ≠ .seek ∧ m.count ≠ s.timeline.count + 1 then some (mergeCause m.count .slip r1) else r1) ∧
        (∀ n, n ≠ clockSource → u.notice n = s.notice n) ∧
        { u with timeline := s.timeline, work := s.work, notices := s.notices } = s) ∧
    (∀ a, s.timeline.role = .follow → s.timeline.pendingMarker = none → s.timeline.follow = .locked →
      s.timeline.age = some a → a = 15 →
      ∃ u, Acts .markerLossExpiry s u ∧ u.timeline.count = s.timeline.count + 1 ∧ u.timeline.follow = .holdover ∧
        u.timeline.age = some 16 ∧
        u.notice clockSource = some (mergeCause (s.timeline.count + 1) .holdover (s.notice clockSource)) ∧
        (∀ n, n ≠ clockSource → u.notice n = s.notice n) ∧
        { u with timeline := s.timeline, work := s.work, notices := s.notices } = s) ∧
    (s.timeline.role = .lead → s.timeline.contention = true → s.timeline.heardHigher = false → s.timeline.quiet = 15 →
      ∃ u, Acts .contentionExpiry s u ∧ u.timeline.contention = false ∧ u.timeline.quiet = 0 ∧
        { u with timeline := s.timeline, work := s.work } = s)

/-- MARKER_SEND and MARKER_HEARD (R159, R161, R162, R164). At the marker send of a tick a LEAD unit sends its id with
the count its next tick will bring, the pending set when one is held; a unit in another role sends none, and there is
one marker send in a tick. A failed check and the role ALONE hear nothing; a FOLLOW unit accepts by the table of R164; a
LEAD unit yields to a lower or an equal id, accepting the marker in SEEK, and holds a contention against a higher one.
The model's choice: log entry 33. -/
def Obligations.MarkersAreSentAndHeard : Prop :=
  (∀ s : State, s.held = false →
    (s.timeline.sendPassed = true → Acts .markerSend s s) ∧
    (s.timeline.sendPassed = false → s.timeline.role ≠ .lead →
      Acts .markerSend s { s with timeline := { s.timeline with sendPassed := true, sent := none } }) ∧
    (s.timeline.sendPassed = false → s.timeline.role = .lead →
      ∃ m : Marker, m.id = s.timeline.unitId ∧
        Acts .markerSend s { s with timeline := { s.timeline with sendPassed := true, sent := some m } } ∧
        (s.timeline.pendingSet = none → m.count = s.timeline.count + 1) ∧
        ∀ v, s.timeline.pendingSet = some v → m.count = v)) ∧
  ∀ (s : State) (id : UnitId) (count : Count), s.held = false →
    let m : Marker := { id := id, count := count }
    let accepted : Timeline := { s.timeline with pendingMarker := some m, leaderSeen := some id }
    let yielded : Timeline :=
      { s.timeline with
        role := .follow, follow := .seek, pendingSet := none, contention := false, quiet := 0, heardHigher := false,
        age := none, pendingMarker := some m, leaderSeen := some id }
    Acts (.markerHeard id count false) s s ∧
    (s.timeline.role = .alone → Acts (.markerHeard id count true) s s) ∧
    (s.timeline.role = .follow →
      (∀ p, s.timeline.pendingMarker = some p →
        Acts (.markerHeard id count true) s (if id ≤ p.id then { s with timeline := accepted } else s)) ∧
      (s.timeline.pendingMarker = none → s.timeline.follow ≠ .locked →
        Acts (.markerHeard id count true) s { s with timeline := accepted }) ∧
      (∀ l, s.timeline.pendingMarker = none → s.timeline.follow = .locked → s.timeline.leaderSeen = some l →
        Acts (.markerHeard id count true) s (if id ≤ l then { s with timeline := accepted } else s))) ∧
    (s.timeline.role = .lead →
      (id < s.timeline.unitId →
        Acts (.markerHeard id count true) s (({ s with timeline := yielded } : State).raise clockSource .leadLost)) ∧
      (id = s.timeline.unitId →
        Acts (.markerHeard id count true) s (({ s with timeline := yielded } : State).raise clockSource .idClash)) ∧
      (s.timeline.unitId < id →
        let marked : State := { s with timeline := { s.timeline with contention := true, heardHigher := true } }
        Acts (.markerHeard id count true) s
          (if s.timeline.contention then marked else marked.raise clockSource .contend)))

/-! ### The output ports (chapter 05) -/

/-- R100 to R103: each component of a driven sample is the sum kept within −32768…32767, a sample is clipped exactly
when that changes its I or its Q, and a port that is not LIVE drives zeros and counts no clipped sample. -/
def Obligations.PortSaturatesItsSum : Prop :=
  ∀ (x : Port) (n : Nat), n < 4096 →
    (x.state = .live →
      (32767 < (x.sumAt n).i → (x.busSample n).i = 32767) ∧ ((x.sumAt n).i < -32768 → (x.busSample n).i = -32768) ∧
      (-32768 ≤ (x.sumAt n).i ∧ (x.sumAt n).i ≤ 32767 → (x.busSample n).i = (x.sumAt n).i) ∧
      (32767 < (x.sumAt n).q → (x.busSample n).q = 32767) ∧ ((x.sumAt n).q < -32768 → (x.busSample n).q = -32768) ∧
      (-32768 ≤ (x.sumAt n).q ∧ (x.sumAt n).q ≤ 32767 → (x.busSample n).q = (x.sumAt n).q) ∧
      x.clipCount = ((List.range 4096).filter fun k => x.busSample k ≠ x.sumAt k).length) ∧
    (x.state ≠ .live → x.busSample n = ⟨0, 0⟩ ∧ x.clipCount = 0)

/-- PORT_SET (R109): a payload of another size is answered LENGTH, and a field outside its range RANGE, with nothing
changed; otherwise the carried values become the pending set, a restore once pending stays, and the port's own notice
record is cleared. -/
def Obligations.PortSetPends : Prop :=
  (∀ (s : State) (tag : Byte) (p : List Byte), s.serves { tag := tag, code := 0x20, payload := p } → p.length ≠ 10 →
    Refuses (.portSet tag p) s tag .length) ∧
  ∀ (s : State) (tag p st f0 f1 x0 x1 g l0 l1 r : Byte),
    let payload := [p, st, f0, f1, x0, x1, g, l0, l1, r]
    s.serves { tag := tag, code := 0x20, payload := payload } →
    if h : p.toNat < 4 ∧ st.toNat < 3 ∧ -120 ≤ (f1 ++ f0).toInt ∧ (f1 ++ f0).toInt ≤ 40 ∧ (x1 ++ x0).toNat ≤ 240 ∧
        g.toNat < 3 ∧ (l1 ++ l0).toNat ≤ 4096 ∧ r.toNat < 2 then
      let q : PortId := ⟨p.toNat, h.1⟩
      let v : PortSet :=
        { state := if st = 0 then .off else if st = 1 then .muted else .live
          fs := (f1 ++ f0).toInt
          x := (x1 ++ x0).toNat
          guard := if g = 0 then .off else if g = 1 then .count else .backoff
          limit := (l1 ++ l0).toNat
          restore := r = 1 || (match (s.port q).pending with | some old => old.restore | none => false) }
      Completes (.portSet tag payload) s tag []
        ((s.setPort q { s.port q with pending := some v }).setNotice (portSource q) none)
    else Refuses (.portSet tag payload) s tag .range

/-- Every port at a tick start (R98, R105, R107, R110): a LIVE tick whose clip count is above the limit is counted,
steps the backoff by 12 hd in BACKOFF mode below 96 hd, and raises BACKOFF or OVERLOAD by the table of R105; the
last-tick counts are recorded; then a pending set is applied, a restore clearing backoff and overloaded-tick count. -/
def Obligations.PortsCloseTheirTick : Prop :=
  ∀ s : State, s.held = false → s.work.ports = 0 → ∃ u, Acts .tickStart s u ∧ ∀ p : PortId,
    let x := s.port p
    let overloaded := x.state = .live ∧ x.limit < x.clipCount
    let steps := overloaded ∧ x.guard = .backoff ∧ x.backoff < 96
    let count := if overloaded then min (x.overloads + 1) 65535 else x.overloads
    let backoff := if steps then x.backoff + 12 else x.backoff
    (u.port p).lastClips = x.clipCount ∧ (u.port p).lastFeeds = (if x.state = .off then 0 else x.feeds) ∧
    (u.port p).pending = none ∧
    (x.pending = none → (u.port p).state = x.state ∧ (u.port p).fs = x.fs ∧ (u.port p).x = x.x ∧
      (u.port p).guard = x.guard ∧ (u.port p).limit = x.limit ∧ (u.port p).backoff = backoff ∧
      (u.port p).overloads = count) ∧
    (∀ v, x.pending = some v → (u.port p).state = v.state ∧ (u.port p).fs = v.fs ∧ (u.port p).x = v.x ∧
      (u.port p).guard = v.guard ∧ (u.port p).limit = v.limit ∧
      (u.port p).backoff = (if v.restore then 0 else backoff) ∧
      (u.port p).overloads = (if v.restore then 0 else count)) ∧
    (¬ overloaded ∨ x.guard = .off → u.notice (portSource p) = s.notice (portSource p)) ∧
    (steps → u.notice (portSource p) = some (mergeCause u.timeline.count .backoff (s.notice (portSource p)))) ∧
    (overloaded → x.guard ≠ .off → ¬ steps →
      u.notice (portSource p) = some (mergeCause u.timeline.count .overload (s.notice (portSource p))))

/-- PORT_SET_APPLY (R98, R110): the coming tick start as far as port `p` goes. The port closes the ended tick and
applies its pending set; of the other blocks only the timeline brings its count. The model's choice: log entry 5. -/
def Obligations.PortSetApplies : Prop :=
  ∀ (s : State) (p : PortId) (v : PortSet), s.held = false → s.work.ports.getLsbD p.1 = false →
    (s.port p).pending = some v →
    ∃ u, Acts (.portSetApply p) s u ∧
      let x := s.port p
      let overloaded := x.state = .live ∧ x.limit < x.clipCount
      let steps := overloaded ∧ x.guard = .backoff ∧ x.backoff < 96
      u.port p =
        { state := v.state
          fs := v.fs
          x := v.x
          guard := v.guard
          limit := v.limit
          pending := none
          backoff := if v.restore then 0 else if steps then x.backoff + 12 else x.backoff
          overloads := if v.restore then 0 else if overloaded then min (x.overloads + 1) 65535 else x.overloads
          lastClips := x.clipCount
          lastFeeds := if x.state = .off then 0 else x.feeds
          feeds := 0
          sum := [] } ∧
      (∀ q, q ≠ p → u.port q = s.port q) ∧ u.timeline = (timelineTick s).timeline ∧
      u.work.ports = s.work.ports ||| BitVec.twoPow 4 p.1 ∧
      (∀ n, n ≠ portSource p → n ≠ clockSource → u.notice n = s.notice n) ∧
      { u with
        ports := s.ports
        timeline := s.timeline
        work := s.work
        notices := s.notices } = s

/-! ### Cue memory and the flags (chapter 01) -/

/-- The 28 bytes of a cue entry (section 11.4, R22): every entry with its level, its frequency and its silence in
range is read back from its bytes as it was; 28 bytes that are read as an entry are that entry's bytes, so no bit of
them is dropped, and the entry is in range; and the bytes of the empty entry are those section 11.4 gives. -/
def Obligations.CueEntriesRoundTrip : Prop :=
  let inRange (e : CueEntry) :=
    -600 ≤ e.level ∧ e.level ≤ 40 ∧ -16000000 ≤ e.freq ∧ e.freq ≤ 16000000 ∧ (e.clip = none → e.length ≠ 0)
  (∀ e : CueEntry, inRange e → e.bytes.length = 28 ∧ readEntry e.bytes = some e) ∧
  (∀ (p : List Byte) (e : CueEntry), p.length = 28 → readEntry p = some e → inRange e ∧ e.bytes = p) ∧
  CueEntry.empty.bytes =
    [0xFF, 0xFF, 0, 7, 0, 0, 0, 0, 1, 0, 0, 0, 0, 0, 0, 0, 0, 0, 0, 0, 1, 0, 0, 0, 0, 0, 0, 0]

/-- CUE_PUT (R21, R22, R23): the entries are written to the start index and the indices after it, wrapping, and
nothing else changes; the answer counts the tracks whose entry queue holds a copy of a written index. A start index or
a count out of range, a byte 3 that is not zero, or an entry that R22 refuses is answered RANGE. -/
def Obligations.CuePutWritesEntries : Prop :=
  (∀ (s : State) (tag i0 i1 n : Byte) (es : List CueEntry),
    let payload := [i0, i1, n, 0] ++ es.flatMap CueEntry.bytes
    let i : CueIndex := (i1 ++ i0).setWidth 12
    (i1 ++ i0).toNat < 4096 → n.toNat = es.length → 1 ≤ n.toNat → n.toNat ≤ 16 →
    (∀ e ∈ es, -600 ≤ e.level ∧ e.level ≤ 40 ∧ -16000000 ≤ e.freq ∧ e.freq ≤ 16000000 ∧
      (e.clip = none → e.length ≠ 0)) →
    s.serves { tag := tag, code := 0x30, payload := payload } →
    ∃ u : State,
      Completes (.cuePut tag payload) s tag
        [BitVec.ofNat 8 ((List.finRange 48).countP fun t => (s.track t).queue.any fun c => (c.index - i).toNat < n.toNat)]
        u ∧
      (∀ j : CueIndex, u.cueEntry j = (es[(j - i).toNat]?).getD (s.cueEntry j)) ∧ { u with cue := s.cue } = s) ∧
  ∀ (s : State) (tag i0 i1 n z : Byte) (rest : List Byte),
    let payload := [i0, i1, n, z] ++ rest
    rest.length = 28 * n.toNat →
    4096 ≤ (i1 ++ i0).toNat ∨ n = 0 ∨ 16 < n.toNat ∨ z ≠ 0 ∨
      (∃ k < n.toNat, readEntry ((rest.drop (28 * k)).take 28) = none) →
    s.serves { tag := tag, code := 0x30, payload := payload } → Refuses (.cuePut tag payload) s tag .range

/-- R3, R7, R57, R58, R67: a copy holds the entry as it stands in cue memory. A SILENCE entry is GOOD over its length;
an entry whose clip is not READY is BAD_CLIP; one whose start is not below the blocks written, or whose end lies beyond
them, the sum taken in full, is BAD_RANGE; any other is GOOD over its length field, or over the blocks from its start on
where that is 0. The walk stops at a BAD copy and makes slots for a GOOD one (R59, R61, R64, R65): with room in the ring
its step at block k of the back copy adds one slot behind the others, of the copy's path and clip, for block start + k;
it is FILLED for SILENCE, and its read waits or runs for a clip. A split makes its slots alternately, TAKEN first, at
most two for a path, one for a path of one block and none for a BAD one (R69). A NEAR target d names the index i + 1 + d
modulo 4096, a FAR target its own. The model's choice: log entry 32. -/
def Obligations.CopiesAreValidated : Prop :=
  (∀ (s : State) (i : CueIndex) (path : PathTag) (trailing : Bool),
    let c := s.copyOf i path trailing
    let e := s.cueEntry i
    c.index = i ∧ c.entry = e ∧ c.path = path ∧ c.trailing = trailing ∧
    (e.clip = none → c.status = .good ∧ c.length = e.length.toNat) ∧
    ∀ k, e.clip = some k →
      let r := s.clip k
      let fits := e.start.toNat < r.blocks ∧ (e.length = 0 ∨ e.start.toNat + e.length.toNat ≤ r.blocks)
      (r.state ≠ .ready → c.status = .badClip) ∧ (r.state = .ready → ¬ fits → c.status = .badRange) ∧
      (r.state = .ready → fits →
        c.status = .good ∧ 1 ≤ c.length ∧ e.start.toNat + c.length ≤ r.blocks ∧
          c.length = if e.length = 0 then r.blocks - e.start.toNat else e.length.toNat)) ∧
  (∀ (s : State) (t : TrackId) (i : CueIndex) (trailing : Bool), (s.track t).walk.phase = .copy i trailing →
    (4 ≤ (s.track t).queue.length → walkStep t s = none) ∧
    ((s.track t).queue.length < 4 →
      ∃ u, walkStep t s = some u ∧ LookaheadWork t s u ∧
        let c := s.copyOf i .main trailing
        (u.track t).queue = (s.track t).queue ++ [c] ∧ (u.track t).ring = (s.track t).ring ∧
        (u.track t).walk.phase = if c.status = .good then .slots 0 else .done .bad)) ∧
  (∀ (s : State) (t : TrackId),
    let x := s.track t
    let makes (c : Copy) (k : Nat) (phase : WalkPhase) : Prop :=
      (8 ≤ x.ring.length → walkStep t s = none) ∧
      (x.ring.length < 8 → ∃ u kept y, walkStep t s = some u ∧ LookaheadWork t s u ∧ (u.track t).queue = x.queue ∧
        (u.track t).walk = { x.walk with phase := phase } ∧ (u.track t).ring = kept ++ [y] ∧
        List.Forall₂ Slot.SameBut x.ring kept ∧ y.id = s.slotSeq ∧ y.path = c.path ∧
        (c.entry.clip = none → y.clip = none ∧ y.block = 0 ∧ y.state = .filled) ∧
        ∀ i, c.entry.clip = some i → y.clip = some i ∧ y.block = c.entry.start.toNat + k ∧
          (y.state = .wanted ∨ y.state = .queued ∨ y.state = .reading))
    (∀ k c, x.walk.phase = .slots k → x.queue.getLast? = some c → k < c.length → makes c k (.slots (k + 1))) ∧
    ∀ main a b, x.walk.phase = .split → x.queue = main ++ [a, b] → (∀ c ∈ main, c.path = .main) → a.path = .taken →
      b.path = .fall →
      let due (c : Copy) : Nat := if c.status = .good then min 2 c.length else 0
      let made (p : PathTag) : Nat := x.ring.countP fun y => y.path = p
      if made .taken < due a ∧ (made .taken ≤ made .fall ∨ due b ≤ made .fall) then makes a (made .taken) .split
      else if made .fall < due b then makes b (made .fall) .split
      else walkStep t s = none) ∧
  ∀ (i j : CueIndex) (d : BitVec 8),
    (((Target.near d).index i).toNat : Int) = (i.toNat + 1 + d.toInt) % 4096 ∧ (Target.far j).index i = j

/-- CUE_GET (R24): a payload of another size is answered LENGTH, and a start index or a count out of range RANGE.
Otherwise the answer is the entries from the start index on, wrapping, as they stand in cue memory, in the form
CUE PUT writes. Nothing changes. -/
def Obligations.CueGetReturnsEntries : Prop :=
  (∀ (s : State) (tag : Byte) (p : List Byte), s.serves { tag := tag, code := 0x31, payload := p } → p.length ≠ 3 →
    Refuses (.cueGet tag p) s tag .length) ∧
  ∀ (s : State) (tag i0 i1 n : Byte), s.serves { tag := tag, code := 0x31, payload := [i0, i1, n] } →
    if (i1 ++ i0).toNat < 4096 ∧ 1 ≤ n.toNat ∧ n.toNat ≤ 16 then
      Completes (.cueGet tag [i0, i1, n]) s tag
        ((List.range n.toNat).flatMap fun k => (s.cueEntry ((i1 ++ i0).setWidth 12 + BitVec.ofNat 12 k)).bytes) s
    else Refuses (.cueGet tag [i0, i1, n]) s tag .range

/-- FLAG_WRITE (R15) and FLAG_READ (R16): a flag in both masks is answered RANGE; otherwise the set mask is set and
the clear mask cleared in one change, and the answer carries the flags after it. FLAG_READ returns the flags and
changes nothing. -/
def Obligations.FlagRequests : Prop :=
  (∀ (s : State) (tag s0 s1 c0 c1 : Byte), s.serves { tag := tag, code := 0x32, payload := [s0, s1, c0, c1] } →
    if (s1 ++ s0) &&& (c1 ++ c0) ≠ 0#16 then Refuses (.flagWrite tag [s0, s1, c0, c1]) s tag .range
    else
      ∃ flags : BitVec 16,
        (∀ f < 16, flags.getLsbD f =
          if (s1 ++ s0).getLsbD f then true else if (c1 ++ c0).getLsbD f then false else s.flags.getLsbD f) ∧
        Completes (.flagWrite tag [s0, s1, c0, c1]) s tag [flags.extractLsb' 0 8, flags.extractLsb' 8 8]
          { s with flags := flags }) ∧
  ∀ (s : State) (tag : Byte), s.serves { tag := tag, code := 0x33, payload := [] } →
    Completes (.flagRead tag []) s tag [s.flags.extractLsb' 0 8, s.flags.extractLsb' 8 8] s


/-! ### The track requests (chapter 02) -/

/-- TRACK_ARM (R27, R28, R29): a field outside its range is answered RANGE, and STATE or BUSY as the state has it;
otherwise the track is PRIMING at the new home, or READY at once where the priming condition is met (R30), with
position, marks, link, start and stop condition, counts, latches and fault reason cleared and its notice record gone,
its lookahead has copied the home entry, and every slot of its ring is new. The requests of its old slots leave the
fetch queues, a read in flight goes on, and every other request stays, or is read (R63). The model's choice: log entry
20. -/
def Obligations.TrackArmStartsAtHome : Prop :=
  ∀ (s : State) (tag t h0 h1 : Byte), s.serves { tag := tag, code := 0x40, payload := [t, h0, h1] } →
    if h : t.toNat < 48 ∧ (h1 ++ h0).toNat < 4096 then
      let k : TrackId := ⟨t.toNat, h.1⟩
      let home : CueIndex := (h1 ++ h0).setWidth 12
      let x := s.track k
      if s.store.scanning then Refuses (.trackArm tag [t, h0, h1]) s tag .state
      else if x.state = .starting ∨ x.state = .stopping then Refuses (.trackArm tag [t, h0, h1]) s tag .busy
      else if x.state = .playing ∨ x.state = .holding then Refuses (.trackArm tag [t, h0, h1]) s tag .state
      else
        ∃ u, Completes (.trackArm tag [t, h0, h1]) s tag [] u ∧
          LookaheadWork k
            ((s.setTrack k
              { x with
                state := .priming
                home := home
                playNumber := 1
                block := 0
                lastPlay := false
                primed := false
                link := none
                start := .none
                startDue := false
                stop := .none
                decision := .none
                underruns := 0
                readFaults := 0
                short := false
                edge := false
                late := false
                faultReason := .none }).setNotice (trackSource k) none) u ∧
          ((u.track k).state = .ready ↔ u.primes k) ∧ ((u.track k).primed = true ↔ u.primes k) ∧
          (∃ c r, (u.track k).queue = c :: r ∧ c.index = home ∧ c.entry = s.cueEntry home ∧
            (c.status, c.length) = s.validate c.entry) ∧
          (∀ y ∈ (u.track k).ring, s.slotSeq ≤ y.id) ∧
          ∀ b,
            (∀ f ∈ (u.bank b).fetch, ∀ y ∈ x.ring, y.id < s.slotSeq →
              f.slot ≠ y.id ∨ ∃ j, j ≠ k ∧ ∃ z ∈ (s.track j).ring, z.id = y.id) ∧
            (∀ f, (s.bank b).inFlight = some f → (u.bank b).inFlight = some f) ∧
            ∀ f ∈ (s.bank b).fetch, (∀ y ∈ x.ring, f.slot ≠ y.id) →
              f ∈ (u.bank b).fetch ∨ (u.bank b).inFlight = some f
    else Refuses (.trackArm tag [t, h0, h1]) s tag .range

/-- TRACK_GO (R27, R28, R31, R32): a field outside its range, or one its condition leaves unused and that is not zero,
is answered RANGE, and STATE or BUSY as the state has it; otherwise the start condition is recorded and the track is
STARTING. With NEXT the next tick start is the start tick, and with an AT time that is late too, LATE being latched
and raised. The model's choices: log entries 24 and 25. -/
def Obligations.TrackGoRecordsItsCondition : Prop :=
  ∀ (s : State) (tag t cond consume number b0 b1 b2 b3 : Byte),
    let payload := [t, cond, consume, number, b0, b1, b2, b3]
    let time : Count := b3 ++ b2 ++ b1 ++ b0
    s.serves { tag := tag, code := 0x41, payload := payload } →
    if h : t.toNat < 48 ∧ ((cond = 1 ∧ consume = 0 ∧ number = 0 ∧ time = 0) ∨ (cond = 2 ∧ consume = 0 ∧ number = 0) ∨
        (cond = 3 ∧ consume = 0 ∧ number.toNat < 4 ∧ time = 0) ∨
        (cond = 4 ∧ consume.toNat < 2 ∧ number.toNat < 16 ∧ time = 0)) then
      let k : TrackId := ⟨t.toNat, h.1⟩
      let x := s.track k
      if x.state = .starting ∨ x.state = .stopping then Refuses (.trackGo tag payload) s tag .busy
      else if x.state ≠ .priming ∧ x.state ≠ .ready then Refuses (.trackGo tag payload) s tag .state
      else
        (cond = 1 → Completes (.trackGo tag payload) s tag []
          (s.setTrack k { x with state := .starting, start := .next, startDue := true })) ∧
        (cond = 2 → ahead time s.timeline.count = true → Completes (.trackGo tag payload) s tag []
          (s.setTrack k { x with state := .starting, start := .atTime time, startDue := false })) ∧
        (cond = 2 → ahead time s.timeline.count = false → Completes (.trackGo tag payload) s tag []
          ((s.setTrack k { x with state := .starting, start := .atTime time, startDue := true, late := true }).raise
            (trackSource k) .late)) ∧
        (∀ n : LineId, cond = 3 → number.toNat = n.1 → Completes (.trackGo tag payload) s tag []
          (s.setTrack k { x with state := .starting, start := .trigger n, startDue := false })) ∧
        (cond = 4 → Completes (.trackGo tag payload) s tag []
          (s.setTrack k
            { x with state := .starting, start := .flag (number.setWidth 4) (consume = 1), startDue := false }))
    else Refuses (.trackGo tag payload) s tag .range

/-- TRACK_STOP (R27, R28, R37, R45): the table of R45. A mode other than NOW, FADE and END, a FADE of length 0 and a
length given with NOW or END are answered RANGE. In STARTING it cancels the start, a waiting staged set becoming
active. The model's choices: log entries 21 and 24. -/
def Obligations.TrackStopFollowsItsTable : Prop :=
  ∀ (s : State) (tag t mode h : Byte), s.serves { tag := tag, code := 0x42, payload := [t, mode, h] } →
    let c : Instr := .trackStop tag [t, mode, h]
    if hk : t.toNat < 48 ∧ ((mode = 1 ∧ h = 0) ∨ (mode = 2 ∧ h ≠ 0) ∨ (mode = 3 ∧ h = 0)) then
      let k : TrackId := ⟨t.toNat, hk.1⟩
      let x := s.track k
      match x.state with
      | .starting => Completes c s tag []
          (s.setTrack k
            { x.transfer with state := if x.primed then .ready else .priming, start := .none, startDue := false })
      | .playing => Completes c s tag []
          (if x.stop = .now then s
          else if mode = 1 then s.setTrack k { x with stop := .now }
          else if mode = 2 then s.setTrack k { x with state := .stopping, stop := .fade h.toNat, stopFade := 0 }
          else s.setTrack k { x with state := .stopping, stop := .atEnd, stopFade := 0 })
      | .holding => Completes c s tag [] (s.setTrack k { x with stop := .now, breakPending := false })
      | .stopping =>
        if mode = 1 then Completes c s tag [] (s.setTrack k { x with stop := .now }) else Refuses c s tag .busy
      | .idle | .priming | .ready | .faulted => Refuses c s tag .state
    else Refuses c s tag .range

/-- TRACK_BREAK (R27, R28, R43, R44, R75): in PLAYING while a play remains it makes the play in progress the last; the
current entry and the slots of the blocks that remain of the play stay, every other slot and every copy behind the
current entry is discarded, and the lookahead walks on from the play's end: the slots it makes are new, and the copies
it takes hold the entries as cue memory and the clip directory then stand. As it goes on its shadow link is the link,
no decision waits for it, and it has prepared the plays before the play in progress. In HOLDING it sets the
break-pending mark, unless a stop is pending. Otherwise it is answered STATE. The model's choices: log entries 19 and
22. -/
def Obligations.TrackBreakEndsTheLoop : Prop :=
  ∀ (s : State) (tag t : Byte), s.serves { tag := tag, code := 0x43, payload := [t] } →
    if h : t.toNat < 48 then
      let k : TrackId := ⟨t.toNat, h⟩
      let x := s.track k
      (∀ c r, x.state = .playing → x.queue = c :: r →
        if c.trailing = false ∧ x.lastPlay = false ∧ (c.entry.plays = 0 ∨ x.playNumber < c.entry.plays.toNat) then
          ∃ u, Completes (.trackBreak tag [t]) s tag [] u ∧ LookaheadWork k (s.setTrack k { x with lastPlay := true }) u ∧
            (∃ d q, (u.track k).queue = d :: q ∧ d.index = c.index ∧ d.entry = c.entry ∧ d.length = c.length ∧
              d.status = c.status ∧ ∀ e ∈ q, e.entry = s.cueEntry e.index ∧ (e.status, e.length) = s.validate e.entry) ∧
            (∃ v, LookaheadWork k (s.setTrack k { x with lastPlay := true }) v ∧ u = walk k v ∧
              (v.track k).queue = [{ c with prepared := x.playNumber - 1 }] ∧ (v.track k).walk.shadow = x.link ∧
              (v.track k).walk.decided = none ∧
              (v.track k).walk.phase = .slots (x.block + 1 + (x.ring.take (c.length - (x.block + 1))).length)) ∧
            ((x.ring.map Slot.id).Nodup → ∃ kept made, (u.track k).ring = kept ++ made ∧
              List.Forall₂ Slot.SameBut (x.ring.take (c.length - (x.block + 1))) kept ∧ ∀ y ∈ made, s.slotSeq ≤ y.id)
        else Refuses (.trackBreak tag [t]) s tag .state) ∧
      (x.state = .holding → Completes (.trackBreak tag [t]) s tag []
        (if x.stop = .now then s else s.setTrack k { x with breakPending := true })) ∧
      (x.state ≠ .playing → x.state ≠ .holding → Refuses (.trackBreak tag [t]) s tag .state)
    else Refuses (.trackBreak tag [t]) s tag .range

/-- TRACK_TUNE and TRACK_FEED (R51, R52, R53). In IDLE, PRIMING, READY and FAULTED the six values, or the feed list,
are written into both copies, a TUNE restarting the gate; in the other states they are written into the staged copy,
with the staged-pending mark, the gate mark for a TUNE, and the NOW mark when NOW is given. A value out of range, a
list longer than 4 and two feeds on one port are answered RANGE. -/
def Obligations.TuneAndFeedWriteTheirCopies : Prop :=
  (∀ (s : State) (tag t mode now z d0 d1 d2 d3 w0 w1 w2 w3 trim y g0 g1 o0 o1 : Byte),
    let payload := [t, mode, now, z, d0, d1, d2, d3, w0, w1, w2, w3, trim, y, g0, g1, o0, o1]
    let detune := (d3 ++ d2 ++ d1 ++ d0).toInt
    let sweep := (w3 ++ w2 ++ w1 ++ w0).toInt
    s.serves { tag := tag, code := 0x44, payload := payload } →
    if h : t.toNat < 48 ∧ mode.toNat < 2 ∧ now.toNat < 2 ∧ z = 0 ∧ -32000000 ≤ detune ∧ detune ≤ 32000000 ∧
        -100000 ≤ sweep ∧ sweep ≤ 100000 ∧ trim.toNat ≤ 120 ∧ y = 0 then
      let k : TrackId := ⟨t.toNat, h.1⟩
      let x := s.track k
      let tuned (l : LiveParams) : LiveParams :=
        { detune := detune
          sweep := sweep
          trim := trim.toNat
          gateOn := (g1 ++ g0).toNat
          gateOff := (o1 ++ o0).toNat
          mode := if mode = 0 then .every else .marked
          feeds := l.feeds }
      Completes (.trackTune tag payload) s tag []
        (s.setTrack k
          (if x.state = .idle ∨ x.state = .priming ∨ x.state = .ready ∨ x.state = .faulted then
            { x with active := tuned x.active, staged := tuned x.staged, gatePhase := .on, gateCounter := 0 }
          else
            { x with
              staged := tuned x.staged
              stagedPending := true
              gateMark := true
              nowMark := x.nowMark || now = 1 }))
    else Refuses (.trackTune tag payload) s tag .range) ∧
  (∀ (s : State) (tag t now n : Byte) (fs : List Feed) (h : t.toNat < 48),
    let payload := [t, now, n, 0] ++ fs.flatMap fun f =>
      [BitVec.ofNat 8 f.port.1, BitVec.ofNat 8 f.offset, f.phase.extractLsb' 0 8, f.phase.extractLsb' 8 8]
    let k : TrackId := ⟨t.toNat, h⟩
    let x := s.track k
    now.toNat < 2 → n.toNat = fs.length → fs.length ≤ 4 → (∀ f ∈ fs, f.offset ≤ 120) → (fs.map Feed.port).Nodup →
    s.serves { tag := tag, code := 0x45, payload := payload } →
    Completes (.trackFeed tag payload) s tag []
      (s.setTrack k
        (if x.state = .idle ∨ x.state = .priming ∨ x.state = .ready ∨ x.state = .faulted then
          { x with active := { x.active with feeds := fs }, staged := { x.staged with feeds := fs } }
        else
          { x with
            staged := { x.staged with feeds := fs }
            stagedPending := true
            nowMark := x.nowMark || now = 1 }))) ∧
  ∀ (s : State) (tag t now n z : Byte) (rest : List Byte),
    let payload := [t, now, n, z] ++ rest
    rest.length = 4 * n.toNat →
    48 ≤ t.toNat ∨ 2 ≤ now.toNat ∨ z ≠ 0 ∨ 4 < n.toNat ∨
      (∃ i < n.toNat, 4 ≤ (rest.getD (4 * i) 0).toNat ∨ 120 < (rest.getD (4 * i + 1) 0).toNat) ∨
      (∃ i j, i < j ∧ j < n.toNat ∧ rest.getD (4 * i) 0 = rest.getD (4 * j) 0) →
    s.serves { tag := tag, code := 0x45, payload := payload } → Refuses (.trackFeed tag payload) s tag .range

/-- TRACK_CLEAR (R27, R28, R50): BUSY in STARTING and STOPPING; otherwise the track is IDLE at once with an empty
queue and ring and a stopped lookahead, its position, marks, link, start and stop condition, counts, latches and fault
reason are cleared, and a waiting staged set becomes active. Home, the parameters, the accumulator and its notice
record stay. Every QUEUED request of its slots leaves its bank's fetch queue, a read in flight goes on, and the requests
of other tracks stay, or are read (R63, R151). An active detune that the sweep or the clamp has left beside a different
staged one stays so where no set waits: the model's choice (log entry 35). The model's other choices: log entries 20, 21
and 32. -/
def Obligations.TrackClearGoesIdle : Prop :=
  ∀ (s : State) (tag t : Byte), s.serves { tag := tag, code := 0x47, payload := [t] } →
    if h : t.toNat < 48 then
      let k : TrackId := ⟨t.toNat, h⟩
      let x := s.track k
      if x.state = .starting ∨ x.state = .stopping then Refuses (.trackClear tag [t]) s tag .busy
      else
        ∃ u, Completes (.trackClear tag [t]) s tag [] u ∧
          BankWork
            (s.setTrack k
              { x.transfer with
                state := .idle
                playNumber := 1
                block := 0
                stopFade := 0
                lastPlay := false
                breakPending := false
                primed := false
                link := none
                start := .none
                startDue := false
                stop := .none
                underruns := 0
                readFaults := 0
                short := false
                edge := false
                late := false
                faultReason := .none
                queue := []
                ring := []
                walk := { phase := .stopped, shadow := none, decided := none, after := .none }
                decision := .none }) u ∧
          ∀ b, (∀ f ∈ (u.bank b).fetch, ∀ y ∈ x.ring, f.slot ≠ y.id ∨ ∃ j, j ≠ k ∧ ∃ z ∈ (s.track j).ring, z.id = y.id) ∧
            (∀ f, (s.bank b).inFlight = some f → (u.bank b).inFlight = some f) ∧
            ∀ f ∈ (s.bank b).fetch, (∀ y ∈ x.ring, f.slot ≠ y.id) →
              f ∈ (u.bank b).fetch ∨ (u.bank b).inFlight = some f
    else Refuses (.trackClear tag [t]) s tag .range

/-! ### Level and frequency arithmetic (chapter 04) -/

/-- R55, R81 to R86: a fade in falls from 180 hd at block 0 to none at block F, a fade out rises to 180 hd at the last
block, and a stop fade is (j × 180) div h at position j; the fade attenuation is the largest of those that apply, and
0 when none applies. The base of a feed is its sum kept at 0, SHORT being a sum below 0; the gain factor is that of
the base with fades and backoff, and 0 for SILENCE, in a tick the gate mutes and above 180 hd. It is the table value
shifted right and never grows with the attenuation. -/
def Obligations.FadesAndGainFollowTheirRamps : Prop :=
  (∀ f k : Nat, (k < f → fadeInAtt f k = (f - k) * 180 / f) ∧ (f ≤ k → fadeInAtt f k = 0) ∧
    (1 ≤ f → fadeInAtt f 0 = 180) ∧ fadeInAtt f (k + 1) ≤ fadeInAtt f k) ∧
  (∀ g m : Nat, 1 ≤ m → (m ≤ g → fadeOutAtt g m = (g - m + 1) * 180 / g) ∧ (g < m → fadeOutAtt g m = 0) ∧
    (1 ≤ g → fadeOutAtt g 1 = 180) ∧ fadeOutAtt g (m + 1) ≤ fadeOutAtt g m) ∧
  (∀ h j : Nat, 1 ≤ h → (1 ≤ j → j ≤ h → stopFadeAtt h j = j * 180 / h) ∧ stopFadeAtt h h = 180 ∧
    stopFadeAtt h j ≤ stopFadeAtt h (j + 1)) ∧
  (∀ (x : Track) (c : Copy), x.block < c.length → (∀ h, x.stop = .fade h → x.stopFade ≤ h) →
    let last := x.lastPlay = true ∨ c.trailing = true ∨ (c.entry.plays ≠ 0 ∧ x.playNumber = c.entry.plays.toNat)
    let fadeIn := fadeInAtt c.entry.fadeIn.toNat x.block
    let fadeOut := fadeOutAtt c.entry.fadeOut.toNat (c.length - x.block)
    x.fade c ≤ 180 ∧ (x.playNumber = 1 → fadeIn ≤ x.fade c) ∧ (last → fadeOut ≤ x.fade c) ∧
    (∀ h, x.state = .stopping → x.stop = .fade h → stopFadeAtt h x.stopFade ≤ x.fade c) ∧
    (x.fade c = 0 ∨ (x.playNumber = 1 ∧ x.fade c = fadeIn) ∨ (last ∧ x.fade c = fadeOut) ∨
      ∃ h, x.state = .stopping ∧ x.stop = .fade h ∧ x.fade c = stopFadeAtt h x.stopFade)) ∧
  (∀ (s : State) (x : Track) (c : Copy) (f : Feed),
    (c.entry.clip = none → s.feedGain x c f = 0 ∧ s.feedShort x c f = false) ∧
    ∀ i, c.entry.clip = some i →
      let sum : Int := (s.port f.port).fs + (s.clip i).ref - (s.port f.port).x - c.entry.level + x.active.trim + f.offset
      let total := (max sum 0).toNat + x.fade c + (s.port f.port).backoff
      let heard := x.active.gateOn ≠ 0 ∧ (x.active.gateOff = 0 ∨ x.gatePhase = .on)
      (s.feedShort x c f = true ↔ sum < 0) ∧ s.feedGain x c f = if heard ∧ total ≤ 180 then gainOf total else 0) ∧
  (∀ r s : Nat, r < 12 → 12 * s + r ≤ 180 → gainOf (12 * s + r) = gainOf r / 2 ^ s) ∧
  (List.range 12).map gainOf = [32768, 30935, 29205, 27571, 26029, 24573, 23198, 21900, 20675, 19519, 18427, 17396] ∧
  (∀ a b : Nat, a ≤ b → gainOf b ≤ gainOf a) ∧ ∀ a : Nat, gainOf a = 0 ↔ 180 < a

/-- R87 to R90, R92 to R94: a scaled component is x × g / 32768 to the nearest, halves upward, and stays within 16
bits. An interpolator at D = 1 passes samples through once nothing of an older D shapes them, a port sample that only
zeros shape is zero, a block taken shapes no port sample before the delay that R88 gives its D, the samples held and
their D, and with them the old gain, shape none from their delay on (R95), and the outputs stay within 16 bits. The
clamp moves the frequency offset to the limit of R89 with its sign and leaves one within the limit
alone; the NCO word is F × 65536 / 625 to the nearest, its negative that of −F, up to 1,664,614,400; the angle
advances by the word. A rotated sample keeps the magnitude within 0.01 dB and its components within ±46341, and at q
quarter turns lies by the sample turned exactly. What interpolator and rotator make beyond this is free (log entries
13 and 14, the distance of the last clause among them). -/
def Obligations.ScalingClampAndWord : Prop :=
  let within (n : Int) (z : Sample) : Prop := -n ≤ z.i ∧ z.i ≤ n ∧ -n ≤ z.q ∧ z.q ≤ n
  let stored (z : Sample) : Prop := -32768 ≤ z.i ∧ z.i ≤ 32767 ∧ -32768 ≤ z.q ∧ z.q ≤ 32767
  let power (z : Sample) : Int := z.i * z.i + z.q * z.q
  (∀ (g : Nat) (x : Int), g ≤ 32768 → -32768 ≤ x → x ≤ 32767 →
    32768 * scaleComponent g x ≤ x * g + 16384 ∧ x * g + 16384 < 32768 * scaleComponent g x + 32768 ∧
    -32768 ≤ scaleComponent g x ∧ scaleComponent g x ≤ 32767 ∧ (g = 32768 → scaleComponent g x = x) ∧
    (g = 0 → scaleComponent g x = 0) ∧ (x = 0 → scaleComponent g x = 0)) ∧
  (∀ (hd td n : Nat) (held taken : List Sample), (∀ z ∈ taken, stored z) →
    let spent := delayOf hd ≤ n ∨ ∀ z ∈ held, z = ⟨0, 0⟩
    stored (interpolated hd held td taken n) ∧
    (spent → td = 1 → interpolated hd held td taken n = taken.getD n ⟨0, 0⟩) ∧
    (spent → n < delayOf td ∨ (∀ z ∈ taken, z = ⟨0, 0⟩) → interpolated hd held td taken n = ⟨0, 0⟩) ∧
    (n < delayOf td → ∀ other, interpolated hd held td other n = interpolated hd held td taken n) ∧
    (delayOf hd ≤ n → ∀ hd' held', delayOf hd' ≤ n →
      interpolated hd' held' td taken n = interpolated hd held td taken n)) ∧
  [1, 2, 4, 8, 16, 32, 64, 128].map delayOf = [0, 24, 40, 56, 72, 88, 104, 120] ∧
  (none :: [1, 2, 4, 8, 16, 32, 64, 128].map some).map freqLimit =
    [15875000, 0, 8000000, 12000000, 14000000, 15000000, 15500000, 15750000, 15875000] ∧
  (∀ limit offset detune : Int, 0 ≤ limit →
    (limit < offset + detune → offset + clampDetune limit offset detune = limit) ∧
    (offset + detune < -limit → offset + clampDetune limit offset detune = -limit) ∧
    (-limit ≤ offset + detune → offset + detune ≤ limit → clampDetune limit offset detune = detune) ∧
    (clampActs limit offset detune = true ↔ limit < offset + detune ∨ offset + detune < -limit)) ∧
  (∀ f : Nat, f ≤ 15875000 →
    2 * (f * 65536 - 625 * (ncoWord f).toNat : Int).natAbs < 625 ∧ (ncoWord f).toNat ≤ 1664614400 ∧
    ncoWord (-(f : Int)) = -ncoWord f) ∧
  (∀ (acc word : BitVec 32) (phase : BitVec 16) (n : Nat),
    turnAt acc word phase 0 = acc + (phase ++ 0#16) ∧
    turnAt acc word phase (n + 1) = turnAt acc word phase n + word) ∧
  (∀ (y : Sample) (turn : BitVec 32), stored y →
    let z := rotated y turn
    within 46341 z ∧ power y * 997700063823 ≤ power z * 1000000000000 ∧
      power z * 1000000000000 ≤ power y * 1002305238077) ∧
  ∀ (y : Sample) (q : Nat), stored y → q < 4 →
    let z := rotated y (BitVec.ofNat 32 (q * 2 ^ 30))
    let w : Sample := if q = 0 then y else if q = 1 then ⟨-y.q, y.i⟩ else if q = 2 then ⟨-y.i, -y.q⟩ else ⟨y.q, -y.i⟩
    power ⟨z.i - w.i, z.q - w.q⟩ * 1000000 ≤ power y * 6 + 8000000

/-- The level unit's computation for a track that plays a block (R79, R81, R88, R93, R95, R99, R100): each feed of the
active list whose port is not OFF takes the block, scaled by its gain factor, into its interpolator at the entry's D,
one of zeros at D 1 where none ran; the port counts the feed and adds its rotated samples to its sum. A feed on an OFF
port is not computed and holds no interpolator. SHORT is latched and raised when a computed feed's base is clamped.
The model's choices: that the samples held afterwards are those of the last block taken, and what the interpolator
makes of them (log entry 13), what the rotator makes (log entry 14), that the accumulator has taken the tick's step
already (log entry 18), and that the port holds the sums of the tick in progress (log entry 27). -/
def Obligations.LevelUnitComputesFeeds : Prop :=
  ∀ (s : State) (t : TrackId) (c : Copy) (data : Option (List Byte)),
    let x := s.track t
    let u := levelTick t c data s
    let word := ncoWord (c.entry.freq + x.active.detune)
    let short := x.active.feeds.any fun f => (s.port f.port).state ≠ .off && s.feedShort x c f
    let bit (v : State) := ((v.notice (trackSource t)).map fun r => r.causes.getLsbD 8).getD false
    (x.active.feeds.map Feed.port).Nodup →
    TrackWork t s u ∧ (u.track t).nco = x.nco + 4096 * word ∧ (u.track t).short = (x.short || short) ∧
    bit u = (bit s || short) ∧
    (∀ f ∈ x.active.feeds, (s.port f.port).state ≠ .off →
      let old : Interp := (x.interps[f.port]).getD { held := [], inUse := 1 }
      let d := match c.entry.clip with
        | some i => (s.clip i).decimation
        | none => old.inUse
      let block := match data with
        | some bytes => samplesOf bytes
        | none => List.replicate (4096 / d) ⟨0, 0⟩
      let g := s.feedGain x c f
      let scaled := block.map fun y => ⟨scaleComponent g y.i, scaleComponent g y.q⟩
      (u.track t).interps[f.port] = some { held := scaled, inUse := d } ∧
      (u.port f.port).feeds = (s.port f.port).feeds + 1 ∧
      ∀ n < 4096,
        let z := rotated (interpolated old.inUse old.held d scaled n) (turnAt x.nco word f.phase n)
        ((u.port f.port).sumAt n).i = ((s.port f.port).sumAt n).i + z.i ∧
          ((u.port f.port).sumAt n).q = ((s.port f.port).sumAt n).q + z.q) ∧
    ∀ p : PortId, ¬ s.feeds x p → u.port p = s.port p ∧ (u.track t).interps[p] = none

/-! ### Playback at a tick start (sections 1.2 to 1.5, 2.4 to 2.8, 3.6) -/

/-- TICK_START for a track within a play (R38, R39, R46, R55, R91, R93): the next block of the same play is in progress,
in PLAYING as in STOPPING, where the position of a stop fade grows by one; the accumulator has advanced by 4096 words of
the tick's frequency offset, the sweep and its clamp have moved the active detune, the gate has moved on when it runs,
and the entry in play, the link and the staged copy stand. The model's choice: log entry 18. -/
def Obligations.TickStartPlaysTheNextBlock : Prop :=
  ∀ (s : State) (k : TrackId) (c : Copy) (r : List Copy),
    let x := s.track k
    let limit := freqLimit (c.entry.clip.map fun i => (s.clip i).decimation)
    s.held = false → s.trackDone k = false → (x.goesOn ∨ (x.state = .stopping ∧ x.stop = .atEnd)) → x.queue = c :: r →
    x.block + 1 < c.length → (x.nowMark = false ∨ x.stagedPending = false) →
    ∃ u, Acts .tickStart s u ∧
      let y := u.track k
      y.state = x.state ∧ y.block = x.block + 1 ∧ y.playNumber = x.playNumber ∧ y.lastPlay = x.lastPlay ∧
      y.link = x.link ∧ y.home = x.home ∧ y.stop = x.stop ∧ y.stopFade = x.nextFade ∧ y.staged = x.staged ∧
      y.stagedPending = x.stagedPending ∧
      (∃ d q, y.queue = d :: q ∧ d.index = c.index ∧ d.entry = c.entry ∧ d.length = c.length) ∧
      y.nco = x.nco + 4096 * ncoWord (c.entry.freq + x.active.detune) ∧
      y.active = { x.active with detune := clampDetune limit c.entry.freq (x.active.detune + x.active.sweep) } ∧
      y.edge = (x.edge || clampActs limit c.entry.freq (x.active.detune + x.active.sweep)) ∧
      (x.active.gateOn = 0 ∨ x.active.gateOff = 0 → y.gatePhase = x.gatePhase ∧ y.gateCounter = x.gateCounter) ∧
      (x.active.gateOn ≠ 0 → x.active.gateOff ≠ 0 →
        let reached := (if x.gatePhase = .on then x.active.gateOn else x.active.gateOff) ≤ x.gateCounter + 1
        (reached → y.gatePhase ≠ x.gatePhase ∧ y.gateCounter = 0) ∧
        (¬ reached → y.gatePhase = x.gatePhase ∧ y.gateCounter = x.gateCounter + 1))

/-- BOUNDARY while a play remains (R4, R38, R39, R47, R54, R74, R79, R99): the next play of the same entry begins
without an entry start, in PLAYING and in a FADE stop alike, and a set that waits without the NOW mark goes on
waiting. The front slot of the ring leaves it; one that is FILLED counts nothing, a FAULTY one counts a read fault and
raises READ_FAULT, and any other, or none, counts an underrun and raises UNDERRUN. The request of a slot that leaves
while QUEUED leaves its bank's fetch queue (R63). Each port that is not OFF counts
the track's feed on it. The model's choices: log entries 5 and 18. -/
def Obligations.BoundaryRepeatsThePlay : Prop :=
  ∀ (s : State) (t : TrackId) (c : Copy) (r : List Copy),
    let x := s.track t
    let o := openTick s
    s.held = false → s.trackDone t = false → x.goesOn → x.queue = c :: r →
    c.length ≤ x.block + 1 → c.trailing = false → x.lastPlay = false →
    (c.entry.plays = 0 ∨ x.playNumber < c.entry.plays.toNat) → (x.nowMark = false ∨ x.stagedPending = false) →
    ∃ u, Acts (.boundary t) s u ∧ TrackWork t o u ∧ u.flags = s.flags ∧
      let y := u.track t
      y.state = x.state ∧ y.stop = x.stop ∧ y.stopFade = x.nextFade ∧ y.block = 0 ∧
      y.playNumber = min (x.playNumber + 1) 255 ∧ y.lastPlay = false ∧ y.staged = x.staged ∧
      y.stagedPending = x.stagedPending ∧
      y.link = x.link ∧ y.home = x.home ∧ y.nco = x.nco + 4096 * ncoWord (c.entry.freq + x.active.detune) ∧
      (∃ d q, y.queue = d :: q ∧ d.index = c.index ∧ d.entry = c.entry ∧ d.length = c.length) ∧
      (∀ f q, x.ring = f :: q → f.path = .main → f.state = .filled →
        y.underruns = x.underruns ∧ y.readFaults = x.readFaults) ∧
      (∀ f q, x.ring = f :: q → f.path = .main → f.state = .faulty →
        y.underruns = x.underruns ∧ y.readFaults = min (x.readFaults + 1) 65535 ∧
        ∃ n, u.notice (trackSource t) = some n ∧ n.causes.getLsbD 7 = true) ∧
      ((∀ f q, x.ring = f :: q → f.path = .main → f.state ≠ .filled ∧ f.state ≠ .faulty) →
        y.underruns = min (x.underruns + 1) 65535 ∧ y.readFaults = x.readFaults ∧
        ∃ n, u.notice (trackSource t) = some n ∧ n.causes.getLsbD 6 = true) ∧
      (∀ f q, x.ring = f :: q → f.path = .main → (x.ring.map Slot.id).Nodup →
        ∃ kept made, y.ring = kept ++ made ∧ List.Forall₂ Slot.SameBut q kept) ∧
      (∀ f q, x.ring = f :: q → f.path = .main → f.id < s.slotSeq → (∀ z ∈ q, z.id ≠ f.id) →
        (∀ j, j ≠ t → ∀ z ∈ (s.track j).ring, z.id ≠ f.id) → ∀ b, ∀ g ∈ (u.bank b).fetch, g.slot ≠ f.id) ∧
      ((x.active.feeds.map Feed.port).Nodup →
        (∀ p, (o.feeds x p → (u.port p).feeds = (o.port p).feeds + 1 ∧ y.interps[p].isSome) ∧
          (¬ o.feeds x p → u.port p = o.port p ∧ y.interps[p] = none)) ∧
        y.short = (x.short || x.active.feeds.any fun f => (o.port f.port).state ≠ .off && o.feedShort x c f))

/-- BOUNDARY after an entry's last play, in PLAYING and in a FADE stop (R5, R6, R8, R9, R10, R13, R40, R41, R47, R69):
the copy behind the front copy, or the chosen path of a split, begins with its start actions; an IF whose two
successors are one entry has formed no split. A CALL has set the link, and a late branch has decided what follows its
trailing entry, which then begins; at that entry's end the decided successor begins. In a queue that follows its program
(`QueuesFollowTheirPrograms`) the copy behind is the entry these rules name: of the link for a RETURN, of the decision
behind a trailing entry. A BAD copy faults the track with no start action, no flag, no pulse and no CUE_NOTE; so does a
RETURN that finds no link, at the end of its trailing entry when it is late, with the RETURN's index. That the active
copy then stays as sweep and clamp left it, where no set waits, is the model's choice (log entry 35). The model's other
choices: log entries 5, 20, 21 and 26. -/
def Obligations.BoundaryBeginsTheSuccessor : Prop :=
  ∀ (s : State) (t : TrackId) (c : Copy) (r : List Copy),
    let x := s.track t
    let begins (e : Copy) (link : Option CueIndex) (decision : Decision) : Prop :=
      ∃ u, Acts (.boundary t) s u ∧ TrackWork t (openTick s) u ∧
        let y := u.track t
        y.state = x.state ∧ y.stop = x.stop ∧ y.stopFade = x.nextFade ∧ y.playNumber = 1 ∧ y.block = 0 ∧
        y.lastPlay = false ∧ y.link = link ∧ y.decision = decision ∧ y.home = x.home ∧
        (∃ f q, y.queue = f :: q ∧ f.index = e.index ∧ f.entry = e.entry ∧ f.length = e.length) ∧
        u.flags = (s.flagAction e.entry.action e.entry.actionFlag).flags ∧
        (∀ m, (u.marker m).remaining =
          if e.entry.markers.getLsbD m.1 ∧ (s.marker m).mode = .pulse then
            max ((openTick s).marker m).remaining (s.marker m).width
          else ((openTick s).marker m).remaining) ∧
        (e.entry.note = true → ∃ n, u.notice (trackSource t) = some n ∧ n.causes.getLsbD 10 = true)
    let faults (reason : FaultReason) (index : CueIndex) : Prop :=
      ∃ u, Acts (.boundary t) s u ∧ TrackWork t (openTick s) u ∧ u.flags = s.flags ∧
        let y := u.track t
        y.state = .faulted ∧ y.faultReason = reason ∧ y.faultIndex = index ∧ y.queue = [] ∧ y.ring = [] ∧
        y.walk.phase = .stopped ∧ y.active = (if x.stagedPending then x.staged else x.active) ∧
        y.stagedPending = false ∧ y.underruns = x.underruns ∧ y.readFaults = x.readFaults ∧
        (∀ m, (u.marker m).remaining = ((openTick s).marker m).remaining) ∧
        u.notice (trackSource t) = some (mergeCause u.timeline.count .fault (s.notice (trackSource t)))
    let leads (e : Copy) (link : Option CueIndex) (decision : Decision) : Prop :=
      (e.status = .good → begins e link decision) ∧ (e.status = .badClip → faults .badClip e.index) ∧
        (e.status = .badRange → faults .badRange e.index)
    let isIf := c.entry.next = .ifSet ∨ c.entry.next = .ifClear
    let holds := s.flagSet c.entry.testFlag = decide (c.entry.next = .ifSet)
    let target := c.entry.target.index c.index
    s.held = false → s.trackDone t = false → x.goesOn → x.queue = c :: r →
    c.length ≤ x.block + 1 → x.playRemains c = false →
    (∀ d q, r = d :: q → x.followsProgram → c.path = .main → d.path = .main →
      (c.trailing = true → x.decision = .go d.index ∧ d.trailing = false) ∧
      (c.trailing = false → c.entry.isLateBranch = true → d.index = c.index + 1 ∧ d.trailing = true) ∧
      (c.trailing = false → c.entry.isLateBranch = false → d.trailing = false ∧
        (c.entry.next = .next ∨ isIf → d.index = c.index + 1) ∧
        (c.entry.next = .goto ∨ c.entry.next = .call ∨ isIf → d.index = target) ∧
        (c.entry.next = .ret → x.link = some d.index))) ∧
    (∀ d e q, r = d :: e :: q → x.followsProgram → d.path = .taken → d.index = target ∧ e.index = c.index + 1) ∧
    (c.trailing = false →
      (∀ d q, r = d :: q → c.entry.late = false →
        (c.entry.next = .next ∨ c.entry.next = .goto ∨ (c.entry.next = .ret ∧ x.link.isSome) → leads d x.link x.decision) ∧
        (c.entry.next = .call → leads d (some (c.index + 1)) x.decision) ∧
        (isIf → d.path = .main → leads d x.link x.decision)) ∧
      (c.entry.late = false → c.entry.next = .ret → x.link = none → faults .noLink c.index) ∧
      (∀ d e q, r = d :: e :: q → c.entry.late = false → isIf → c.path = .main → d.path = .taken → e.path = .fall →
        leads (if holds then d else e) x.link x.decision) ∧
      ∀ d q, r = d :: q → c.entry.late = true →
        (c.entry.next = .next → leads d x.link x.decision) ∧
        (c.entry.next = .goto → leads d x.link (.go target)) ∧
        (c.entry.next = .call → leads d (some (c.index + 2)) (.go target)) ∧
        (c.entry.next = .ret → leads d x.link (match x.link with
          | some l => .go l
          | none => .noLink)) ∧
        (isIf → leads d x.link (.go (if holds then target else c.index + 2)))) ∧
    (c.trailing = true →
      (∀ d q, r = d :: q → x.decision ≠ .noLink → leads d x.link .none) ∧
      (x.decision = .noLink → faults .noLink (c.index - 1)))

/-- The flag unit and held tracks (R11, R17, R18, R35, R42, R44). Its judgement releases every non-consuming holder of
a set flag and the lowest consuming one, and clears the flags that had a consuming holder. FLAG_RELEASE begins index+1
for a released HOLD and the home entry for a released start, with their entry starts; a HOLD boundary that finds its
flag set begins index+1 at once, in BOUNDARY as in FLAG_RELEASE (R11). BREAK_RELEASE begins index+1 with the flags as
they are before its entry start. A BAD copy faults the track instead, with no start action (R36, R41). A hold whose
flag is clear begins at its boundary and waits on. That a fault clears the start condition and the break-pending mark
too is the model's choice (log entry 20). The model's other choices: log entries 5, 28 and 35. -/
def Obligations.HoldersAreReleased : Prop :=
  (∀ (s : State), s.work.flags = false →
    (∀ f, (judgeFlags s).flagSet f = (s.flagSet f && !(allTracks.any fun k => s.holderOf k = some (f, true)))) ∧
    ∀ k, (judgeFlags s).isReleased k = true ↔
      s.isReleased k = true ∨ ∃ f, s.flagSet f = true ∧ (s.holderOf k = some (f, false) ∨
        (s.holderOf k = some (f, true) ∧ ∀ j < k, s.holderOf j ≠ some (f, true)))) ∧
  ∀ (s : State) (t : TrackId) (c : Copy) (r : List Copy),
    let x := s.track t
    let first (f : FlagId) (consume : Bool) : Prop :=
      s.flagSet f = true ∧ (consume = true → ∀ j < t, s.holderOf j ≠ some (f, true))
    let begins (u : State) (d : Copy) : Prop :=
      let y := u.track t
      (d.status = .good → y.state = .playing ∧ y.playNumber = 1 ∧ y.block = 0 ∧ y.lastPlay = false ∧
        (∃ e p, y.queue = e :: p ∧ e.index = d.index ∧ e.entry = d.entry) ∧
        (∀ m, d.entry.markers.getLsbD m.1 = true → (s.marker m).mode = .pulse →
          (s.marker m).width ≤ (u.marker m).remaining) ∧
        (d.entry.note = true → ∃ n, u.notice (trackSource t) = some n ∧ n.causes.getLsbD 10 = true)) ∧
      (d.status ≠ .good → y.state = .faulted ∧ y.faultIndex = d.index ∧
        y.faultReason = (if d.status = .badClip then .badClip else .badRange) ∧ y.queue = [] ∧ y.ring = [] ∧
        u.notice (trackSource t) = some (mergeCause u.timeline.count .fault (s.notice (trackSource t))))
    s.held = false → s.trackDone t = false → x.queue = c :: r →
    (∀ d q, x.state = .holding → x.breakPending = false → x.stop ≠ .now → s.work.flags = false → r = d :: q →
      first c.entry.testFlag c.entry.consume → ∃ u, Acts .flagRelease s u ∧ begins u d) ∧
    (∀ d q, x.state = .playing → x.stop = .none → c.length ≤ x.block + 1 → x.playRemains c = false →
      c.trailing = false → c.entry.next = .hold → s.work.flags = false → r = d :: q →
      first c.entry.testFlag c.entry.consume →
      (∃ u, Acts .flagRelease s u ∧ begins u d) ∧ ∃ u, Acts (.boundary t) s u ∧ begins u d) ∧
    (∀ f consume, x.state = .starting → x.start = .flag f consume → s.work.flags = false → first f consume →
      ∃ u, Acts .flagRelease s u ∧ begins u c ∧ (u.track t).start = .none ∧
        (c.status = .good → ∃ n, u.notice (trackSource t) = some n ∧ n.causes.getLsbD 1 = true)) ∧
    (∀ d q, x.state = .holding → x.breakPending = true → x.stop ≠ .now → r = d :: q →
      ∃ u, Acts (.breakRelease t) s u ∧ TrackWork t (openTick s) u ∧ begins u d ∧ (u.track t).breakPending = false ∧
        u.flags = (if d.status = .good then (s.flagAction d.entry.action d.entry.actionFlag).flags else s.flags) ∧
        ∀ m, (u.marker m).remaining =
          if d.status = .good ∧ d.entry.markers.getLsbD m.1 ∧ (s.marker m).mode = .pulse then
            max ((openTick s).marker m).remaining (s.marker m).width
          else ((openTick s).marker m).remaining) ∧
    (x.state = .holding → x.breakPending = false → x.stop ≠ .now → x.nowMark = false →
      s.flagSet c.entry.testFlag = false → s.isReleased t = false →
      ∃ u, Acts .tickStart s u ∧ (u.track t).interps = Vector.replicate 4 none ∧
        x.SameBut { u.track t with interps := x.interps }) ∧
    (x.state = .playing → x.stop = .none → c.length ≤ x.block + 1 → x.playRemains c = false → c.trailing = false →
      c.entry.next = .hold → x.nowMark = false → s.flagSet c.entry.testFlag = false → s.isReleased t = false →
      ∃ u, Acts (.boundary t) s u ∧ (u.track t).interps = Vector.replicate 4 none ∧
        ({ x with state := .holding } : Track).SameBut { u.track t with interps := x.interps })

/-- TRACK_START and a start that waits (R33, R34, R36, R99): at its start tick a track with NEXT, TRIGGER or AT begins
its home copy with its entry start, accumulator from 0, and raises STARTED, whatever its interpolators held before; a
BAD home copy faults it with FAULT and without STARTED or a start action. A staged set that waits becomes active at
this entry start in mode EVERY, at an entry with apply and under NOW (R54), before the clamp. Before it, a tick start
whose count jumps over an AT time latches and raises LATE and makes the next tick start the start tick, and one that
leaves the time ahead changes nothing of the track but its interpolators. After the start tick the accumulator has
taken the tick's 4096 words already (the model's choice: log entry 18). The model's other choices: log entries 5, 21
and 25. -/
def Obligations.TracksStartAtTheirTick : Prop :=
  ∀ (s : State) (t : TrackId) (c : Copy) (r : List Copy),
    let x := s.track t
    let count := (timelineTick s).timeline.count
    let limit := freqLimit (c.entry.clip.map fun i => (s.clip i).decimation)
    let moved := x.stagedPending = true ∧ (x.nowMark = true ∨ x.active.mode = .every ∨ c.entry.apply = true)
    let p := if moved then x.staged else x.active
    let detune := clampDetune limit c.entry.freq p.detune
    let started (v : State) := ((v.notice (trackSource t)).map fun n => n.causes.getLsbD 1).getD false
    s.held = false → s.trackDone t = false → x.state = .starting → x.queue = c :: r →
    ((x.startDue = true ∧ (x.start = .next ∨ ∃ n, x.start = .trigger n)) ∨
        (∃ time, x.start = .atTime time ∧ (x.startDue = true ∨ time = count)) →
      (∀ held : Vector (Option Interp) 4,
        exec (.trackStart t) (s.setTrack t { x with interps := held }) = exec (.trackStart t) s) ∧
      (c.status = .good →
        ∃ u, Acts (.trackStart t) s u ∧ TrackWork t (openTick s) u ∧
          let y := u.track t
          y.state = .playing ∧ y.playNumber = 1 ∧ y.block = 0 ∧ y.lastPlay = false ∧ y.start = .none ∧ y.stopFade = 0 ∧
          y.link = x.link ∧ y.home = x.home ∧ y.nco = 4096 * ncoWord (c.entry.freq + detune) ∧
          y.active = { p with detune := clampDetune limit c.entry.freq (detune + p.sweep) } ∧ y.staged = x.staged ∧
          y.stagedPending = (x.stagedPending && !decide moved) ∧
          (∃ d q, y.queue = d :: q ∧ d.index = c.index ∧ d.entry = c.entry ∧ d.length = c.length) ∧
          u.flags = (s.flagAction c.entry.action c.entry.actionFlag).flags ∧ started u = true ∧
          (∀ m, (u.marker m).remaining =
            if c.entry.markers.getLsbD m.1 ∧ (s.marker m).mode = .pulse then
              max ((openTick s).marker m).remaining (s.marker m).width
            else ((openTick s).marker m).remaining) ∧
          (c.entry.note = true → ∃ n, u.notice (trackSource t) = some n ∧ n.causes.getLsbD 10 = true)) ∧
      (c.status ≠ .good →
        ∃ u, Acts (.trackStart t) s u ∧ TrackWork t (openTick s) u ∧ u.flags = s.flags ∧
          (u.track t).state = .faulted ∧ (u.track t).faultIndex = c.index ∧
          (u.track t).faultReason = (if c.status = .badClip then .badClip else .badRange) ∧
          (u.track t).queue = [] ∧ (u.track t).ring = [] ∧ started u = started s ∧
          (∀ m, (u.marker m).remaining = ((openTick s).marker m).remaining) ∧
          u.notice (trackSource t) = some (mergeCause u.timeline.count .fault (s.notice (trackSource t))))) ∧
    ∀ time, x.start = .atTime time → x.startDue = false → time ≠ count → x.nowMark = false →
      ∃ u, Acts .tickStart s u ∧ (u.track t).interps = Vector.replicate 4 none ∧
        if ahead time count then x.SameBut { u.track t with interps := x.interps }
        else
          ({ x with late := true, startDue := true } : Track).SameBut { u.track t with interps := x.interps } ∧
            ∃ n, u.notice (trackSource t) = some n ∧ n.causes.getLsbD 2 = true

/-- STOP_COMPLETION, STOP_FADE_END and the finish at an END boundary (R12, R45, R46, R47, R49): the track plays no
block and is back at home in PRIMING (or READY at once), position, marks, link, start and stop condition cleared, a
waiting staged set active, home, counts, latches and accumulator kept; STOPPED is raised for a stop and FINISHED for a
finish. Active and staged copy both stay where no set waits, the detunes differing where the sweep or the clamp has left
them so: the model's choice (log entry 35). The model's other choices: log entries 5 and 21. -/
def Obligations.StopsTakeTheTrackHome : Prop :=
  ∀ (s : State) (t : TrackId),
    let x := s.track t
    let home (u : State) (cause : Nat) : Prop :=
      TrackWork t (openTick s) u ∧ u.flags = s.flags ∧
        let y := u.track t
        (y.state = .priming ∨ y.state = .ready) ∧ (y.state = .ready ↔ u.primes t) ∧ y.playNumber = 1 ∧ y.block = 0 ∧ y.lastPlay = false ∧
        y.breakPending = false ∧ y.link = none ∧ y.start = .none ∧ y.stop = .none ∧ y.stopFade = 0 ∧ y.home = x.home ∧
        y.active = (if x.stagedPending then x.staged else x.active) ∧ y.staged = x.staged ∧ y.stagedPending = false ∧
        y.underruns = x.underruns ∧ y.readFaults = x.readFaults ∧ y.short = x.short ∧ y.edge = x.edge ∧
        y.late = x.late ∧ y.nco = x.nco ∧
        (∃ c r, y.queue = c :: r ∧ c.index = x.home ∧ c.entry = s.cueEntry x.home) ∧
        (∀ z ∈ y.ring, s.slotSeq ≤ z.id) ∧ ∃ n, u.notice (trackSource t) = some n ∧ n.causes.getLsbD cause = true
    s.held = false → s.trackDone t = false →
    (x.stop = .now → x.state = .playing ∨ x.state = .holding ∨ x.state = .stopping →
      ∃ u, Acts (.stopCompletion t) s u ∧ home u 4) ∧
    (∀ h, x.state = .stopping → x.stop = .fade h → h ≤ x.stopFade →
      ∃ u, Acts (.stopCompletion t) s u ∧ Acts (.stopFadeEnd t) s u ∧ home u 4) ∧
    (∀ c r, x.queue = c :: r → c.length ≤ x.block + 1 →
      (x.state = .stopping → x.stop = .atEnd → ∃ u, Acts (.stopCompletion t) s u ∧ Acts (.boundary t) s u ∧ home u 4) ∧
      (x.state = .stopping → x.stop ≠ .now → (∀ h, x.stop = .fade h → x.stopFade < h) → x.playRemains c = false →
        c.trailing = false → c.entry.next = .hold ∨ c.entry.next = .finish →
        ∃ u, Acts (.stopCompletion t) s u ∧ Acts (.boundary t) s u ∧ home u 4) ∧
      (x.state = .playing → x.stop = .none → x.playRemains c = false → c.trailing = false → c.entry.next = .finish →
        ∃ u, Acts (.boundary t) s u ∧ home u 3))

/-- TRANSFER and GATE_PHASE_CHANGE (R54, R55, R90). A transfer makes the whole staged copy active and clears the marks,
the gate restarting under the gate mark; without a waiting set nothing changes. Under the NOW mark it happens at the
coming tick start, within a play, in PLAYING as in STOPPING, before the block is computed, and in a track that waits to
start or holds too. At an
entry start it happens in mode EVERY, at an entry with apply, and under NOW; the new entry's clamp meets the detune that
is then active. A gate that reaches its length within a play changes phase with its counter at 0. The model's choices:
log entries 5, 18 and 21. -/
def Obligations.TransferAndGateAtATickStart : Prop :=
  (∀ x : Track,
    (x.stagedPending = false → x.transfer = x) ∧
    (x.stagedPending = true → x.transfer =
      { x with
        active := x.staged
        stagedPending := false
        nowMark := false
        gateMark := false
        gatePhase := if x.gateMark then .on else x.gatePhase
        gateCounter := if x.gateMark then 0 else x.gateCounter })) ∧
  ∀ (s : State) (t : TrackId) (c : Copy) (r : List Copy),
    let x := s.track t
    let limit := freqLimit (c.entry.clip.map fun i => (s.clip i).decimation)
    let clamp (d : Int) : Int := clampDetune limit c.entry.freq d
    s.held = false → s.trackDone t = false →
    (x.stagedPending = false → Acts (.transfer t) s s) ∧
    (x.goesOn ∨ (x.state = .stopping ∧ x.stop = .atEnd) → x.queue = c :: r → x.block + 1 < c.length →
      x.stagedPending = true → x.nowMark = true →
      ∃ u, Acts (.transfer t) s u ∧ TrackWork t (openTick s) u ∧ (u.track t).block = x.block + 1 ∧
        (u.track t).active = { x.staged with detune := clamp (clamp x.staged.detune + x.staged.sweep) } ∧
        (u.track t).staged = x.staged ∧ (u.track t).stagedPending = false ∧ (u.track t).nowMark = false ∧
        (u.track t).gateMark = false ∧
        (u.track t).nco = x.nco + 4096 * ncoWord (c.entry.freq + clamp x.staged.detune)) ∧
    (∀ n, x.state = .starting → x.start = .trigger n → x.startDue = false → x.stagedPending = true → x.nowMark = true →
      ∃ u, Acts (.transfer t) s u ∧
        u = ((openTick s).markTrack t).setTrack t { x.transfer with interps := Vector.replicate 4 none }) ∧
    (x.state = .holding → x.queue = c :: r → x.breakPending = false → x.stop ≠ .now → x.stagedPending = true →
      x.nowMark = true → s.flagSet c.entry.testFlag = false → s.isReleased t = false →
      ∃ u, Acts (.transfer t) s u ∧ (u.track t).interps = Vector.replicate 4 none ∧
        x.transfer.SameBut { u.track t with interps := x.transfer.interps }) ∧
    (∀ d q, x.goesOn → x.queue = c :: r → r = d :: q → c.length ≤ x.block + 1 →
      x.playRemains c = false → c.trailing = false → c.entry.next = .next → d.status = .good →
      let moved := x.stagedPending = true ∧ (x.nowMark = true ∨ x.active.mode = .every ∨ d.entry.apply = true)
      let p := if moved then x.staged else x.active
      let bound := freqLimit (d.entry.clip.map fun i => (s.clip i).decimation)
      let clamped := clampDetune bound d.entry.freq p.detune
      ∃ u, Acts (.boundary t) s u ∧ (u.track t).staged = x.staged ∧
        (u.track t).active = { p with detune := clampDetune bound d.entry.freq (clamped + p.sweep) } ∧
        (u.track t).nco = x.nco + 4096 * ncoWord (d.entry.freq + clamped) ∧
        (moved → (u.track t).stagedPending = false ∧ (u.track t).nowMark = false ∧ (u.track t).gateMark = false) ∧
        (¬ moved → (u.track t).stagedPending = x.stagedPending ∧ (u.track t).nowMark = x.nowMark ∧
          (u.track t).gateMark = x.gateMark)) ∧
    (x.goesOn ∨ (x.state = .stopping ∧ x.stop = .atEnd) → x.queue = c :: r → x.block + 1 < c.length →
      (x.nowMark = false ∨ x.stagedPending = false) → x.active.gateOn ≠ 0 → x.active.gateOff ≠ 0 →
      (if x.gatePhase = .on then x.active.gateOn else x.active.gateOff) ≤ x.gateCounter + 1 →
      ∃ u, Acts (.gatePhaseChange t) s u ∧ TrackWork t (openTick s) u ∧ (u.track t).block = x.block + 1 ∧
        (u.track t).gatePhase = (if x.gatePhase = .on then .off else .on) ∧ (u.track t).gateCounter = 0)

/-! ### The scene store and bank service (chapters 06 and 07) -/

/-- CLIP_OPEN (R121, R122): a field outside its range is answered RANGE, then a scanning store STATE, a clip that is
not EMPTY IN_USE, and a bank without a run of that many FREE sectors NO_SPACE. Otherwise the lowest such run becomes
ALLOCATED, the record is OPEN with the values carried and nothing written, and the answer carries the run's first
sector. -/
def Obligations.ClipOpenTakesTheLowestRun : Prop :=
  ∀ (s : State) (tag i0 i1 b d n0 n1 r0 r1 size : Byte) (label : List Byte),
    let payload := [i0, i1, b, d, n0, n1, r0, r1, size] ++ label
    let n := (n1 ++ n0).toNat
    let c : Instr := .clipOpen tag payload
    label.length = 24 → s.serves { tag := tag, code := 0x50, payload := payload } →
    if h : (i1 ++ i0).toNat < 1024 ∧ b.toNat < 4 ∧ d.toNat ∈ [1, 2, 4, 8, 16, 32, 64, 128] ∧ 1 ≤ n ∧ n ≤ 8192 ∧
        -120 ≤ (r1 ++ r0).toInt ∧ (r1 ++ r0).toInt ≤ 0 ∧ size.toNat ≤ 24 ∧
        (∀ x ∈ label.take size.toNat, 0x20 ≤ x.toNat ∧ x.toNat ≤ 0x7E) ∧ (∀ x ∈ label.drop size.toNat, x = 0) then
      let id : ClipId := ⟨(i1 ++ i0).toNat, h.1⟩
      let bank : BankId := ⟨b.toNat, h.2.1⟩
      let free (k : Nat) : Prop := k + n ≤ 8192 ∧ ∀ i < n, s.sector bank (k + i) = .free
      (s.store.scanning = true → Refuses c s tag .state) ∧
      (s.store.scanning = false → (s.clip id).state ≠ .empty → Refuses c s tag .inUse) ∧
      (s.store.scanning = false → (s.clip id).state = .empty →
        ((∀ k, ¬ free k) → Refuses c s tag .noSpace) ∧
        ∀ k, free k → (∀ j < k, ¬ free j) →
          ∃ u : State, Completes c s tag [BitVec.ofNat 8 k, BitVec.ofNat 8 (k / 256)] u ∧
            u.clip id =
              { state := .opened
                bank := bank
                first := k
                sectors := n
                decimation := d.toNat
                ref := (r1 ++ r0).toInt
                label := label.take size.toNat
                blocks := 0
                nextPage := 0
                ended := false } ∧
            (∀ j, j ≠ id → u.clip j = s.clip j) ∧
            (∀ (q : BankId) (m : Nat), m < 8192 →
              u.sector q m = if q = bank ∧ k ≤ m ∧ m < k + n then .allocated else s.sector q m) ∧
            { u with store := { u.store with clips := s.store.clips, sectors := s.store.sectors } } = s)
    else Refuses c s tag .range

/-- CLIP_DATA (R120, R123, R124): the checks in the order of R123. A page taken joins the back of the bank's program
queue, next page grows, a page of fewer than D blocks ends the clip, the answer carries next page and blocks written,
and a free bank starts the program of its front page at once. -/
def Obligations.ClipDataJoinsTheProgramQueue : Prop :=
  ∀ (s : State) (tag i0 i1 q0 q1 q2 q3 : Byte) (data : List Byte),
    let payload := [i0, i1, q0, q1, q2, q3] ++ data
    let c : Instr := .clipData tag payload
    s.serves { tag := tag, code := 0x51, payload := payload } →
    if h : (i1 ++ i0).toNat < 1024 then
      let id : ClipId := ⟨(i1 ++ i0).toNat, h⟩
      let r := s.clip id
      let k := s.bank r.bank
      let block := 16384 / r.decimation
      if s.store.scanning then Refuses c s tag .state
      else if r.state ≠ .opened then Refuses c s tag .state
      else if r.ended ∨ (q3 ++ q2 ++ q1 ++ q0).toNat ≠ r.nextPage then Refuses c s tag .order
      else if r.nextPage = r.sectors * 256 then Refuses c s tag .noSpace
      else if data.length = 0 ∨ data.length % block ≠ 0 ∨ r.decimation < data.length / block then Refuses c s tag .length
      else if 2 ≤ k.programQueue.length then Refuses c s tag .busy
      else
        ∃ u,
          Completes c s tag
            [BitVec.ofNat 8 (r.nextPage + 1), BitVec.ofNat 8 ((r.nextPage + 1) / 256),
              BitVec.ofNat 8 ((r.nextPage + 1) / 65536), BitVec.ofNat 8 ((r.nextPage + 1) / 16777216),
              BitVec.ofNat 8 r.blocks, BitVec.ofNat 8 (r.blocks / 256), BitVec.ofNat 8 (r.blocks / 65536),
              BitVec.ofNat 8 (r.blocks / 16777216)] u ∧
          BankWork
            ((s.setClip id
              { r with
                nextPage := r.nextPage + 1
                ended := r.ended || decide (data.length / block < r.decimation) }).setBank r.bank
              { k with programQueue := k.programQueue ++ [{ clip := id, index := r.nextPage, data := data }] }) u ∧
          (k.op = none → k.inFlight = none → k.fetch = [] → k.programQueue = [] →
            (u.bank r.bank).op =
              some { kind := .program id r.nextPage, sub := .running, count := 0, cap := false })
    else Refuses c s tag .range

/-- CLIP_CLOSE and CLIP_DROP (R126, R127, R77): the checks in their order. A close makes an OPEN clip with blocks and
no page in queue READY and answers its blocks. A drop, of a clip that no copy and no slot of any track uses and that
has no page in queue, makes the ALLOCATED sectors of its run DIRTY and the record EMPTY and answers how many; the
banks go on from there. -/
def Obligations.ClipCloseAndDrop : Prop :=
  ∀ (s : State) (tag i0 i1 : Byte),
    (s.serves { tag := tag, code := 0x52, payload := [i0, i1] } →
      if h : (i1 ++ i0).toNat < 1024 then
        let id : ClipId := ⟨(i1 ++ i0).toNat, h⟩
        let r := s.clip id
        if s.store.scanning then Refuses (.clipClose tag [i0, i1]) s tag .state
        else if r.state ≠ .opened then Refuses (.clipClose tag [i0, i1]) s tag .state
        else if ∃ p ∈ (s.bank r.bank).programQueue, p.clip = id then Refuses (.clipClose tag [i0, i1]) s tag .busy
        else if r.blocks = 0 then Refuses (.clipClose tag [i0, i1]) s tag .state
        else
          Completes (.clipClose tag [i0, i1]) s tag
            [BitVec.ofNat 8 r.blocks, BitVec.ofNat 8 (r.blocks / 256), BitVec.ofNat 8 (r.blocks / 65536),
              BitVec.ofNat 8 (r.blocks / 16777216)] (s.setClip id { r with state := .ready })
      else Refuses (.clipClose tag [i0, i1]) s tag .range) ∧
    (s.serves { tag := tag, code := 0x53, payload := [i0, i1] } →
      if h : (i1 ++ i0).toNat < 1024 then
        let id : ClipId := ⟨(i1 ++ i0).toNat, h⟩
        let r := s.clip id
        let used := ∃ t, (∃ x ∈ (s.track t).ring, x.clip = some id) ∨
          ∃ q ∈ (s.track t).queue, q.status = .good ∧ q.entry.clip = some id
        let queued := ∃ p ∈ (s.bank r.bank).programQueue, p.clip = id
        let count := (List.range r.sectors).countP fun i => s.sector r.bank (r.first + i) = .allocated
        (s.store.scanning = true → Refuses (.clipDrop tag [i0, i1]) s tag .state) ∧
        (s.store.scanning = false → r.state = .empty → Refuses (.clipDrop tag [i0, i1]) s tag .notFound) ∧
        (s.store.scanning = false → r.state ≠ .empty → used → Refuses (.clipDrop tag [i0, i1]) s tag .inUse) ∧
        (s.store.scanning = false → r.state ≠ .empty → ¬ used → queued → Refuses (.clipDrop tag [i0, i1]) s tag .busy) ∧
        (s.store.scanning = false → r.state ≠ .empty → ¬ used → ¬ queued → r.first + r.sectors ≤ 8192 →
          tableWf SectorState.free s.store.sectors = true →
          ∃ v u : State,
            Completes (.clipDrop tag [i0, i1]) s tag [BitVec.ofNat 8 count, BitVec.ofNat 8 (count / 256)] u ∧
            BankWork v u ∧ v.settles u r.bank ∧
            (∀ j, v.clip j = if j = id then ClipRecord.empty else s.clip j) ∧
            (∀ (q : BankId) (m : Nat), m < 8192 → v.sector q m =
              if q = r.bank ∧ r.first ≤ m ∧ m < r.first + r.sectors ∧ s.sector q m = .allocated then .dirty
              else s.sector q m) ∧
            { v with store := { v.store with clips := s.store.clips, sectors := s.store.sectors } } = s)
      else Refuses (.clipDrop tag [i0, i1]) s tag .range)

/-- STORE_SWEEP (R129), STORE_HALT (R131) and STORE_POLICY (R145, R149): a field outside its range is answered RANGE,
then a scanning store STATE. A sweep answers the number of DIRTY and UNSETTLED sectors, and ends at once with
SWEEP_DONE when there is nothing to erase. A halt ends the operation, its clip DAMAGED with its pages discarded or its
sector UNSETTLED, clears the sweep mark, sets the erase hold and raises HALTED. A policy takes its two values and
clears the erase hold; under ALLOW a waiting request suspends a RUNNING operation below the cap of 16 suspensions, and
at the cap raises SUSPEND_CAP once (R148). After each the bank goes on: without an operation and a read it reads what
waits, or starts the program of its front page, or where it may erase the erase of its lowest DIRTY or UNSETTLED
sector (R120, R128, R140). That the flash bytes of a halted page stay is the model's choice (log entry 30). -/
def Obligations.BankRequestsActOnTheirBank : Prop :=
  ∀ (s : State) (tag b : Byte),
    (4 ≤ b.toNat →
      (s.serves { tag := tag, code := 0x56, payload := [b] } → Refuses (.storeSweep tag [b]) s tag .range) ∧
      (s.serves { tag := tag, code := 0x57, payload := [b] } → Refuses (.storeHalt tag [b]) s tag .range)) ∧
    (∀ p a : Byte, 4 ≤ b.toNat ∨ 2 ≤ p.toNat ∨ 2 ≤ a.toNat →
      s.serves { tag := tag, code := 0x58, payload := [b, p, a] } → Refuses (.storePolicy tag [b, p, a]) s tag .range) ∧
    ∀ q : BankId, b.toNat = q.1 →
      let k := s.bank q
      let left := (List.range 8192).countP fun m => s.sector q m = .dirty || s.sector q m = .unsettled
      let halted : Bank := { k with op := none, sweep := false, eraseHold := true }
      (s.serves { tag := tag, code := 0x56, payload := [b] } →
        (s.store.scanning = true → Refuses (.storeSweep tag [b]) s tag .state) ∧
        (s.store.scanning = false → tableWf SectorState.free s.store.sectors = true →
          ∃ u, Completes (.storeSweep tag [b]) s tag [BitVec.ofNat 8 left, BitVec.ofNat 8 (left / 256)] u ∧
            (k.sweep = true → u = s) ∧
            (k.sweep = false → left = 0 → (∀ op m, k.op = some op → op.kind ≠ .erase m) →
              u = (s.setBank q { k with eraseHold := false }).raise (bankSource q) .sweepDone) ∧
            (k.sweep = false → (left ≠ 0 ∨ ∃ op m, k.op = some op ∧ op.kind = .erase m) →
              BankWork (s.setBank q { k with sweep := true, eraseHold := false }) u ∧
                (s.setBank q { k with sweep := true, eraseHold := false }).settles u q ∧
                (k.op = none → k.inFlight = none → k.fetch = [] → k.programQueue = [] → left ≠ 0 →
                  ∃ m, m < 8192 ∧ (s.sector q m = .dirty ∨ s.sector q m = .unsettled) ∧
                    (∀ j < m, s.sector q j ≠ .dirty ∧ s.sector q j ≠ .unsettled) ∧
                    (u.bank q).op = some { kind := .erase m, sub := .running, count := 0, cap := false } ∧
                    u.sector q m = .erasing)))) ∧
      (s.serves { tag := tag, code := 0x57, payload := [b] } →
        (s.store.scanning = true → Refuses (.storeHalt tag [b]) s tag .state) ∧
        (s.store.scanning = false →
          ∃ v u, Completes (.storeHalt tag [b]) s tag [] u ∧ BankWork (v.raise (bankSource q) .halted) u ∧
            v.settles u q ∧ u.notice (bankSource q) = some (mergeCause s.timeline.count .halted (s.notice (bankSource q))) ∧
            (∀ o, (u.bank q).op = some o → ∃ p r, (u.bank q).programQueue = p :: r ∧
              o = { kind := .program p.clip p.index, sub := .running, count := 0, cap := false }) ∧
            (k.op = none → v = s.setBank q halted) ∧
            (∀ op c m, k.op = some op → op.kind = .program c m →
              v = (s.setClip c { s.clip c with state := .damaged }).setBank q
                { halted with programQueue := k.programQueue.filter fun p => p.clip ≠ c }) ∧
            ∀ op m, k.op = some op → op.kind = .erase m → v = (s.setSector q m .unsettled).setBank q halted)) ∧
      ∀ p a : Byte, p.toNat < 2 → a.toNat < 2 → s.serves { tag := tag, code := 0x58, payload := [b, p, a] } →
        (s.store.scanning = true → Refuses (.storePolicy tag [b, p, a]) s tag .state) ∧
        (s.store.scanning = false →
          ∃ u, Completes (.storePolicy tag [b, p, a]) s tag [] u ∧
            let v := s.setBank q
              { k with
                policy := if p = 0 then .allow else .defer
                autoSweep := decide (a = 1)
                eraseHold := false }
            BankWork v u ∧ (k.mayRead → v.settles u q) ∧
            ∀ op, k.op = some op → op.sub = .running → k.fetch ≠ [] →
              (p = 0 → op.count < 16 → (u.bank q).op = some { op with sub := .suspending }) ∧
              (p = 0 → 16 ≤ op.count → (u.bank q).op = some { op with cap := true } ∧
                u.notice (bankSource q) =
                  if op.cap then s.notice (bankSource q)
                  else some (mergeCause s.timeline.count .suspendCap (s.notice (bankSource q)))) ∧
              (p = 1 → (u.bank q).op = some op ∧ u.notice (bankSource q) = s.notice (bankSource q)))

/-- R71 to R73: a MAIN slot of a track that plays, or that starts with NEXT or AT, and that stands before any HOLD
that waits has a deadline: slot k, counted from 0, k ticks after the track's next tick start, or after the AT time
that is ahead; every other slot is UNSCHEDULED. R61, R141: a request is more urgent by its distance ahead of the
count, known before UNSCHEDULED, then by its track, then by its place in the ring; a bank reads, and offers a freed
place to, the most urgent; the request read leaves the fetch queue and its slot becomes READING (R142). A place freed
by the losing path of a split is offered before the chosen slots' deadlines are known (R70). The model's choices: log
entries 25 and 29. -/
def Obligations.DeadlinesOrderTheReads : Prop :=
  (∀ (s : State) (t : TrackId) (k : Nat) (y : Slot),
    let x := s.track t
    let next := if s.work.timeline = true ∧ s.trackDone t = false then s.timeline.count else s.timeline.count + 1
    x.ring[k]? = some y →
    (y.path ≠ .main ∨ y.gated = true → s.deadline t k = none) ∧
    (x.state = .idle ∨ x.state = .priming ∨ x.state = .ready ∨ x.state = .holding ∨ x.state = .faulted →
      s.deadline t k = none) ∧
    (x.state = .starting → x.start = .none ∨ (∃ n, x.start = .trigger n) ∨ (∃ f b, x.start = .flag f b) →
      s.deadline t k = none) ∧
    (y.path = .main → y.gated = false →
      (x.state = .playing ∨ x.state = .stopping ∨ (x.state = .starting ∧ x.start = .next) →
        s.deadline t k = some (next + BitVec.ofNat 32 k)) ∧
      ∀ time, x.state = .starting → x.start = .atTime time →
        (x.startDue = true → s.deadline t k = some (next + BitVec.ofNat 32 k)) ∧
        (x.startDue = false → ahead time s.timeline.count = true ∨ time = next →
          s.deadline t k = some (time + BitVec.ofNat 32 k)) ∧
        (x.startDue = false → ahead time s.timeline.count = false → time ≠ next →
          s.deadline t k = some (s.timeline.count + 1 + BitVec.ofNat 32 k)))) ∧
  (∀ (s : State) (q r : FetchRequest) (i j : Nat),
    (s.track q.track).slotPlace q.slot = some i → (s.track r.track).slotPlace r.slot = some j → i < 8 → j < 8 →
    let known := s.deadline q.track i
    let other := s.deadline r.track j
    (∀ d e, known = some d → other = some e → (d - s.timeline.count).toNat < (e - s.timeline.count).toNat →
      s.urgency q < s.urgency r) ∧
    (known.isSome → other = none → s.urgency q < s.urgency r) ∧
    (known = other → q.track < r.track ∨ (q.track = r.track ∧ i < j) → s.urgency q < s.urgency r)) ∧
  (∀ (s : State) (b : BankId), (s.bank b).fetch ≠ [] →
    ∃ r ∈ (s.bank b).fetch, (∀ f ∈ (s.bank b).fetch, s.urgency r ≤ s.urgency f) ∧
      BankWork (s.setBank b { s.bank b with inFlight := some r }) (startRead b s) ∧ ((startRead b s).bank b).inFlight = some r ∧
      (∃ joined, ((startRead b s).bank b).fetch = (s.bank b).fetch.erase r ++ joined) ∧
      (((s.track r.track).ring.map Slot.id).Nodup → ∀ y ∈ (s.track r.track).ring, y.id = r.slot →
        { y with state := .reading } ∈ ((startRead b s).track r.track).ring)) ∧
  (∀ (s : State) (b : BankId) (n : Nat), (s.bank b).fetch.length < 64 → s.wanting b ≠ [] →
    ∃ r ∈ s.wanting b, (∀ f ∈ s.wanting b, s.urgency r ≤ s.urgency f) ∧
      offerPlaces b (n + 1) s = offerPlaces b n (joinFetch b r s)) ∧
  ∀ (s : State) (t : TrackId) (chosen : PathTag), chosen ≠ .main →
    let x := s.track t
    let lost (p : PathTag) : Prop := p ≠ chosen ∧ p ≠ .main
    ∃ v, LookaheadWork t s v ∧ (∀ c ∈ (v.track t).queue, ¬ lost c.path) ∧ (∀ y ∈ (v.track t).ring, ¬ lost y.path) ∧
      ((x.ring.map Slot.id).Nodup →
        List.Forall₂ Slot.SameBut (x.ring.filter fun y => y.path = chosen || y.path = .main) (v.track t).ring) ∧
      resolveSplit t chosen s = v.setTrack t
        { v.track t with
          queue := (v.track t).queue.map fun c => { c with path := .main }
          ring := (v.track t).ring.map fun y => { y with path := .main }
          walk := { (v.track t).walk with phase := .slots ((v.track t).ring.countP fun y => y.path = chosen) } }

/-- BLOCK_READ_COMPLETION and SUSPEND_COMPLETION (R62, R143 to R148). The slot of the read in flight is FILLED with
its block, or FAULTY, and one that has left the ring takes nothing. The read has ended, and the bank goes on: it reads
the most urgent request that waits, resumes a SUSPENDED operation with none waiting, or is free and starts the operation
that R120 allows (R143). A track not yet primed is primed
when four of its slots are FILLED, or its walk is at rest with every slot FILLED or FAULTY, and one in PRIMING is then
READY with PRIMED (R30). A SUSPENDING operation is SUSPENDED with its count raised and the bank reads, or it resumes
at once when nothing waits. A request that joins a fetch queue makes its slot QUEUED; under ALLOW it makes a RUNNING
operation below the cap SUSPENDING, and at the cap raises SUSPEND_CAP once. The model's choice: log entry 10. -/
def Obligations.ReadsAndSuspendsComplete : Prop :=
  ∀ (s : State) (b : BankId), s.held = false →
    let k := s.bank b
    (∀ correct, k.inFlight = none → Acts (.blockReadCompletion b correct) s s) ∧
    (∀ correct r, k.inFlight = some r →
      ∃ u, Acts (.blockReadCompletion b correct) s u ∧
        LookaheadWork r.track (s.setBank b { k with inFlight := none }) u ∧
        (s.setBank b { k with inFlight := none }).settles u b ∧
        ((s.track r.track).primed = false → (s.track r.track).state = .priming ∨ (s.track r.track).state = .starting →
          ((s.track r.track).ring.map Slot.id).Nodup →
          (∀ f ∈ k.fetch, f.track = r.track → f.slot ≠ r.slot ∧
            ∀ y ∈ (s.track r.track).ring, y.id = f.slot → y.state = .queued) →
          ((u.track r.track).primed = true ↔ u.primes r.track) ∧
            ((s.track r.track).state = .priming → ((u.track r.track).state = .ready ↔ u.primes r.track))) ∧
        ((∀ y ∈ (s.track r.track).ring, y.id ≠ r.slot) → (s.track r.track).SameBut
          { u.track r.track with
            state := (s.track r.track).state
            primed := (s.track r.track).primed }) ∧
        (((s.track r.track).ring.map Slot.id).Nodup → (∀ f ∈ k.fetch, f.track = r.track → f.slot ≠ r.slot) →
          ∀ y ∈ (s.track r.track).ring, y.id = r.slot →
            (if correct then { y with state := .filled, data := s.blockData r.clip r.block }
              else { y with state := .faulty }) ∈ (u.track r.track).ring)) ∧
    (∀ r : FetchRequest,
      let u := joinFetch b r s
      BankWork s u ∧ (u.bank b).fetch = k.fetch ++ [r] ∧ (∀ d, d ≠ b → u.bank d = s.bank d) ∧
      (∀ y ∈ (s.track r.track).ring, y.id = r.slot → { y with state := .queued } ∈ (u.track r.track).ring) ∧
      (k.op = none → (u.bank b).op = none) ∧
      ∀ op, k.op = some op →
        let blocked := op.sub = .running ∧ k.policy = .allow ∧ 16 ≤ op.count
        (u.bank b).op = some
          (if op.sub = .running ∧ k.policy = .allow ∧ op.count < 16 then { op with sub := .suspending }
          else if blocked then { op with cap := true } else op) ∧
        u.notice (bankSource b) =
          if blocked ∧ op.cap = false then some (mergeCause s.timeline.count .suspendCap (s.notice (bankSource b)))
          else s.notice (bankSource b)) ∧
    ((∀ op, k.op = some op → op.sub ≠ .suspending) → Acts (.suspendCompletion b) s s) ∧
    ∀ op, k.op = some op → op.sub = .suspending →
      let v := s.setBank b { k with op := some { op with sub := .suspended, count := op.count + 1 } }
      ∃ u, Acts (.suspendCompletion b) s u ∧ BankWork v u ∧ v.settles u b ∧
        (k.inFlight = none → s.store.scanning = false → k.fetch = [] →
          (u.bank b).op = some { op with sub := .running, count := op.count + 1 })

/-- PROGRAM_COMPLETION, ERASE_COMPLETION and SCAN_COMPLETION (R116, R120, R125, R128, R129, R132, R133, R137, R144). A
programmed page stands in flash, its blocks count and it leaves the queue; a failed one retires its sector and damages
its clip, with PROGRAM_FAIL. An erased sector is FREE and its flash erased, or RETIRED with ERASE_FAIL, and a sweep
that has nothing left ends with SWEEP_DONE. The scan leaves no clip OPEN and no sector ERASING and raises SCAN_DONE at
every bank. The operation has ended, and the bank goes on: it reads what waits, or free starts the program of its
front page, or with no page waiting and where it may erase the erase of its lowest DIRTY or UNSETTLED sector. The
model's choices: log entries 8, 10 and 30. -/
def Obligations.StoreOperationsComplete : Prop :=
  (∀ (s : State) (b : BankId) (op : Operation), s.held = false →
    let k := s.bank b
    let ended (u : State) (queue : List Page) : Prop :=
      (∀ o, (u.bank b).op = some o → o.sub ≠ .suspended ∧ o.count = 0 ∧
        ∀ x y, o.kind = .program x y → ∃ p r, queue = p :: r ∧ p.clip = x ∧ p.index = y) ∧
      (k.inFlight = none → s.store.scanning = false → k.fetch = [] → ∀ p r, queue = p :: r →
        (u.bank b).op = some { kind := .program p.clip p.index, sub := .running, count := 0, cap := false })
    k.op = some op →
    (op.sub = .suspended → ∀ good, Acts (.programCompletion b good) s s ∧ Acts (.eraseCompletion b good) s s) ∧
    (∀ c q p rest, op.sub ≠ .suspended → op.kind = .program c q → k.programQueue = p :: rest → p.clip = c → p.index = q →
      let r := s.clip c
      (∃ u, Acts (.programCompletion b true) s u ∧
        let v := { s with store := { s.store with flash := Memory.writeAll s.store.flash (r.pageAddress q) p.data } }.setClip
          c { r with blocks := r.blocks + p.data.length / (16384 / r.decimation) } |>.setBank b
          { k with op := none, programQueue := rest }
        BankWork v u ∧ v.settles u b ∧ ended u rest ∧ u.notice (bankSource b) = s.notice (bankSource b)) ∧
      ∃ u, Acts (.programCompletion b false) s u ∧
        let left := k.programQueue.filter fun x => x.clip ≠ c
        let v := ((s.setSector b (r.first + q / 256) .retired).setClip c { r with state := .damaged }).setBank b
          { k with op := none, programQueue := left }
        BankWork (v.raise (bankSource b) .programFail) u ∧ v.settles u b ∧ ended u left ∧
          u.notice (bankSource b) = some (mergeCause s.timeline.count .programFail (s.notice (bankSource b)))) ∧
    ∀ n good, op.sub ≠ .suspended → op.kind = .erase n →
      ∃ v u, Acts (.eraseCompletion b good) s u ∧ BankWork v u ∧ v.settles u b ∧ ended u k.programQueue ∧
        let cleared : State := s.setSector b n (if good then .free else .retired)
        let failed : State := if good then s else s.raise (bankSource b) .eraseFail
        let done := k.sweep = true ∧ cleared.erasable b = []
        (tableWf SectorState.free s.store.sectors = true →
          (done ↔ k.sweep = true ∧ ∀ m < 8192, cleared.sector b m ≠ .dirty ∧ cleared.sector b m ≠ .unsettled)) ∧
        u.notice (bankSource b) = v.notice (bankSource b) ∧
        v.store.sectors = cleared.store.sectors ∧
        (∀ a, Memory.read v.store.flash a =
          if good = true ∧ flashAddress b n 0 0 ≤ a ∧ a < flashAddress b (n + 1) 0 0 then erasedByte
          else Memory.read s.store.flash a) ∧
        v.bank b = { k with op := none, sweep := k.sweep && !decide done } ∧ (∀ d, d ≠ b → v.bank d = s.bank d) ∧
        v.notices = (if done then (failed.raise (bankSource b) .sweepDone).notices else failed.notices) ∧
        { v with
          store := { v.store with sectors := s.store.sectors, flash := s.store.flash }
          banks := s.banks
          notices := s.notices } = s) ∧
  ∀ s : State, s.held = false →
    (s.store.scanning = false → Acts .scanCompletion s s) ∧
    (s.store.scanning = true →
      ∃ v u, Acts .scanCompletion s u ∧ BankWork v u ∧ (∀ b, v.settles u b) ∧ v.store.scanning = false ∧
        (∀ b, u.notice (bankSource b) = some (mergeCause s.timeline.count .scanDone (s.notice (bankSource b)))) ∧
        (∀ c, v.clip c = if (s.clip c).state = .opened then { s.clip c with state := .damaged } else s.clip c) ∧
        (∀ b n, v.sector b n = if s.sector b n = .erasing then .unsettled else s.sector b n) ∧
        v.store.flash = s.store.flash ∧
        (∀ b, v.notice (bankSource b) = some (mergeCause s.timeline.count .scanDone (s.notice (bankSource b)))) ∧
        (∀ n : SourceId, n.1 < 2 ∨ 6 ≤ n.1 → v.notice n = s.notice n) ∧
        { v with store := s.store, notices := { v.notices with records := s.notices.records } } = s)

/-- R115: a page of 1 to D blocks, programmed at its place, is read back block by block, block k of a clip from page k
div D at offset (k mod D) × (16384 / D), and no block of another page changes; two pages of runs within their banks
that differ in bank, sector or page position lie apart. -/
def Obligations.ProgrammedPagesReadBackAsBlocks : Prop :=
  (∀ (m : List Host.Cell) (r : ClipRecord) (q n : Nat) (data : List Byte),
    r.decimation ∈ [1, 2, 4, 8, 16, 32, 64, 128] → n ≤ r.decimation → data.length = n * (16384 / r.decimation) →
    (∀ i < n,
      Memory.readAll (Memory.writeAll m (r.pageAddress q) data) (r.blockAddress (q * r.decimation + i))
          (16384 / r.decimation) =
        (data.drop (i * (16384 / r.decimation))).take (16384 / r.decimation)) ∧
    ∀ (x : ClipRecord) (k : Nat), x.decimation ∈ [1, 2, 4, 8, 16, 32, 64, 128] →
      x.pageAddress (k / x.decimation) ≠ r.pageAddress q →
      Memory.readAll (Memory.writeAll m (r.pageAddress q) data) (x.blockAddress k) (16384 / x.decimation) =
        Memory.readAll m (x.blockAddress k) (16384 / x.decimation)) ∧
  ∀ (r x : ClipRecord) (q p : Nat), r.first + q / 256 < 8192 → x.first + p / 256 < 8192 →
    (r.pageAddress q = x.pageAddress p ↔ r.bank = x.bank ∧ r.first + q / 256 = x.first + p / 256 ∧ q % 256 = p % 256)

/-! ### Trigger and marker lines (chapter 09) -/

/-- LINE_SET and CAPTURE_READ (R174, R178, R179, R180): a field outside its range is answered RANGE. A trigger line
takes its settings with no holdoff left and its level kept; a marker line takes its settings and keeps a running pulse
only from PULSE to PULSE. A capture read takes the oldest records, clears the overrun and reports levels and active
marker lines. That a high trigger level is sent as 1, or as a bit set, is the model's choice (log entry 38). -/
def Obligations.LineRequests : Prop :=
  ∀ s : State,
    (∀ tag kind n mode a b c : Byte, s.serves { tag := tag, code := 0x60, payload := [kind, n, mode, a, b, c] } →
      let request : Instr := .lineSet tag [kind, n, mode, a, b, c]
      if h : n.toNat < 4 ∧ ((kind = 0 ∧ mode.toNat < 4 ∧ b.toNat < 2 ∧ c.toNat < 16) ∨
          (kind = 1 ∧ mode.toNat < 3 ∧ a.toNat < 16 ∧ b.toNat < 2 ∧ c ≠ 0)) then
        let line : LineId := ⟨n.toNat, h.1⟩
        if kind = 0 then
          Completes request s tag [if (s.trigger line).level then 1 else 0, 0]
            (s.setTrigger line
              { mode := if mode = 0 then .off else if mode = 1 then .rise else if mode = 2 then .fall else .both
                holdoff := a.toNat
                setsFlag := b = 1
                flag := c.setWidth 4
                remaining := 0
                level := (s.trigger line).level })
        else
          let remaining := if mode = 1 ∧ (s.marker line).mode = .pulse then (s.marker line).remaining else 0
          let active := (mode = 1 ∧ 0 < remaining) ∨ (mode = 2 ∧ s.flagSet (a.setWidth 4) = true)
          Completes request s tag [if active then 1 else 0, BitVec.ofNat 8 remaining]
            (s.setMarker line
              { mode := if mode = 0 then .off else if mode = 1 then .pulse else .follow
                flag := a.setWidth 4
                polarity := if b = 0 then .activeHigh else .activeLow
                width := c.toNat
                remaining := remaining })
      else Refuses request s tag .range) ∧
    ∀ tag n : Byte, s.serves { tag := tag, code := 0x61, payload := [n] } →
      if n.toNat ≤ 16 then
        ∃ levels active : Byte,
          (∀ i : LineId, levels.getLsbD i.1 = (s.trigger i).level ∧ active.getLsbD i.1 = s.markerActive i) ∧
          levels.toNat < 16 ∧ active.toNat < 16 ∧
          Completes (.captureRead tag [n]) s tag
            ([BitVec.ofNat 8 (s.lines.captures.take n.toNat).length,
                BitVec.ofNat 8 (s.lines.captures.drop n.toNat).length, if s.lines.overrun then 1 else 0, levels,
                active] ++
              (s.lines.captures.take n.toNat).flatMap fun c =>
                [BitVec.ofNat 8 c.line.1, if c.rising then 0 else 1, c.offset.extractLsb' 0 8,
                  (c.offset.extractLsb' 8 4).setWidth 8, c.count.extractLsb' 0 8, c.count.extractLsb' 8 8,
                  c.count.extractLsb' 16 8, c.count.extractLsb' 24 8])
            { s with lines := { s.lines with captures := s.lines.captures.drop n.toNat, overrun := false } }
      else Refuses (.captureRead tag [n]) s tag .range

/-- TRIGGER_EDGE, HOLDOFF_EXPIRY and PULSE_END (R34, R169, R171, R172, R173, R175, R176, R177). An accepted edge
starts the holdoff, offers a capture record, sets the line's flag and meets every track waiting on the line; an edge
that the mode or the holdoff turns away changes only the level last seen. The record joins the capture queue, CAPTURED
rising when it was empty, or is lost with CAPTURE_OVERRUN. Edges seen on several lines in one port sample are taken
lowest line first. A holdoff and a pulse fall by one at each tick start, and end at the one at which they reach 0. A
marker line is active in PULSE while ticks remain, in FOLLOW while its flag is set, and in OFF never; it drives high
when active under ACTIVE_HIGH and low under ACTIVE_LOW. The model's choice: log entry 5. -/
def Obligations.TriggerAndMarkerEvents : Prop :=
  (∀ (s : State) (m : LineId),
    ((s.marker m).mode = .off → s.markerActive m = false) ∧
    ((s.marker m).mode = .pulse → (s.markerActive m = true ↔ 0 < (s.marker m).remaining)) ∧
    ((s.marker m).mode = .follow → s.markerActive m = s.flags.getLsbD (s.marker m).flag.toNat) ∧
    s.markerLevel m = if (s.marker m).polarity = .activeHigh then s.markerActive m else !s.markerActive m) ∧
  ∀ (s : State) (n : LineId), s.held = false →
    (∀ (levels : BitVec 4) (offset : BitVec 12), (∀ m, m ≠ n → levels.getLsbD m.1 = (s.trigger m).level) →
      let line := s.trigger n
      let rising := levels.getLsbD n.1
      let admitted := (line.mode = .rise ∧ rising = true) ∨ (line.mode = .fall ∧ rising = false) ∨ line.mode = .both
      let record : Capture := { line := n, rising := rising, count := s.timeline.count, offset := offset }
      (rising = line.level → Acts (.triggerEdge levels offset) s s) ∧
      (rising ≠ line.level → ¬ (admitted ∧ line.remaining = 0) →
        Acts (.triggerEdge levels offset) s (s.setTrigger n { line with level := rising })) ∧
      (rising ≠ line.level → admitted → line.remaining = 0 →
        ∃ u, Acts (.triggerEdge levels offset) s u ∧
          u.trigger n = { line with level := rising, remaining := line.holdoff } ∧
          (∀ m, m ≠ n → u.trigger m = s.trigger m) ∧ u.lines.markers = s.lines.markers ∧
          u.lines.captures = (if s.lines.captures.length < 16 then s.lines.captures ++ [record] else s.lines.captures) ∧
          u.lines.overrun = (s.lines.overrun || decide (16 ≤ s.lines.captures.length)) ∧
          u.flags = (if line.setsFlag then (s.setFlag line.flag).flags else s.flags) ∧
          (∀ t, u.track t =
            if (s.track t).state = .starting ∧ (s.track t).start = .trigger n then { s.track t with startDue := true }
            else s.track t) ∧
          u.notice lineSource =
            (if s.lines.captures = [] then some (mergeCause s.timeline.count .captured (s.notice lineSource))
            else if 16 ≤ s.lines.captures.length then
              some (mergeCause s.timeline.count .captureOverrun (s.notice lineSource))
            else s.notice lineSource) ∧
          (∀ m, m ≠ lineSource → u.notice m = s.notice m) ∧
          { u with lines := s.lines, flags := s.flags, tracks := s.tracks, notices := s.notices } = s)) ∧
    (∀ (levels : BitVec 4) (offset : BitVec 12),
      let accepted (m : LineId) : Bool := levels.getLsbD m.1 ≠ (s.trigger m).level && (s.trigger m).remaining = 0 &&
        (match (s.trigger m).mode with
          | .off => false
          | .rise => levels.getLsbD m.1
          | .fall => !levels.getLsbD m.1
          | .both => true)
      let records : List Capture := ((List.finRange 4).filter accepted).map fun m =>
        { line := m, rising := levels.getLsbD m.1, count := s.timeline.count, offset := offset }
      ∃ u, Acts (.triggerEdge levels offset) s u ∧
        (∀ m, u.trigger m = { s.trigger m with
          level := levels.getLsbD m.1
          remaining := if accepted m then (s.trigger m).holdoff else (s.trigger m).remaining }) ∧
        u.lines.captures = s.lines.captures ++ records.take (16 - s.lines.captures.length) ∧
        u.lines.overrun = (s.lines.overrun || (records ≠ [] && 16 < s.lines.captures.length + records.length)) ∧
        (∀ f, u.flagSet f = (s.flagSet f ||
          (List.finRange 4).any fun m => accepted m && (s.trigger m).setsFlag && (s.trigger m).flag = f)) ∧
        (∀ t, u.track t =
          if (s.track t).state = .starting ∧ ∃ m, accepted m = true ∧ (s.track t).start = .trigger m then
            { s.track t with startDue := true }
          else s.track t) ∧
        (∀ m, m ≠ lineSource → u.notice m = s.notice m)) ∧
    (s.work.triggers.getLsbD n.1 = false →
      ∃ u, Acts .tickStart s u ∧ u.trigger n = { s.trigger n with remaining := (s.trigger n).remaining - 1 }) ∧
    (s.work.markers.getLsbD n.1 = false →
      ((openTick s).marker n).remaining = (s.marker n).remaining - 1 ∧
      ∃ u, Acts .tickStart s u ∧ (s.marker n).remaining - 1 ≤ (u.marker n).remaining ∧
        ((∀ t, (s.track t).state = .idle ∨ (s.track t).state = .priming ∨ (s.track t).state = .ready ∨
            (s.track t).state = .faulted) →
          u.marker n = { s.marker n with remaining := (s.marker n).remaining - 1 })) ∧
    (s.work.triggers.getLsbD n.1 = false → (s.trigger n).remaining = 1 →
      ∃ u, Acts (.holdoffExpiry n) s u ∧ u.trigger n = { s.trigger n with remaining := 0 } ∧
        (∀ m, m ≠ n → u.trigger m = s.trigger m) ∧ u.timeline = (timelineTick s).timeline ∧
        { u with
          lines := { u.lines with triggers := s.lines.triggers }
          timeline := s.timeline
          work := s.work
          notices := s.notices } = s) ∧
    (s.work.markers.getLsbD n.1 = false → (s.marker n).mode = .pulse → (s.marker n).remaining = 1 →
      ∃ u, Acts (.pulseEnd n) s u ∧ u.marker n = { s.marker n with remaining := 0 } ∧ u.markerActive n = false ∧
        (∀ m, m ≠ n → u.marker m = s.marker m) ∧ u.timeline = (timelineTick s).timeline ∧
        { u with
          lines := { u.lines with markers := s.lines.markers }
          timeline := s.timeline
          work := s.work
          notices := s.notices } = s)

/-! ### Reading (R56, R112, R134, R135, R158, R199) -/

/-- PORT_STATUS, CLOCK_STATUS, TRACK_STATUS, CLIP_INFO and STORE_STATUS (R56, R112, R134, R135, R158, R199) change
nothing and answer payloads of the sizes of section 11.3 with the fields of sections 11.6 and 11.7 at their places: a
port's values in effect and its pending set, a track's parameters, current copy, queue and ring with their deadlines,
a bank's sector counts and operation among them, each enumerated byte as section 11.2 gives it. A number out of range
is answered RANGE, and the two store requests STATE during the scan. The bounds on feeds, queue, ring and label are
invariants of the model. The model's choices: log entries 16 and 18. -/
def Obligations.ReadingChangesNothing : Prop :=
  [TrackState.idle, .priming, .ready, .starting, .playing, .holding, .stopping, .faulted].map TrackState.code =
    [0, 1, 2, 3, 4, 5, 6, 7] ∧
  [FaultReason.none, .badClip, .badRange, .noLink].map FaultReason.code = [0, 1, 2, 3] ∧
  (∀ (time : Count) (n : LineId) (f : FlagId) (consume : Bool),
    [StartCond.none, .next, .atTime time, .trigger n, .flag f consume].map StartCond.code = [0, 1, 2, 3, 4]) ∧
  (∀ h, [StopMode.none, .now, .fade h, .atEnd].map StopMode.code = [0, 1, 2, 3]) ∧
  [TransferMode.every, .marked].map TransferMode.code = [0, 1] ∧ [GatePhase.on, .off].map GatePhase.code = [0, 1] ∧
  [CopyStatus.good, .badClip, .badRange].map CopyStatus.code = [0, 1, 2] ∧
  [PathTag.main, .taken, .fall].map PathTag.code = [0, 1, 2] ∧
  [SlotState.wanted, .queued, .reading, .filled, .faulty].map SlotState.code = [0, 1, 2, 3, 4] ∧
  [PortState.off, .muted, .live].map PortState.code = [0, 1, 2] ∧
  [GuardMode.off, .count, .backoff].map GuardMode.code = [0, 1, 2] ∧
  [ClipState.empty, .opened, .ready, .damaged].map ClipState.code = [0, 1, 2, 3] ∧
  (opCode none = 0 ∧ ∀ o : Operation, opCode (some o) = match o.kind with
    | .program _ _ => 1
    | .erase _ => 2) ∧
  (subCode none = 0 ∧ ∀ o : Operation, subCode (some o) = match o.sub with
    | .running => 1
    | .suspending => 2
    | .suspended => 3) ∧
  [Policy.allow, .defer].map Policy.code = [0, 1] ∧ [Role.alone, .lead, .follow].map Role.code = [0, 1, 2] ∧
  [FollowState.seek, .locked, .holdover].map FollowState.code = [0, 1, 2] ∧
  [NextKind.next, .goto, .call, .ret, .ifSet, .ifClear, .hold, .finish].map NextKind.code = [0, 1, 2, 3, 4, 5, 6, 7] ∧
  [FlagAction.none, .set, .clear].map FlagAction.code = [0, 1, 2] ∧
  ∀ (s : State) (tag : Byte),
    (∀ n : Byte, s.serves { tag := tag, code := 0x21, payload := [n] } →
      (4 ≤ n.toNat → Refuses (.portStatus tag [n]) s tag .range) ∧
      ∀ p : PortId, n.toNat = p.1 →
        let x := s.port p
        ∃ a, Completes (.portStatus tag [n]) s tag a s ∧ a.length = 24 ∧ (a.getD 0 0).toNat = x.state.code ∧
          a.getD 2 0 ++ a.getD 1 0 = BitVec.ofInt 16 x.fs ∧
          a.getD 4 0 ++ a.getD 3 0 = BitVec.ofNat 16 x.x ∧ (a.getD 5 0).toNat = x.guard.code ∧
          a.getD 7 0 ++ a.getD 6 0 = BitVec.ofNat 16 x.limit ∧ a.getD 8 0 = BitVec.ofNat 8 x.backoff ∧
          a.getD 10 0 ++ a.getD 9 0 = BitVec.ofNat 16 x.lastClips ∧ a.getD 11 0 = BitVec.ofNat 8 x.lastFeeds ∧
          a.getD 13 0 ++ a.getD 12 0 = BitVec.ofNat 16 x.overloads ∧
          a.getD 14 0 = (if x.pending.isSome then 1 else 0) ∧ (x.pending = none → a.drop 15 = List.replicate 9 0) ∧
          ∀ v, x.pending = some v → (a.getD 15 0).toNat = v.state.code ∧ a.getD 17 0 ++ a.getD 16 0 = BitVec.ofInt 16 v.fs ∧
            a.getD 19 0 ++ a.getD 18 0 = BitVec.ofNat 16 v.x ∧ (a.getD 20 0).toNat = v.guard.code ∧
            a.getD 22 0 ++ a.getD 21 0 = BitVec.ofNat 16 v.limit ∧ a.getD 23 0 = (if v.restore then 1 else 0)) ∧
    (s.serves { tag := tag, code := 0x11, payload := [] } →
      let x := s.timeline
      ∃ a, Completes (.clockStatus tag []) s tag a s ∧ a.length = 16 ∧
        a.getD 3 0 ++ a.getD 2 0 ++ a.getD 1 0 ++ a.getD 0 0 = x.count ∧
        a.getD 7 0 ++ a.getD 6 0 ++ a.getD 5 0 ++ a.getD 4 0 = x.pendingSet.getD 0 ∧
        a.getD 8 0 = (if x.pendingSet.isSome then 1 else 0) ∧ (a.getD 9 0).toNat = x.role.code ∧
        a.getD 10 0 = x.unitId.setWidth 8 ∧
        (a.getD 11 0).toNat = (if x.role = .follow then x.follow.code else 0) ∧
        a.getD 12 0 = (match x.leaderSeen with
          | some l => l.setWidth 8
          | none => 0xFF) ∧
        (a.getD 13 0).getLsbD 0 = x.age.isSome ∧ (a.getD 13 0).getLsbD 1 = x.pendingMarker.isSome ∧
        (a.getD 13 0).getLsbD 2 = x.contention ∧ a.getD 15 0 ++ a.getD 14 0 = BitVec.ofNat 16 (x.age.getD 0)) ∧
    (∀ n : Byte, s.serves { tag := tag, code := 0x46, payload := [n] } →
      (48 ≤ n.toNat → Refuses (.trackStatus tag [n]) s tag .range) ∧
      ∀ k : TrackId, n.toNat = k.1 →
        let x := s.track k
        let two (a : List Byte) (o : Nat) : BitVec 16 := a.getD (o + 1) 0 ++ a.getD o 0
        let four (a : List Byte) (o : Nat) : BitVec 32 := two a (o + 2) ++ two a o
        let params (a : List Byte) (o : Nat) (l : LiveParams) : Prop :=
          four a o = BitVec.ofInt 32 l.detune ∧ four a (o + 4) = BitVec.ofInt 32 l.sweep ∧
          a.getD (o + 8) 0 = BitVec.ofNat 8 l.trim ∧ (a.getD (o + 9) 0).toNat = l.mode.code ∧
          two a (o + 10) = BitVec.ofNat 16 l.gateOn ∧ two a (o + 12) = BitVec.ofNat 16 l.gateOff ∧
          a.getD (o + 14) 0 = BitVec.ofNat 8 l.feeds.length ∧ a.getD (o + 15) 0 = 0 ∧
          (∀ i f, l.feeds[i]? = some f → (a.getD (o + 16 + 4 * i) 0).toNat = f.port.1 ∧
            a.getD (o + 17 + 4 * i) 0 = BitVec.ofNat 8 f.offset ∧ two a (o + 18 + 4 * i) = f.phase) ∧
          ∀ i, 4 * l.feeds.length ≤ i → i < 16 → a.getD (o + 16 + i) 0 = 0
        ∃ a, Completes (.trackStatus tag [n]) s tag a s ∧
          (x.queue.length ≤ 4 → x.ring.length ≤ 8 → x.active.feeds.length ≤ 4 → x.staged.feeds.length ≤ 4 →
            a.length = 248 ∧ params a 36 x.active ∧ params a 68 x.staged ∧
            a.getD 101 0 = BitVec.ofNat 8 x.queue.length ∧ a.getD 102 0 = BitVec.ofNat 8 x.ring.length ∧
            a.getD 103 0 = 0 ∧
            (match x.state, x.queue with
              | .playing, c :: _ | .stopping, c :: _ | .holding, c :: _ =>
                a.getD 100 0 = 1 ∧ four a 104 = BitVec.ofNat 32 c.length ∧ (a.drop 108).take 28 = c.entry.bytes
              | _, _ => a.getD 100 0 = 0 ∧ (a.drop 104).take 32 = List.replicate 32 0) ∧
            (∀ i c, x.queue[i]? = some c → two a (136 + 4 * i) = c.index.setWidth 16 ∧
              ((a.getD (138 + 4 * i) 0).setWidth 7).toNat = c.status.code ∧
              (a.getD (138 + 4 * i) 0).getLsbD 7 = c.trailing ∧ (a.getD (139 + 4 * i) 0).toNat = c.path.code) ∧
            (∀ i, 4 * x.queue.length ≤ i → i < 16 → a.getD (136 + i) 0 = 0) ∧
            (∀ i y, x.ring[i]? = some y →
              two a (152 + 12 * i) = (match y.clip with
                | some c => BitVec.ofNat 16 c.1
                | none => 0xFFFF) ∧
              four a (154 + 12 * i) = BitVec.ofNat 32 y.block ∧ four a (158 + 12 * i) = (s.deadline k i).getD 0 ∧
              (a.getD (162 + 12 * i) 0).toNat = y.path.code ∧
              ((a.getD (163 + 12 * i) 0).setWidth 7).toNat = y.state.code ∧
              (a.getD (163 + 12 * i) 0).getLsbD 7 = (s.deadline k i).isSome) ∧
            ∀ i, 12 * x.ring.length ≤ i → i < 96 → a.getD (152 + i) 0 = 0) ∧
          a.getD 0 0 = n ∧ (a.getD 1 0).toNat = x.state.code ∧ a.getD 3 0 ++ a.getD 2 0 = x.home.setWidth 16 ∧
          (a.getD 5 0 ++ a.getD 4 0 : BitVec 16) =
            (match x.state, x.queue with
              | .faulted, _ => x.faultIndex
              | .playing, c :: _ | .stopping, c :: _ | .holding, c :: _ => c.index
              | _, _ => x.home).setWidth 16 ∧
          a.getD 6 0 = BitVec.ofNat 8 x.playNumber ∧ (a.getD 7 0).getLsbD 0 = x.lastPlay ∧
          (a.getD 7 0).getLsbD 1 = x.breakPending ∧ (a.getD 7 0).getLsbD 2 = x.stagedPending ∧
          (a.getD 7 0).getLsbD 3 = x.nowMark ∧ (a.getD 7 0).getLsbD 4 = x.gateMark ∧ (a.getD 7 0).getLsbD 5 = x.short ∧
          (a.getD 7 0).getLsbD 6 = x.edge ∧ (a.getD 7 0).getLsbD 7 = x.late ∧
          a.getD 11 0 ++ a.getD 10 0 ++ a.getD 9 0 ++ a.getD 8 0 = BitVec.ofNat 32 x.block ∧
          (a.getD 13 0 ++ a.getD 12 0 : BitVec 16) = (match x.link with
            | some l => l.setWidth 16
            | none => 0xFFFF#16) ∧
          (a.getD 14 0).toNat = x.start.code ∧
          (a.getD 15 0).toNat = (match x.start with
            | .trigger n => n.1
            | .flag f _ => f.toNat
            | .none | .next | .atTime _ => 0) ∧
          (a.getD 16 0 = 1 ↔ ∃ f, x.start = .flag f true) ∧ (a.getD 16 0).toNat < 2 ∧
          (a.getD 17 0).toNat = x.stop.code ∧
          a.getD 18 0 = (match x.stop with
            | .fade h => BitVec.ofNat 8 h
            | .none | .now | .atEnd => 0) ∧
          four a 20 = (match x.start with
            | .atTime time => time
            | .none | .next | .trigger _ | .flag _ _ => 0) ∧
          a.getD 19 0 = BitVec.ofNat 8 x.stopFade ∧
          a.getD 27 0 ++ a.getD 26 0 ++ a.getD 25 0 ++ a.getD 24 0 = x.nco ∧
          (a.getD 28 0).toNat = x.gatePhase.code ∧ (a.getD 29 0).toNat = x.faultReason.code ∧
          a.getD 31 0 ++ a.getD 30 0 = BitVec.ofNat 16 x.gateCounter ∧
          a.getD 33 0 ++ a.getD 32 0 = BitVec.ofNat 16 x.underruns ∧
          a.getD 35 0 ++ a.getD 34 0 = BitVec.ofNat 16 x.readFaults) ∧
    (∀ i0 i1 : Byte, s.serves { tag := tag, code := 0x54, payload := [i0, i1] } →
      (1024 ≤ (i1 ++ i0).toNat → Refuses (.clipInfo tag [i0, i1]) s tag .range) ∧
      ((i1 ++ i0).toNat < 1024 → s.store.scanning = true → Refuses (.clipInfo tag [i0, i1]) s tag .state) ∧
      ∀ c : ClipId, (i1 ++ i0).toNat = c.1 → s.store.scanning = false →
        let r := s.clip c
        ∃ a, Completes (.clipInfo tag [i0, i1]) s tag a s ∧ (r.label.length ≤ 24 → a.length = 48) ∧
          a.getD 0 0 = i0 ∧ a.getD 1 0 = i1 ∧ (a.getD 2 0).toNat = r.state.code ∧ (a.getD 3 0).toNat = r.bank.1 ∧
          a.getD 5 0 ++ a.getD 4 0 = BitVec.ofNat 16 r.first ∧ a.getD 7 0 ++ a.getD 6 0 = BitVec.ofNat 16 r.sectors ∧
          a.getD 8 0 = BitVec.ofNat 8 r.decimation ∧ a.getD 9 0 = (if r.ended then 1 else 0) ∧
          a.getD 11 0 ++ a.getD 10 0 = BitVec.ofInt 16 r.ref ∧
          a.getD 15 0 ++ a.getD 14 0 ++ a.getD 13 0 ++ a.getD 12 0 = BitVec.ofNat 32 r.blocks ∧
          a.getD 19 0 ++ a.getD 18 0 ++ a.getD 17 0 ++ a.getD 16 0 = BitVec.ofNat 32 r.nextPage ∧
          a.getD 20 0 = BitVec.ofNat 8 ((s.bank r.bank).programQueue.countP fun p => p.clip = c) ∧
          a.getD 21 0 = BitVec.ofNat 8 r.label.length ∧ a.getD 23 0 ++ a.getD 22 0 = BitVec.ofNat 16 (s.useCount c) ∧
          (a.drop 24).take r.label.length = r.label) ∧
    (s.serves { tag := tag, code := 0x55, payload := [] } →
      (s.store.scanning = true → Refuses (.storeStatus tag []) s tag .state) ∧
      (s.store.scanning = false →
        ∃ a, Completes (.storeStatus tag []) s tag a s ∧ a.length = 112 ∧ ∀ b : BankId,
          let x := a.drop (28 * b.1)
          let k := s.bank b
          let count (st : SectorState) : BitVec 16 :=
            BitVec.ofNat 16 ((List.range 8192).countP fun m => s.sector b m = st)
          (tableWf SectorState.free s.store.sectors = true →
            x.getD 1 0 ++ x.getD 0 0 = count .free ∧ x.getD 3 0 ++ x.getD 2 0 = count .allocated ∧
            x.getD 5 0 ++ x.getD 4 0 = count .dirty ∧ x.getD 7 0 ++ x.getD 6 0 = count .erasing ∧
            x.getD 9 0 ++ x.getD 8 0 = count .unsettled ∧ x.getD 11 0 ++ x.getD 10 0 = count .retired) ∧
          (match k.op.map Operation.kind with
            | some (.program c q) => x.getD 15 0 ++ x.getD 14 0 = BitVec.ofNat 16 c.1 ∧
              x.getD 19 0 ++ x.getD 18 0 ++ x.getD 17 0 ++ x.getD 16 0 = BitVec.ofNat 32 q
            | some (.erase n) => x.getD 15 0 ++ x.getD 14 0 = BitVec.ofNat 16 n ∧
              x.getD 19 0 ++ x.getD 18 0 ++ x.getD 17 0 ++ x.getD 16 0 = 0#32
            | none => x.getD 15 0 ++ x.getD 14 0 = 0#16 ∧
              x.getD 19 0 ++ x.getD 18 0 ++ x.getD 17 0 ++ x.getD 16 0 = 0#32) ∧
          (x.getD 12 0).toNat = opCode k.op ∧ (x.getD 13 0).toNat = subCode k.op ∧
          x.getD 20 0 = BitVec.ofNat 8 k.programQueue.length ∧ x.getD 21 0 = BitVec.ofNat 8 k.fetch.length ∧
          x.getD 22 0 = (if k.sweep then 1 else 0) ∧ x.getD 23 0 = (if k.eraseHold then 1 else 0) ∧
          (x.getD 24 0).toNat = k.policy.code ∧ x.getD 25 0 = (if k.autoSweep then 1 else 0) ∧
          x.getD 26 0 = BitVec.ofNat 8 ((k.op.map Operation.count).getD 0)))

/-! ### What every step keeps -/

/-- The state after reset meets every invariant stated below, and it is what a hard reset released with low trigger
inputs leaves of a part without a persistent record. Derived: that record and those inputs are the model's choices
(log entries 6 and 7). -/
def Obligations.ResetMeetsTheInvariants : Prop :=
  let s := State.reset
  s.noticesOk ∧ s.linkOk ∧ s.capturesOk ∧ s.portsOk ∧ s.paramsOk ∧ s.banksOk ∧ s.tracksOk ∧ s.tablesOk ∧
    s.referencesReady ∧ s.pagesOpen ∧ s.runsOk ∧ s.banksWork ∧ s.programsFollowed ∧
    ∃ u, exec .hardReset s = .next u ∧ exec (.resetRelease 0) u = .next s

/-- Every step keeps the bounds of the notice records (R189), the request queue and answer list (R186), the capture
queue (R173), the backoffs (R108) and the live parameters, the detune's among them (R51, R53), which the sweep and the
clamp keep while the frequency offsets of the entries are in range (R22, R90, R91). -/
def Obligations.StepsKeepTheirBounds : Prop :=
  ∀ s t : State, step s = .next t →
    (s.noticesOk → t.noticesOk) ∧ (s.linkOk → t.linkOk) ∧ (s.capturesOk → t.capturesOk) ∧ (s.portsOk → t.portsOk) ∧
      (s.paramsOk → t.paramsOk)

/-- Every step keeps the bounds of the banks' queues and suspension counts (R120, R139, R144, R148) and of the entry
queues and rings (R57, R59), and the canonical forms of cue memory, clip directory, sector map and flash. -/
def Obligations.StepsKeepQueuesAndTables : Prop :=
  ∀ s t : State, step s = .next t →
    (s.banksOk → t.banksOk) ∧ (s.tracksOk → t.tracksOk) ∧ (s.tablesOk → t.tablesOk)

/-- Every step keeps R77's rule that each slot and each GOOD copy that names a clip refers to a READY clip, so that no
clip leaves READY while a track refers to it; a waiting page keeps its clip OPEN and in its bank, and a program in
progress stays that of the front page. -/
def Obligations.ReferencedClipsStayReady : Prop :=
  ∀ s t : State, step s = .next t → s.referencesReady → s.pagesOpen → t.referencesReady ∧ t.pagesOpen

/-- After every step no bank idles that has a read to start, a page to program, a sector it may erase or a suspended
operation to resume (R120, R140, R147), provided runs and erases stay within their banks, which every step keeps too. -/
def Obligations.NoBankIdles : Prop :=
  ∀ s t : State, step s = .next t → s.runsOk → t.runsOk ∧ (s.banksWork → t.banksWork)

/-- Every step keeps every entry queue on its program: behind each copy stands the entry that its next kind names (R6
to R13), behind a RETURN that of the link as the CALLs ahead of it leave it, behind a trailing entry that of the decided
successor, behind an IF both of its paths until it is resolved (R69, R70); and the walk goes on from the last copy, its
shadow link being the link there (R65 to R68). The model's choices: log entries 12 and 16. -/
def Obligations.QueuesFollowTheirPrograms : Prop :=
  ∀ s t : State, step s = .next t → s.programsFollowed → t.programsFollowed
end

