-- ==== Sys2Proof/Laws/State.lean ====
section
/-! SUPPORT. One lemma for each field of the state and each update of a record, so that no proof unfolds an update: what
the update leaves as it was, and what the record it writes then reads as. -/

namespace Sys2Proof.Machine

/-! ### `State.setCueEntry` -/

@[simp] theorem State.setCueEntry_held (s : State) (i : CueIndex) (e : CueEntry) :
    (s.setCueEntry i e).held = s.held := rfl
@[simp] theorem State.setCueEntry_link (s : State) (i : CueIndex) (e : CueEntry) :
    (s.setCueEntry i e).link = s.link := rfl
@[simp] theorem State.setCueEntry_notices (s : State) (i : CueIndex) (e : CueEntry) :
    (s.setCueEntry i e).notices = s.notices := rfl
@[simp] theorem State.setCueEntry_timeline (s : State) (i : CueIndex) (e : CueEntry) :
    (s.setCueEntry i e).timeline = s.timeline := rfl
@[simp] theorem State.setCueEntry_flags (s : State) (i : CueIndex) (e : CueEntry) :
    (s.setCueEntry i e).flags = s.flags := rfl
@[simp] theorem State.setCueEntry_tracks (s : State) (i : CueIndex) (e : CueEntry) :
    (s.setCueEntry i e).tracks = s.tracks := rfl
@[simp] theorem State.setCueEntry_slotSeq (s : State) (i : CueIndex) (e : CueEntry) :
    (s.setCueEntry i e).slotSeq = s.slotSeq := rfl
@[simp] theorem State.setCueEntry_ports (s : State) (i : CueIndex) (e : CueEntry) :
    (s.setCueEntry i e).ports = s.ports := rfl
@[simp] theorem State.setCueEntry_store (s : State) (i : CueIndex) (e : CueEntry) :
    (s.setCueEntry i e).store = s.store := rfl
@[simp] theorem State.setCueEntry_banks (s : State) (i : CueIndex) (e : CueEntry) :
    (s.setCueEntry i e).banks = s.banks := rfl
@[simp] theorem State.setCueEntry_lines (s : State) (i : CueIndex) (e : CueEntry) :
    (s.setCueEntry i e).lines = s.lines := rfl
@[simp] theorem State.setCueEntry_work (s : State) (i : CueIndex) (e : CueEntry) :
    (s.setCueEntry i e).work = s.work := rfl
@[simp] theorem State.setCueEntry_pending (s : State) (i : CueIndex) (e : CueEntry) :
    (s.setCueEntry i e).pending = s.pending := rfl
@[simp] theorem State.setCueEntry_track (s : State) (i : CueIndex) (e : CueEntry) (j : TrackId) :
    (s.setCueEntry i e).track j = s.track j := rfl
@[simp] theorem State.setCueEntry_port (s : State) (i : CueIndex) (e : CueEntry) (q : PortId) :
    (s.setCueEntry i e).port q = s.port q := rfl
@[simp] theorem State.setCueEntry_bank (s : State) (i : CueIndex) (e : CueEntry) (d : BankId) :
    (s.setCueEntry i e).bank d = s.bank d := rfl
@[simp] theorem State.setCueEntry_trigger (s : State) (i : CueIndex) (e : CueEntry) (k : LineId) :
    (s.setCueEntry i e).trigger k = s.trigger k := rfl
@[simp] theorem State.setCueEntry_marker (s : State) (i : CueIndex) (e : CueEntry) (k : LineId) :
    (s.setCueEntry i e).marker k = s.marker k := rfl
@[simp] theorem State.setCueEntry_clip (s : State) (i : CueIndex) (e : CueEntry) (d : ClipId) :
    (s.setCueEntry i e).clip d = s.clip d := rfl
@[simp] theorem State.setCueEntry_sector (s : State) (i : CueIndex) (e : CueEntry) (d : BankId) (k : Nat) :
    (s.setCueEntry i e).sector d k = s.sector d k := rfl
@[simp] theorem State.setCueEntry_notice (s : State) (i : CueIndex) (e : CueEntry) (k : SourceId) :
    (s.setCueEntry i e).notice k = s.notice k := rfl
@[simp] theorem State.setCueEntry_flagSet (s : State) (i : CueIndex) (e : CueEntry) (g : FlagId) :
    (s.setCueEntry i e).flagSet g = s.flagSet g := rfl
@[simp] theorem State.setCueEntry_trackDone (s : State) (i : CueIndex) (e : CueEntry) (j : TrackId) :
    (s.setCueEntry i e).trackDone j = s.trackDone j := rfl
@[simp] theorem State.setCueEntry_isReleased (s : State) (i : CueIndex) (e : CueEntry) (j : TrackId) :
    (s.setCueEntry i e).isReleased j = s.isReleased j := rfl

/-! ### `State.setTrack` -/

@[simp] theorem State.setTrack_held (s : State) (t : TrackId) (x : Track) : (s.setTrack t x).held = s.held := rfl
@[simp] theorem State.setTrack_link (s : State) (t : TrackId) (x : Track) : (s.setTrack t x).link = s.link := rfl
@[simp] theorem State.setTrack_notices (s : State) (t : TrackId) (x : Track) :
    (s.setTrack t x).notices = s.notices := rfl
@[simp] theorem State.setTrack_timeline (s : State) (t : TrackId) (x : Track) :
    (s.setTrack t x).timeline = s.timeline := rfl
@[simp] theorem State.setTrack_cue (s : State) (t : TrackId) (x : Track) : (s.setTrack t x).cue = s.cue := rfl
@[simp] theorem State.setTrack_flags (s : State) (t : TrackId) (x : Track) : (s.setTrack t x).flags = s.flags := rfl
@[simp] theorem State.setTrack_slotSeq (s : State) (t : TrackId) (x : Track) :
    (s.setTrack t x).slotSeq = s.slotSeq := rfl
@[simp] theorem State.setTrack_ports (s : State) (t : TrackId) (x : Track) : (s.setTrack t x).ports = s.ports := rfl
@[simp] theorem State.setTrack_store (s : State) (t : TrackId) (x : Track) : (s.setTrack t x).store = s.store := rfl
@[simp] theorem State.setTrack_banks (s : State) (t : TrackId) (x : Track) : (s.setTrack t x).banks = s.banks := rfl
@[simp] theorem State.setTrack_lines (s : State) (t : TrackId) (x : Track) : (s.setTrack t x).lines = s.lines := rfl
@[simp] theorem State.setTrack_work (s : State) (t : TrackId) (x : Track) : (s.setTrack t x).work = s.work := rfl
@[simp] theorem State.setTrack_pending (s : State) (t : TrackId) (x : Track) :
    (s.setTrack t x).pending = s.pending := rfl
@[simp] theorem State.setTrack_port (s : State) (t : TrackId) (x : Track) (q : PortId) :
    (s.setTrack t x).port q = s.port q := rfl
@[simp] theorem State.setTrack_bank (s : State) (t : TrackId) (x : Track) (d : BankId) :
    (s.setTrack t x).bank d = s.bank d := rfl
@[simp] theorem State.setTrack_trigger (s : State) (t : TrackId) (x : Track) (k : LineId) :
    (s.setTrack t x).trigger k = s.trigger k := rfl
@[simp] theorem State.setTrack_marker (s : State) (t : TrackId) (x : Track) (k : LineId) :
    (s.setTrack t x).marker k = s.marker k := rfl
@[simp] theorem State.setTrack_clip (s : State) (t : TrackId) (x : Track) (d : ClipId) :
    (s.setTrack t x).clip d = s.clip d := rfl
@[simp] theorem State.setTrack_sector (s : State) (t : TrackId) (x : Track) (d : BankId) (k : Nat) :
    (s.setTrack t x).sector d k = s.sector d k := rfl
@[simp] theorem State.setTrack_notice (s : State) (t : TrackId) (x : Track) (k : SourceId) :
    (s.setTrack t x).notice k = s.notice k := rfl
@[simp] theorem State.setTrack_cueEntry (s : State) (t : TrackId) (x : Track) (k : CueIndex) :
    (s.setTrack t x).cueEntry k = s.cueEntry k := rfl
@[simp] theorem State.setTrack_flagSet (s : State) (t : TrackId) (x : Track) (g : FlagId) :
    (s.setTrack t x).flagSet g = s.flagSet g := rfl
@[simp] theorem State.setTrack_trackDone (s : State) (t : TrackId) (x : Track) (j : TrackId) :
    (s.setTrack t x).trackDone j = s.trackDone j := rfl
@[simp] theorem State.setTrack_isReleased (s : State) (t : TrackId) (x : Track) (j : TrackId) :
    (s.setTrack t x).isReleased j = s.isReleased j := rfl

/-! ### `State.modTrack` -/

@[simp] theorem State.modTrack_held (s : State) (t : TrackId) (f : Track → Track) :
    (s.modTrack t f).held = s.held := rfl
@[simp] theorem State.modTrack_link (s : State) (t : TrackId) (f : Track → Track) :
    (s.modTrack t f).link = s.link := rfl
@[simp] theorem State.modTrack_notices (s : State) (t : TrackId) (f : Track → Track) :
    (s.modTrack t f).notices = s.notices := rfl
@[simp] theorem State.modTrack_timeline (s : State) (t : TrackId) (f : Track → Track) :
    (s.modTrack t f).timeline = s.timeline := rfl
@[simp] theorem State.modTrack_cue (s : State) (t : TrackId) (f : Track → Track) : (s.modTrack t f).cue = s.cue := rfl
@[simp] theorem State.modTrack_flags (s : State) (t : TrackId) (f : Track → Track) :
    (s.modTrack t f).flags = s.flags := rfl
@[simp] theorem State.modTrack_slotSeq (s : State) (t : TrackId) (f : Track → Track) :
    (s.modTrack t f).slotSeq = s.slotSeq := rfl
@[simp] theorem State.modTrack_ports (s : State) (t : TrackId) (f : Track → Track) :
    (s.modTrack t f).ports = s.ports := rfl
@[simp] theorem State.modTrack_store (s : State) (t : TrackId) (f : Track → Track) :
    (s.modTrack t f).store = s.store := rfl
@[simp] theorem State.modTrack_banks (s : State) (t : TrackId) (f : Track → Track) :
    (s.modTrack t f).banks = s.banks := rfl
@[simp] theorem State.modTrack_lines (s : State) (t : TrackId) (f : Track → Track) :
    (s.modTrack t f).lines = s.lines := rfl
@[simp] theorem State.modTrack_work (s : State) (t : TrackId) (f : Track → Track) :
    (s.modTrack t f).work = s.work := rfl
@[simp] theorem State.modTrack_pending (s : State) (t : TrackId) (f : Track → Track) :
    (s.modTrack t f).pending = s.pending := rfl
@[simp] theorem State.modTrack_port (s : State) (t : TrackId) (f : Track → Track) (q : PortId) :
    (s.modTrack t f).port q = s.port q := rfl
@[simp] theorem State.modTrack_bank (s : State) (t : TrackId) (f : Track → Track) (d : BankId) :
    (s.modTrack t f).bank d = s.bank d := rfl
@[simp] theorem State.modTrack_trigger (s : State) (t : TrackId) (f : Track → Track) (k : LineId) :
    (s.modTrack t f).trigger k = s.trigger k := rfl
@[simp] theorem State.modTrack_marker (s : State) (t : TrackId) (f : Track → Track) (k : LineId) :
    (s.modTrack t f).marker k = s.marker k := rfl
@[simp] theorem State.modTrack_clip (s : State) (t : TrackId) (f : Track → Track) (d : ClipId) :
    (s.modTrack t f).clip d = s.clip d := rfl
@[simp] theorem State.modTrack_sector (s : State) (t : TrackId) (f : Track → Track) (d : BankId) (k : Nat) :
    (s.modTrack t f).sector d k = s.sector d k := rfl
@[simp] theorem State.modTrack_notice (s : State) (t : TrackId) (f : Track → Track) (k : SourceId) :
    (s.modTrack t f).notice k = s.notice k := rfl
@[simp] theorem State.modTrack_cueEntry (s : State) (t : TrackId) (f : Track → Track) (k : CueIndex) :
    (s.modTrack t f).cueEntry k = s.cueEntry k := rfl
@[simp] theorem State.modTrack_flagSet (s : State) (t : TrackId) (f : Track → Track) (g : FlagId) :
    (s.modTrack t f).flagSet g = s.flagSet g := rfl
@[simp] theorem State.modTrack_trackDone (s : State) (t : TrackId) (f : Track → Track) (j : TrackId) :
    (s.modTrack t f).trackDone j = s.trackDone j := rfl
@[simp] theorem State.modTrack_isReleased (s : State) (t : TrackId) (f : Track → Track) (j : TrackId) :
    (s.modTrack t f).isReleased j = s.isReleased j := rfl

/-! ### `State.setPort` -/

@[simp] theorem State.setPort_held (s : State) (p : PortId) (x : Port) : (s.setPort p x).held = s.held := rfl
@[simp] theorem State.setPort_link (s : State) (p : PortId) (x : Port) : (s.setPort p x).link = s.link := rfl
@[simp] theorem State.setPort_notices (s : State) (p : PortId) (x : Port) : (s.setPort p x).notices = s.notices := rfl
@[simp] theorem State.setPort_timeline (s : State) (p : PortId) (x : Port) :
    (s.setPort p x).timeline = s.timeline := rfl
@[simp] theorem State.setPort_cue (s : State) (p : PortId) (x : Port) : (s.setPort p x).cue = s.cue := rfl
@[simp] theorem State.setPort_flags (s : State) (p : PortId) (x : Port) : (s.setPort p x).flags = s.flags := rfl
@[simp] theorem State.setPort_tracks (s : State) (p : PortId) (x : Port) : (s.setPort p x).tracks = s.tracks := rfl
@[simp] theorem State.setPort_slotSeq (s : State) (p : PortId) (x : Port) : (s.setPort p x).slotSeq = s.slotSeq := rfl
@[simp] theorem State.setPort_store (s : State) (p : PortId) (x : Port) : (s.setPort p x).store = s.store := rfl
@[simp] theorem State.setPort_banks (s : State) (p : PortId) (x : Port) : (s.setPort p x).banks = s.banks := rfl
@[simp] theorem State.setPort_lines (s : State) (p : PortId) (x : Port) : (s.setPort p x).lines = s.lines := rfl
@[simp] theorem State.setPort_work (s : State) (p : PortId) (x : Port) : (s.setPort p x).work = s.work := rfl
@[simp] theorem State.setPort_pending (s : State) (p : PortId) (x : Port) : (s.setPort p x).pending = s.pending := rfl
@[simp] theorem State.setPort_track (s : State) (p : PortId) (x : Port) (j : TrackId) :
    (s.setPort p x).track j = s.track j := rfl
@[simp] theorem State.setPort_bank (s : State) (p : PortId) (x : Port) (d : BankId) :
    (s.setPort p x).bank d = s.bank d := rfl
@[simp] theorem State.setPort_trigger (s : State) (p : PortId) (x : Port) (k : LineId) :
    (s.setPort p x).trigger k = s.trigger k := rfl
@[simp] theorem State.setPort_marker (s : State) (p : PortId) (x : Port) (k : LineId) :
    (s.setPort p x).marker k = s.marker k := rfl
@[simp] theorem State.setPort_clip (s : State) (p : PortId) (x : Port) (d : ClipId) :
    (s.setPort p x).clip d = s.clip d := rfl
@[simp] theorem State.setPort_sector (s : State) (p : PortId) (x : Port) (d : BankId) (k : Nat) :
    (s.setPort p x).sector d k = s.sector d k := rfl
@[simp] theorem State.setPort_notice (s : State) (p : PortId) (x : Port) (k : SourceId) :
    (s.setPort p x).notice k = s.notice k := rfl
@[simp] theorem State.setPort_cueEntry (s : State) (p : PortId) (x : Port) (k : CueIndex) :
    (s.setPort p x).cueEntry k = s.cueEntry k := rfl
@[simp] theorem State.setPort_flagSet (s : State) (p : PortId) (x : Port) (g : FlagId) :
    (s.setPort p x).flagSet g = s.flagSet g := rfl
@[simp] theorem State.setPort_trackDone (s : State) (p : PortId) (x : Port) (j : TrackId) :
    (s.setPort p x).trackDone j = s.trackDone j := rfl
@[simp] theorem State.setPort_isReleased (s : State) (p : PortId) (x : Port) (j : TrackId) :
    (s.setPort p x).isReleased j = s.isReleased j := rfl

/-! ### `State.modPort` -/

@[simp] theorem State.modPort_held (s : State) (p : PortId) (f : Port → Port) : (s.modPort p f).held = s.held := rfl
@[simp] theorem State.modPort_link (s : State) (p : PortId) (f : Port → Port) : (s.modPort p f).link = s.link := rfl
@[simp] theorem State.modPort_notices (s : State) (p : PortId) (f : Port → Port) :
    (s.modPort p f).notices = s.notices := rfl
@[simp] theorem State.modPort_timeline (s : State) (p : PortId) (f : Port → Port) :
    (s.modPort p f).timeline = s.timeline := rfl
@[simp] theorem State.modPort_cue (s : State) (p : PortId) (f : Port → Port) : (s.modPort p f).cue = s.cue := rfl
@[simp] theorem State.modPort_flags (s : State) (p : PortId) (f : Port → Port) :
    (s.modPort p f).flags = s.flags := rfl
@[simp] theorem State.modPort_tracks (s : State) (p : PortId) (f : Port → Port) :
    (s.modPort p f).tracks = s.tracks := rfl
@[simp] theorem State.modPort_slotSeq (s : State) (p : PortId) (f : Port → Port) :
    (s.modPort p f).slotSeq = s.slotSeq := rfl
@[simp] theorem State.modPort_store (s : State) (p : PortId) (f : Port → Port) :
    (s.modPort p f).store = s.store := rfl
@[simp] theorem State.modPort_banks (s : State) (p : PortId) (f : Port → Port) :
    (s.modPort p f).banks = s.banks := rfl
@[simp] theorem State.modPort_lines (s : State) (p : PortId) (f : Port → Port) :
    (s.modPort p f).lines = s.lines := rfl
@[simp] theorem State.modPort_work (s : State) (p : PortId) (f : Port → Port) : (s.modPort p f).work = s.work := rfl
@[simp] theorem State.modPort_pending (s : State) (p : PortId) (f : Port → Port) :
    (s.modPort p f).pending = s.pending := rfl
@[simp] theorem State.modPort_track (s : State) (p : PortId) (f : Port → Port) (j : TrackId) :
    (s.modPort p f).track j = s.track j := rfl
@[simp] theorem State.modPort_bank (s : State) (p : PortId) (f : Port → Port) (d : BankId) :
    (s.modPort p f).bank d = s.bank d := rfl
@[simp] theorem State.modPort_trigger (s : State) (p : PortId) (f : Port → Port) (k : LineId) :
    (s.modPort p f).trigger k = s.trigger k := rfl
@[simp] theorem State.modPort_marker (s : State) (p : PortId) (f : Port → Port) (k : LineId) :
    (s.modPort p f).marker k = s.marker k := rfl
@[simp] theorem State.modPort_clip (s : State) (p : PortId) (f : Port → Port) (d : ClipId) :
    (s.modPort p f).clip d = s.clip d := rfl
@[simp] theorem State.modPort_sector (s : State) (p : PortId) (f : Port → Port) (d : BankId) (k : Nat) :
    (s.modPort p f).sector d k = s.sector d k := rfl
@[simp] theorem State.modPort_notice (s : State) (p : PortId) (f : Port → Port) (k : SourceId) :
    (s.modPort p f).notice k = s.notice k := rfl
@[simp] theorem State.modPort_cueEntry (s : State) (p : PortId) (f : Port → Port) (k : CueIndex) :
    (s.modPort p f).cueEntry k = s.cueEntry k := rfl
@[simp] theorem State.modPort_flagSet (s : State) (p : PortId) (f : Port → Port) (g : FlagId) :
    (s.modPort p f).flagSet g = s.flagSet g := rfl
@[simp] theorem State.modPort_trackDone (s : State) (p : PortId) (f : Port → Port) (j : TrackId) :
    (s.modPort p f).trackDone j = s.trackDone j := rfl
@[simp] theorem State.modPort_isReleased (s : State) (p : PortId) (f : Port → Port) (j : TrackId) :
    (s.modPort p f).isReleased j = s.isReleased j := rfl

/-! ### `State.setBank` -/

@[simp] theorem State.setBank_held (s : State) (b : BankId) (x : Bank) : (s.setBank b x).held = s.held := rfl
@[simp] theorem State.setBank_link (s : State) (b : BankId) (x : Bank) : (s.setBank b x).link = s.link := rfl
@[simp] theorem State.setBank_notices (s : State) (b : BankId) (x : Bank) : (s.setBank b x).notices = s.notices := rfl
@[simp] theorem State.setBank_timeline (s : State) (b : BankId) (x : Bank) :
    (s.setBank b x).timeline = s.timeline := rfl
@[simp] theorem State.setBank_cue (s : State) (b : BankId) (x : Bank) : (s.setBank b x).cue = s.cue := rfl
@[simp] theorem State.setBank_flags (s : State) (b : BankId) (x : Bank) : (s.setBank b x).flags = s.flags := rfl
@[simp] theorem State.setBank_tracks (s : State) (b : BankId) (x : Bank) : (s.setBank b x).tracks = s.tracks := rfl
@[simp] theorem State.setBank_slotSeq (s : State) (b : BankId) (x : Bank) : (s.setBank b x).slotSeq = s.slotSeq := rfl
@[simp] theorem State.setBank_ports (s : State) (b : BankId) (x : Bank) : (s.setBank b x).ports = s.ports := rfl
@[simp] theorem State.setBank_store (s : State) (b : BankId) (x : Bank) : (s.setBank b x).store = s.store := rfl
@[simp] theorem State.setBank_lines (s : State) (b : BankId) (x : Bank) : (s.setBank b x).lines = s.lines := rfl
@[simp] theorem State.setBank_work (s : State) (b : BankId) (x : Bank) : (s.setBank b x).work = s.work := rfl
@[simp] theorem State.setBank_pending (s : State) (b : BankId) (x : Bank) : (s.setBank b x).pending = s.pending := rfl
@[simp] theorem State.setBank_track (s : State) (b : BankId) (x : Bank) (j : TrackId) :
    (s.setBank b x).track j = s.track j := rfl
@[simp] theorem State.setBank_port (s : State) (b : BankId) (x : Bank) (q : PortId) :
    (s.setBank b x).port q = s.port q := rfl
@[simp] theorem State.setBank_trigger (s : State) (b : BankId) (x : Bank) (k : LineId) :
    (s.setBank b x).trigger k = s.trigger k := rfl
@[simp] theorem State.setBank_marker (s : State) (b : BankId) (x : Bank) (k : LineId) :
    (s.setBank b x).marker k = s.marker k := rfl
@[simp] theorem State.setBank_clip (s : State) (b : BankId) (x : Bank) (d : ClipId) :
    (s.setBank b x).clip d = s.clip d := rfl
@[simp] theorem State.setBank_sector (s : State) (b : BankId) (x : Bank) (d : BankId) (k : Nat) :
    (s.setBank b x).sector d k = s.sector d k := rfl
@[simp] theorem State.setBank_notice (s : State) (b : BankId) (x : Bank) (k : SourceId) :
    (s.setBank b x).notice k = s.notice k := rfl
@[simp] theorem State.setBank_cueEntry (s : State) (b : BankId) (x : Bank) (k : CueIndex) :
    (s.setBank b x).cueEntry k = s.cueEntry k := rfl
@[simp] theorem State.setBank_flagSet (s : State) (b : BankId) (x : Bank) (g : FlagId) :
    (s.setBank b x).flagSet g = s.flagSet g := rfl
@[simp] theorem State.setBank_trackDone (s : State) (b : BankId) (x : Bank) (j : TrackId) :
    (s.setBank b x).trackDone j = s.trackDone j := rfl
@[simp] theorem State.setBank_isReleased (s : State) (b : BankId) (x : Bank) (j : TrackId) :
    (s.setBank b x).isReleased j = s.isReleased j := rfl

/-! ### `State.modBank` -/

@[simp] theorem State.modBank_held (s : State) (b : BankId) (f : Bank → Bank) : (s.modBank b f).held = s.held := rfl
@[simp] theorem State.modBank_link (s : State) (b : BankId) (f : Bank → Bank) : (s.modBank b f).link = s.link := rfl
@[simp] theorem State.modBank_notices (s : State) (b : BankId) (f : Bank → Bank) :
    (s.modBank b f).notices = s.notices := rfl
@[simp] theorem State.modBank_timeline (s : State) (b : BankId) (f : Bank → Bank) :
    (s.modBank b f).timeline = s.timeline := rfl
@[simp] theorem State.modBank_cue (s : State) (b : BankId) (f : Bank → Bank) : (s.modBank b f).cue = s.cue := rfl
@[simp] theorem State.modBank_flags (s : State) (b : BankId) (f : Bank → Bank) :
    (s.modBank b f).flags = s.flags := rfl
@[simp] theorem State.modBank_tracks (s : State) (b : BankId) (f : Bank → Bank) :
    (s.modBank b f).tracks = s.tracks := rfl
@[simp] theorem State.modBank_slotSeq (s : State) (b : BankId) (f : Bank → Bank) :
    (s.modBank b f).slotSeq = s.slotSeq := rfl
@[simp] theorem State.modBank_ports (s : State) (b : BankId) (f : Bank → Bank) :
    (s.modBank b f).ports = s.ports := rfl
@[simp] theorem State.modBank_store (s : State) (b : BankId) (f : Bank → Bank) :
    (s.modBank b f).store = s.store := rfl
@[simp] theorem State.modBank_lines (s : State) (b : BankId) (f : Bank → Bank) :
    (s.modBank b f).lines = s.lines := rfl
@[simp] theorem State.modBank_work (s : State) (b : BankId) (f : Bank → Bank) : (s.modBank b f).work = s.work := rfl
@[simp] theorem State.modBank_pending (s : State) (b : BankId) (f : Bank → Bank) :
    (s.modBank b f).pending = s.pending := rfl
@[simp] theorem State.modBank_track (s : State) (b : BankId) (f : Bank → Bank) (j : TrackId) :
    (s.modBank b f).track j = s.track j := rfl
@[simp] theorem State.modBank_port (s : State) (b : BankId) (f : Bank → Bank) (q : PortId) :
    (s.modBank b f).port q = s.port q := rfl
@[simp] theorem State.modBank_trigger (s : State) (b : BankId) (f : Bank → Bank) (k : LineId) :
    (s.modBank b f).trigger k = s.trigger k := rfl
@[simp] theorem State.modBank_marker (s : State) (b : BankId) (f : Bank → Bank) (k : LineId) :
    (s.modBank b f).marker k = s.marker k := rfl
@[simp] theorem State.modBank_clip (s : State) (b : BankId) (f : Bank → Bank) (d : ClipId) :
    (s.modBank b f).clip d = s.clip d := rfl
@[simp] theorem State.modBank_sector (s : State) (b : BankId) (f : Bank → Bank) (d : BankId) (k : Nat) :
    (s.modBank b f).sector d k = s.sector d k := rfl
@[simp] theorem State.modBank_notice (s : State) (b : BankId) (f : Bank → Bank) (k : SourceId) :
    (s.modBank b f).notice k = s.notice k := rfl
@[simp] theorem State.modBank_cueEntry (s : State) (b : BankId) (f : Bank → Bank) (k : CueIndex) :
    (s.modBank b f).cueEntry k = s.cueEntry k := rfl
@[simp] theorem State.modBank_flagSet (s : State) (b : BankId) (f : Bank → Bank) (g : FlagId) :
    (s.modBank b f).flagSet g = s.flagSet g := rfl
@[simp] theorem State.modBank_trackDone (s : State) (b : BankId) (f : Bank → Bank) (j : TrackId) :
    (s.modBank b f).trackDone j = s.trackDone j := rfl
@[simp] theorem State.modBank_isReleased (s : State) (b : BankId) (f : Bank → Bank) (j : TrackId) :
    (s.modBank b f).isReleased j = s.isReleased j := rfl

/-! ### `State.setTrigger` -/

@[simp] theorem State.setTrigger_held (s : State) (n : LineId) (x : TriggerLine) :
    (s.setTrigger n x).held = s.held := rfl
@[simp] theorem State.setTrigger_link (s : State) (n : LineId) (x : TriggerLine) :
    (s.setTrigger n x).link = s.link := rfl
@[simp] theorem State.setTrigger_notices (s : State) (n : LineId) (x : TriggerLine) :
    (s.setTrigger n x).notices = s.notices := rfl
@[simp] theorem State.setTrigger_timeline (s : State) (n : LineId) (x : TriggerLine) :
    (s.setTrigger n x).timeline = s.timeline := rfl
@[simp] theorem State.setTrigger_cue (s : State) (n : LineId) (x : TriggerLine) :
    (s.setTrigger n x).cue = s.cue := rfl
@[simp] theorem State.setTrigger_flags (s : State) (n : LineId) (x : TriggerLine) :
    (s.setTrigger n x).flags = s.flags := rfl
@[simp] theorem State.setTrigger_tracks (s : State) (n : LineId) (x : TriggerLine) :
    (s.setTrigger n x).tracks = s.tracks := rfl
@[simp] theorem State.setTrigger_slotSeq (s : State) (n : LineId) (x : TriggerLine) :
    (s.setTrigger n x).slotSeq = s.slotSeq := rfl
@[simp] theorem State.setTrigger_ports (s : State) (n : LineId) (x : TriggerLine) :
    (s.setTrigger n x).ports = s.ports := rfl
@[simp] theorem State.setTrigger_store (s : State) (n : LineId) (x : TriggerLine) :
    (s.setTrigger n x).store = s.store := rfl
@[simp] theorem State.setTrigger_banks (s : State) (n : LineId) (x : TriggerLine) :
    (s.setTrigger n x).banks = s.banks := rfl
@[simp] theorem State.setTrigger_work (s : State) (n : LineId) (x : TriggerLine) :
    (s.setTrigger n x).work = s.work := rfl
@[simp] theorem State.setTrigger_pending (s : State) (n : LineId) (x : TriggerLine) :
    (s.setTrigger n x).pending = s.pending := rfl
@[simp] theorem State.setTrigger_track (s : State) (n : LineId) (x : TriggerLine) (j : TrackId) :
    (s.setTrigger n x).track j = s.track j := rfl
@[simp] theorem State.setTrigger_port (s : State) (n : LineId) (x : TriggerLine) (q : PortId) :
    (s.setTrigger n x).port q = s.port q := rfl
@[simp] theorem State.setTrigger_bank (s : State) (n : LineId) (x : TriggerLine) (d : BankId) :
    (s.setTrigger n x).bank d = s.bank d := rfl
@[simp] theorem State.setTrigger_clip (s : State) (n : LineId) (x : TriggerLine) (d : ClipId) :
    (s.setTrigger n x).clip d = s.clip d := rfl
@[simp] theorem State.setTrigger_sector (s : State) (n : LineId) (x : TriggerLine) (d : BankId) (k : Nat) :
    (s.setTrigger n x).sector d k = s.sector d k := rfl
@[simp] theorem State.setTrigger_notice (s : State) (n : LineId) (x : TriggerLine) (k : SourceId) :
    (s.setTrigger n x).notice k = s.notice k := rfl
@[simp] theorem State.setTrigger_cueEntry (s : State) (n : LineId) (x : TriggerLine) (k : CueIndex) :
    (s.setTrigger n x).cueEntry k = s.cueEntry k := rfl
@[simp] theorem State.setTrigger_flagSet (s : State) (n : LineId) (x : TriggerLine) (g : FlagId) :
    (s.setTrigger n x).flagSet g = s.flagSet g := rfl
@[simp] theorem State.setTrigger_trackDone (s : State) (n : LineId) (x : TriggerLine) (j : TrackId) :
    (s.setTrigger n x).trackDone j = s.trackDone j := rfl
@[simp] theorem State.setTrigger_isReleased (s : State) (n : LineId) (x : TriggerLine) (j : TrackId) :
    (s.setTrigger n x).isReleased j = s.isReleased j := rfl

/-! ### `State.setMarker` -/

@[simp] theorem State.setMarker_held (s : State) (m : LineId) (x : MarkerLine) :
    (s.setMarker m x).held = s.held := rfl
@[simp] theorem State.setMarker_link (s : State) (m : LineId) (x : MarkerLine) :
    (s.setMarker m x).link = s.link := rfl
@[simp] theorem State.setMarker_notices (s : State) (m : LineId) (x : MarkerLine) :
    (s.setMarker m x).notices = s.notices := rfl
@[simp] theorem State.setMarker_timeline (s : State) (m : LineId) (x : MarkerLine) :
    (s.setMarker m x).timeline = s.timeline := rfl
@[simp] theorem State.setMarker_cue (s : State) (m : LineId) (x : MarkerLine) : (s.setMarker m x).cue = s.cue := rfl
@[simp] theorem State.setMarker_flags (s : State) (m : LineId) (x : MarkerLine) :
    (s.setMarker m x).flags = s.flags := rfl
@[simp] theorem State.setMarker_tracks (s : State) (m : LineId) (x : MarkerLine) :
    (s.setMarker m x).tracks = s.tracks := rfl
@[simp] theorem State.setMarker_slotSeq (s : State) (m : LineId) (x : MarkerLine) :
    (s.setMarker m x).slotSeq = s.slotSeq := rfl
@[simp] theorem State.setMarker_ports (s : State) (m : LineId) (x : MarkerLine) :
    (s.setMarker m x).ports = s.ports := rfl
@[simp] theorem State.setMarker_store (s : State) (m : LineId) (x : MarkerLine) :
    (s.setMarker m x).store = s.store := rfl
@[simp] theorem State.setMarker_banks (s : State) (m : LineId) (x : MarkerLine) :
    (s.setMarker m x).banks = s.banks := rfl
@[simp] theorem State.setMarker_work (s : State) (m : LineId) (x : MarkerLine) :
    (s.setMarker m x).work = s.work := rfl
@[simp] theorem State.setMarker_pending (s : State) (m : LineId) (x : MarkerLine) :
    (s.setMarker m x).pending = s.pending := rfl
@[simp] theorem State.setMarker_track (s : State) (m : LineId) (x : MarkerLine) (j : TrackId) :
    (s.setMarker m x).track j = s.track j := rfl
@[simp] theorem State.setMarker_port (s : State) (m : LineId) (x : MarkerLine) (q : PortId) :
    (s.setMarker m x).port q = s.port q := rfl
@[simp] theorem State.setMarker_bank (s : State) (m : LineId) (x : MarkerLine) (d : BankId) :
    (s.setMarker m x).bank d = s.bank d := rfl
@[simp] theorem State.setMarker_clip (s : State) (m : LineId) (x : MarkerLine) (d : ClipId) :
    (s.setMarker m x).clip d = s.clip d := rfl
@[simp] theorem State.setMarker_sector (s : State) (m : LineId) (x : MarkerLine) (d : BankId) (k : Nat) :
    (s.setMarker m x).sector d k = s.sector d k := rfl
@[simp] theorem State.setMarker_notice (s : State) (m : LineId) (x : MarkerLine) (k : SourceId) :
    (s.setMarker m x).notice k = s.notice k := rfl
@[simp] theorem State.setMarker_cueEntry (s : State) (m : LineId) (x : MarkerLine) (k : CueIndex) :
    (s.setMarker m x).cueEntry k = s.cueEntry k := rfl
@[simp] theorem State.setMarker_flagSet (s : State) (m : LineId) (x : MarkerLine) (g : FlagId) :
    (s.setMarker m x).flagSet g = s.flagSet g := rfl
@[simp] theorem State.setMarker_trackDone (s : State) (m : LineId) (x : MarkerLine) (j : TrackId) :
    (s.setMarker m x).trackDone j = s.trackDone j := rfl
@[simp] theorem State.setMarker_isReleased (s : State) (m : LineId) (x : MarkerLine) (j : TrackId) :
    (s.setMarker m x).isReleased j = s.isReleased j := rfl

/-! ### `State.setClip` -/

@[simp] theorem State.setClip_held (s : State) (c : ClipId) (r : ClipRecord) : (s.setClip c r).held = s.held := rfl
@[simp] theorem State.setClip_link (s : State) (c : ClipId) (r : ClipRecord) : (s.setClip c r).link = s.link := rfl
@[simp] theorem State.setClip_notices (s : State) (c : ClipId) (r : ClipRecord) :
    (s.setClip c r).notices = s.notices := rfl
@[simp] theorem State.setClip_timeline (s : State) (c : ClipId) (r : ClipRecord) :
    (s.setClip c r).timeline = s.timeline := rfl
@[simp] theorem State.setClip_cue (s : State) (c : ClipId) (r : ClipRecord) : (s.setClip c r).cue = s.cue := rfl
@[simp] theorem State.setClip_flags (s : State) (c : ClipId) (r : ClipRecord) : (s.setClip c r).flags = s.flags := rfl
@[simp] theorem State.setClip_tracks (s : State) (c : ClipId) (r : ClipRecord) :
    (s.setClip c r).tracks = s.tracks := rfl
@[simp] theorem State.setClip_slotSeq (s : State) (c : ClipId) (r : ClipRecord) :
    (s.setClip c r).slotSeq = s.slotSeq := rfl
@[simp] theorem State.setClip_ports (s : State) (c : ClipId) (r : ClipRecord) : (s.setClip c r).ports = s.ports := rfl
@[simp] theorem State.setClip_banks (s : State) (c : ClipId) (r : ClipRecord) : (s.setClip c r).banks = s.banks := rfl
@[simp] theorem State.setClip_lines (s : State) (c : ClipId) (r : ClipRecord) : (s.setClip c r).lines = s.lines := rfl
@[simp] theorem State.setClip_work (s : State) (c : ClipId) (r : ClipRecord) : (s.setClip c r).work = s.work := rfl
@[simp] theorem State.setClip_pending (s : State) (c : ClipId) (r : ClipRecord) :
    (s.setClip c r).pending = s.pending := rfl
@[simp] theorem State.setClip_track (s : State) (c : ClipId) (r : ClipRecord) (j : TrackId) :
    (s.setClip c r).track j = s.track j := rfl
@[simp] theorem State.setClip_port (s : State) (c : ClipId) (r : ClipRecord) (q : PortId) :
    (s.setClip c r).port q = s.port q := rfl
@[simp] theorem State.setClip_bank (s : State) (c : ClipId) (r : ClipRecord) (d : BankId) :
    (s.setClip c r).bank d = s.bank d := rfl
@[simp] theorem State.setClip_trigger (s : State) (c : ClipId) (r : ClipRecord) (k : LineId) :
    (s.setClip c r).trigger k = s.trigger k := rfl
@[simp] theorem State.setClip_marker (s : State) (c : ClipId) (r : ClipRecord) (k : LineId) :
    (s.setClip c r).marker k = s.marker k := rfl
@[simp] theorem State.setClip_notice (s : State) (c : ClipId) (r : ClipRecord) (k : SourceId) :
    (s.setClip c r).notice k = s.notice k := rfl
@[simp] theorem State.setClip_cueEntry (s : State) (c : ClipId) (r : ClipRecord) (k : CueIndex) :
    (s.setClip c r).cueEntry k = s.cueEntry k := rfl
@[simp] theorem State.setClip_flagSet (s : State) (c : ClipId) (r : ClipRecord) (g : FlagId) :
    (s.setClip c r).flagSet g = s.flagSet g := rfl
@[simp] theorem State.setClip_trackDone (s : State) (c : ClipId) (r : ClipRecord) (j : TrackId) :
    (s.setClip c r).trackDone j = s.trackDone j := rfl
@[simp] theorem State.setClip_isReleased (s : State) (c : ClipId) (r : ClipRecord) (j : TrackId) :
    (s.setClip c r).isReleased j = s.isReleased j := rfl

/-! ### `State.setSector` -/

@[simp] theorem State.setSector_held (s : State) (b : BankId) (n : Nat) (x : SectorState) :
    (s.setSector b n x).held = s.held := rfl
@[simp] theorem State.setSector_link (s : State) (b : BankId) (n : Nat) (x : SectorState) :
    (s.setSector b n x).link = s.link := rfl
@[simp] theorem State.setSector_notices (s : State) (b : BankId) (n : Nat) (x : SectorState) :
    (s.setSector b n x).notices = s.notices := rfl
@[simp] theorem State.setSector_timeline (s : State) (b : BankId) (n : Nat) (x : SectorState) :
    (s.setSector b n x).timeline = s.timeline := rfl
@[simp] theorem State.setSector_cue (s : State) (b : BankId) (n : Nat) (x : SectorState) :
    (s.setSector b n x).cue = s.cue := rfl
@[simp] theorem State.setSector_flags (s : State) (b : BankId) (n : Nat) (x : SectorState) :
    (s.setSector b n x).flags = s.flags := rfl
@[simp] theorem State.setSector_tracks (s : State) (b : BankId) (n : Nat) (x : SectorState) :
    (s.setSector b n x).tracks = s.tracks := rfl
@[simp] theorem State.setSector_slotSeq (s : State) (b : BankId) (n : Nat) (x : SectorState) :
    (s.setSector b n x).slotSeq = s.slotSeq := rfl
@[simp] theorem State.setSector_ports (s : State) (b : BankId) (n : Nat) (x : SectorState) :
    (s.setSector b n x).ports = s.ports := rfl
@[simp] theorem State.setSector_banks (s : State) (b : BankId) (n : Nat) (x : SectorState) :
    (s.setSector b n x).banks = s.banks := rfl
@[simp] theorem State.setSector_lines (s : State) (b : BankId) (n : Nat) (x : SectorState) :
    (s.setSector b n x).lines = s.lines := rfl
@[simp] theorem State.setSector_work (s : State) (b : BankId) (n : Nat) (x : SectorState) :
    (s.setSector b n x).work = s.work := rfl
@[simp] theorem State.setSector_pending (s : State) (b : BankId) (n : Nat) (x : SectorState) :
    (s.setSector b n x).pending = s.pending := rfl
@[simp] theorem State.setSector_track (s : State) (b : BankId) (n : Nat) (x : SectorState) (j : TrackId) :
    (s.setSector b n x).track j = s.track j := rfl
@[simp] theorem State.setSector_port (s : State) (b : BankId) (n : Nat) (x : SectorState) (q : PortId) :
    (s.setSector b n x).port q = s.port q := rfl
@[simp] theorem State.setSector_bank (s : State) (b : BankId) (n : Nat) (x : SectorState) (d : BankId) :
    (s.setSector b n x).bank d = s.bank d := rfl
@[simp] theorem State.setSector_trigger (s : State) (b : BankId) (n : Nat) (x : SectorState) (k : LineId) :
    (s.setSector b n x).trigger k = s.trigger k := rfl
@[simp] theorem State.setSector_marker (s : State) (b : BankId) (n : Nat) (x : SectorState) (k : LineId) :
    (s.setSector b n x).marker k = s.marker k := rfl
@[simp] theorem State.setSector_notice (s : State) (b : BankId) (n : Nat) (x : SectorState) (k : SourceId) :
    (s.setSector b n x).notice k = s.notice k := rfl
@[simp] theorem State.setSector_cueEntry (s : State) (b : BankId) (n : Nat) (x : SectorState) (k : CueIndex) :
    (s.setSector b n x).cueEntry k = s.cueEntry k := rfl
@[simp] theorem State.setSector_flagSet (s : State) (b : BankId) (n : Nat) (x : SectorState) (g : FlagId) :
    (s.setSector b n x).flagSet g = s.flagSet g := rfl
@[simp] theorem State.setSector_trackDone (s : State) (b : BankId) (n : Nat) (x : SectorState) (j : TrackId) :
    (s.setSector b n x).trackDone j = s.trackDone j := rfl
@[simp] theorem State.setSector_isReleased (s : State) (b : BankId) (n : Nat) (x : SectorState) (j : TrackId) :
    (s.setSector b n x).isReleased j = s.isReleased j := rfl

/-! ### `State.setNotice` -/

@[simp] theorem State.setNotice_held (s : State) (n : SourceId) (r : Option Notice) :
    (s.setNotice n r).held = s.held := rfl
@[simp] theorem State.setNotice_link (s : State) (n : SourceId) (r : Option Notice) :
    (s.setNotice n r).link = s.link := rfl
@[simp] theorem State.setNotice_timeline (s : State) (n : SourceId) (r : Option Notice) :
    (s.setNotice n r).timeline = s.timeline := rfl
@[simp] theorem State.setNotice_cue (s : State) (n : SourceId) (r : Option Notice) :
    (s.setNotice n r).cue = s.cue := rfl
@[simp] theorem State.setNotice_flags (s : State) (n : SourceId) (r : Option Notice) :
    (s.setNotice n r).flags = s.flags := rfl
@[simp] theorem State.setNotice_tracks (s : State) (n : SourceId) (r : Option Notice) :
    (s.setNotice n r).tracks = s.tracks := rfl
@[simp] theorem State.setNotice_slotSeq (s : State) (n : SourceId) (r : Option Notice) :
    (s.setNotice n r).slotSeq = s.slotSeq := rfl
@[simp] theorem State.setNotice_ports (s : State) (n : SourceId) (r : Option Notice) :
    (s.setNotice n r).ports = s.ports := rfl
@[simp] theorem State.setNotice_store (s : State) (n : SourceId) (r : Option Notice) :
    (s.setNotice n r).store = s.store := rfl
@[simp] theorem State.setNotice_banks (s : State) (n : SourceId) (r : Option Notice) :
    (s.setNotice n r).banks = s.banks := rfl
@[simp] theorem State.setNotice_lines (s : State) (n : SourceId) (r : Option Notice) :
    (s.setNotice n r).lines = s.lines := rfl
@[simp] theorem State.setNotice_work (s : State) (n : SourceId) (r : Option Notice) :
    (s.setNotice n r).work = s.work := rfl
@[simp] theorem State.setNotice_pending (s : State) (n : SourceId) (r : Option Notice) :
    (s.setNotice n r).pending = s.pending := rfl
@[simp] theorem State.setNotice_track (s : State) (n : SourceId) (r : Option Notice) (j : TrackId) :
    (s.setNotice n r).track j = s.track j := rfl
@[simp] theorem State.setNotice_port (s : State) (n : SourceId) (r : Option Notice) (q : PortId) :
    (s.setNotice n r).port q = s.port q := rfl
@[simp] theorem State.setNotice_bank (s : State) (n : SourceId) (r : Option Notice) (d : BankId) :
    (s.setNotice n r).bank d = s.bank d := rfl
@[simp] theorem State.setNotice_trigger (s : State) (n : SourceId) (r : Option Notice) (k : LineId) :
    (s.setNotice n r).trigger k = s.trigger k := rfl
@[simp] theorem State.setNotice_marker (s : State) (n : SourceId) (r : Option Notice) (k : LineId) :
    (s.setNotice n r).marker k = s.marker k := rfl
@[simp] theorem State.setNotice_clip (s : State) (n : SourceId) (r : Option Notice) (d : ClipId) :
    (s.setNotice n r).clip d = s.clip d := rfl
@[simp] theorem State.setNotice_sector (s : State) (n : SourceId) (r : Option Notice) (d : BankId) (k : Nat) :
    (s.setNotice n r).sector d k = s.sector d k := rfl
@[simp] theorem State.setNotice_cueEntry (s : State) (n : SourceId) (r : Option Notice) (k : CueIndex) :
    (s.setNotice n r).cueEntry k = s.cueEntry k := rfl
@[simp] theorem State.setNotice_flagSet (s : State) (n : SourceId) (r : Option Notice) (g : FlagId) :
    (s.setNotice n r).flagSet g = s.flagSet g := rfl
@[simp] theorem State.setNotice_trackDone (s : State) (n : SourceId) (r : Option Notice) (j : TrackId) :
    (s.setNotice n r).trackDone j = s.trackDone j := rfl
@[simp] theorem State.setNotice_isReleased (s : State) (n : SourceId) (r : Option Notice) (j : TrackId) :
    (s.setNotice n r).isReleased j = s.isReleased j := rfl

/-! ### `State.raise` -/

@[simp] theorem State.raise_held (s : State) (n : SourceId) (c : Cause) : (s.raise n c).held = s.held := rfl
@[simp] theorem State.raise_link (s : State) (n : SourceId) (c : Cause) : (s.raise n c).link = s.link := rfl
@[simp] theorem State.raise_timeline (s : State) (n : SourceId) (c : Cause) :
    (s.raise n c).timeline = s.timeline := rfl
@[simp] theorem State.raise_cue (s : State) (n : SourceId) (c : Cause) : (s.raise n c).cue = s.cue := rfl
@[simp] theorem State.raise_flags (s : State) (n : SourceId) (c : Cause) : (s.raise n c).flags = s.flags := rfl
@[simp] theorem State.raise_tracks (s : State) (n : SourceId) (c : Cause) : (s.raise n c).tracks = s.tracks := rfl
@[simp] theorem State.raise_slotSeq (s : State) (n : SourceId) (c : Cause) : (s.raise n c).slotSeq = s.slotSeq := rfl
@[simp] theorem State.raise_ports (s : State) (n : SourceId) (c : Cause) : (s.raise n c).ports = s.ports := rfl
@[simp] theorem State.raise_store (s : State) (n : SourceId) (c : Cause) : (s.raise n c).store = s.store := rfl
@[simp] theorem State.raise_banks (s : State) (n : SourceId) (c : Cause) : (s.raise n c).banks = s.banks := rfl
@[simp] theorem State.raise_lines (s : State) (n : SourceId) (c : Cause) : (s.raise n c).lines = s.lines := rfl
@[simp] theorem State.raise_work (s : State) (n : SourceId) (c : Cause) : (s.raise n c).work = s.work := rfl
@[simp] theorem State.raise_pending (s : State) (n : SourceId) (c : Cause) : (s.raise n c).pending = s.pending := rfl
@[simp] theorem State.raise_track (s : State) (n : SourceId) (c : Cause) (j : TrackId) :
    (s.raise n c).track j = s.track j := rfl
@[simp] theorem State.raise_port (s : State) (n : SourceId) (c : Cause) (q : PortId) :
    (s.raise n c).port q = s.port q := rfl
@[simp] theorem State.raise_bank (s : State) (n : SourceId) (c : Cause) (d : BankId) :
    (s.raise n c).bank d = s.bank d := rfl
@[simp] theorem State.raise_trigger (s : State) (n : SourceId) (c : Cause) (k : LineId) :
    (s.raise n c).trigger k = s.trigger k := rfl
@[simp] theorem State.raise_marker (s : State) (n : SourceId) (c : Cause) (k : LineId) :
    (s.raise n c).marker k = s.marker k := rfl
@[simp] theorem State.raise_clip (s : State) (n : SourceId) (c : Cause) (d : ClipId) :
    (s.raise n c).clip d = s.clip d := rfl
@[simp] theorem State.raise_sector (s : State) (n : SourceId) (c : Cause) (d : BankId) (k : Nat) :
    (s.raise n c).sector d k = s.sector d k := rfl
@[simp] theorem State.raise_cueEntry (s : State) (n : SourceId) (c : Cause) (k : CueIndex) :
    (s.raise n c).cueEntry k = s.cueEntry k := rfl
@[simp] theorem State.raise_flagSet (s : State) (n : SourceId) (c : Cause) (g : FlagId) :
    (s.raise n c).flagSet g = s.flagSet g := rfl
@[simp] theorem State.raise_trackDone (s : State) (n : SourceId) (c : Cause) (j : TrackId) :
    (s.raise n c).trackDone j = s.trackDone j := rfl
@[simp] theorem State.raise_isReleased (s : State) (n : SourceId) (c : Cause) (j : TrackId) :
    (s.raise n c).isReleased j = s.isReleased j := rfl

/-! ### `State.setFlag` -/

@[simp] theorem State.setFlag_held (s : State) (f : FlagId) : (s.setFlag f).held = s.held := rfl
@[simp] theorem State.setFlag_link (s : State) (f : FlagId) : (s.setFlag f).link = s.link := rfl
@[simp] theorem State.setFlag_notices (s : State) (f : FlagId) : (s.setFlag f).notices = s.notices := rfl
@[simp] theorem State.setFlag_timeline (s : State) (f : FlagId) : (s.setFlag f).timeline = s.timeline := rfl
@[simp] theorem State.setFlag_cue (s : State) (f : FlagId) : (s.setFlag f).cue = s.cue := rfl
@[simp] theorem State.setFlag_tracks (s : State) (f : FlagId) : (s.setFlag f).tracks = s.tracks := rfl
@[simp] theorem State.setFlag_slotSeq (s : State) (f : FlagId) : (s.setFlag f).slotSeq = s.slotSeq := rfl
@[simp] theorem State.setFlag_ports (s : State) (f : FlagId) : (s.setFlag f).ports = s.ports := rfl
@[simp] theorem State.setFlag_store (s : State) (f : FlagId) : (s.setFlag f).store = s.store := rfl
@[simp] theorem State.setFlag_banks (s : State) (f : FlagId) : (s.setFlag f).banks = s.banks := rfl
@[simp] theorem State.setFlag_lines (s : State) (f : FlagId) : (s.setFlag f).lines = s.lines := rfl
@[simp] theorem State.setFlag_work (s : State) (f : FlagId) : (s.setFlag f).work = s.work := rfl
@[simp] theorem State.setFlag_pending (s : State) (f : FlagId) : (s.setFlag f).pending = s.pending := rfl
@[simp] theorem State.setFlag_track (s : State) (f : FlagId) (j : TrackId) :
    (s.setFlag f).track j = s.track j := rfl
@[simp] theorem State.setFlag_port (s : State) (f : FlagId) (q : PortId) :
    (s.setFlag f).port q = s.port q := rfl
@[simp] theorem State.setFlag_bank (s : State) (f : FlagId) (d : BankId) :
    (s.setFlag f).bank d = s.bank d := rfl
@[simp] theorem State.setFlag_trigger (s : State) (f : FlagId) (k : LineId) :
    (s.setFlag f).trigger k = s.trigger k := rfl
@[simp] theorem State.setFlag_marker (s : State) (f : FlagId) (k : LineId) :
    (s.setFlag f).marker k = s.marker k := rfl
@[simp] theorem State.setFlag_clip (s : State) (f : FlagId) (d : ClipId) :
    (s.setFlag f).clip d = s.clip d := rfl
@[simp] theorem State.setFlag_sector (s : State) (f : FlagId) (d : BankId) (k : Nat) :
    (s.setFlag f).sector d k = s.sector d k := rfl
@[simp] theorem State.setFlag_notice (s : State) (f : FlagId) (k : SourceId) :
    (s.setFlag f).notice k = s.notice k := rfl
@[simp] theorem State.setFlag_cueEntry (s : State) (f : FlagId) (k : CueIndex) :
    (s.setFlag f).cueEntry k = s.cueEntry k := rfl
@[simp] theorem State.setFlag_trackDone (s : State) (f : FlagId) (j : TrackId) :
    (s.setFlag f).trackDone j = s.trackDone j := rfl
@[simp] theorem State.setFlag_isReleased (s : State) (f : FlagId) (j : TrackId) :
    (s.setFlag f).isReleased j = s.isReleased j := rfl

/-! ### `State.clearFlag` -/

@[simp] theorem State.clearFlag_held (s : State) (f : FlagId) : (s.clearFlag f).held = s.held := rfl
@[simp] theorem State.clearFlag_link (s : State) (f : FlagId) : (s.clearFlag f).link = s.link := rfl
@[simp] theorem State.clearFlag_notices (s : State) (f : FlagId) : (s.clearFlag f).notices = s.notices := rfl
@[simp] theorem State.clearFlag_timeline (s : State) (f : FlagId) : (s.clearFlag f).timeline = s.timeline := rfl
@[simp] theorem State.clearFlag_cue (s : State) (f : FlagId) : (s.clearFlag f).cue = s.cue := rfl
@[simp] theorem State.clearFlag_tracks (s : State) (f : FlagId) : (s.clearFlag f).tracks = s.tracks := rfl
@[simp] theorem State.clearFlag_slotSeq (s : State) (f : FlagId) : (s.clearFlag f).slotSeq = s.slotSeq := rfl
@[simp] theorem State.clearFlag_ports (s : State) (f : FlagId) : (s.clearFlag f).ports = s.ports := rfl
@[simp] theorem State.clearFlag_store (s : State) (f : FlagId) : (s.clearFlag f).store = s.store := rfl
@[simp] theorem State.clearFlag_banks (s : State) (f : FlagId) : (s.clearFlag f).banks = s.banks := rfl
@[simp] theorem State.clearFlag_lines (s : State) (f : FlagId) : (s.clearFlag f).lines = s.lines := rfl
@[simp] theorem State.clearFlag_work (s : State) (f : FlagId) : (s.clearFlag f).work = s.work := rfl
@[simp] theorem State.clearFlag_pending (s : State) (f : FlagId) : (s.clearFlag f).pending = s.pending := rfl
@[simp] theorem State.clearFlag_track (s : State) (f : FlagId) (j : TrackId) :
    (s.clearFlag f).track j = s.track j := rfl
@[simp] theorem State.clearFlag_port (s : State) (f : FlagId) (q : PortId) :
    (s.clearFlag f).port q = s.port q := rfl
@[simp] theorem State.clearFlag_bank (s : State) (f : FlagId) (d : BankId) :
    (s.clearFlag f).bank d = s.bank d := rfl
@[simp] theorem State.clearFlag_trigger (s : State) (f : FlagId) (k : LineId) :
    (s.clearFlag f).trigger k = s.trigger k := rfl
@[simp] theorem State.clearFlag_marker (s : State) (f : FlagId) (k : LineId) :
    (s.clearFlag f).marker k = s.marker k := rfl
@[simp] theorem State.clearFlag_clip (s : State) (f : FlagId) (d : ClipId) :
    (s.clearFlag f).clip d = s.clip d := rfl
@[simp] theorem State.clearFlag_sector (s : State) (f : FlagId) (d : BankId) (k : Nat) :
    (s.clearFlag f).sector d k = s.sector d k := rfl
@[simp] theorem State.clearFlag_notice (s : State) (f : FlagId) (k : SourceId) :
    (s.clearFlag f).notice k = s.notice k := rfl
@[simp] theorem State.clearFlag_cueEntry (s : State) (f : FlagId) (k : CueIndex) :
    (s.clearFlag f).cueEntry k = s.cueEntry k := rfl
@[simp] theorem State.clearFlag_trackDone (s : State) (f : FlagId) (j : TrackId) :
    (s.clearFlag f).trackDone j = s.trackDone j := rfl
@[simp] theorem State.clearFlag_isReleased (s : State) (f : FlagId) (j : TrackId) :
    (s.clearFlag f).isReleased j = s.isReleased j := rfl

/-! ### `State.markTrack` -/

@[simp] theorem State.markTrack_held (s : State) (t : TrackId) : (s.markTrack t).held = s.held := rfl
@[simp] theorem State.markTrack_link (s : State) (t : TrackId) : (s.markTrack t).link = s.link := rfl
@[simp] theorem State.markTrack_notices (s : State) (t : TrackId) : (s.markTrack t).notices = s.notices := rfl
@[simp] theorem State.markTrack_timeline (s : State) (t : TrackId) : (s.markTrack t).timeline = s.timeline := rfl
@[simp] theorem State.markTrack_cue (s : State) (t : TrackId) : (s.markTrack t).cue = s.cue := rfl
@[simp] theorem State.markTrack_flags (s : State) (t : TrackId) : (s.markTrack t).flags = s.flags := rfl
@[simp] theorem State.markTrack_tracks (s : State) (t : TrackId) : (s.markTrack t).tracks = s.tracks := rfl
@[simp] theorem State.markTrack_slotSeq (s : State) (t : TrackId) : (s.markTrack t).slotSeq = s.slotSeq := rfl
@[simp] theorem State.markTrack_ports (s : State) (t : TrackId) : (s.markTrack t).ports = s.ports := rfl
@[simp] theorem State.markTrack_store (s : State) (t : TrackId) : (s.markTrack t).store = s.store := rfl
@[simp] theorem State.markTrack_banks (s : State) (t : TrackId) : (s.markTrack t).banks = s.banks := rfl
@[simp] theorem State.markTrack_lines (s : State) (t : TrackId) : (s.markTrack t).lines = s.lines := rfl
@[simp] theorem State.markTrack_pending (s : State) (t : TrackId) : (s.markTrack t).pending = s.pending := rfl
@[simp] theorem State.markTrack_track (s : State) (t : TrackId) (j : TrackId) :
    (s.markTrack t).track j = s.track j := rfl
@[simp] theorem State.markTrack_port (s : State) (t : TrackId) (q : PortId) :
    (s.markTrack t).port q = s.port q := rfl
@[simp] theorem State.markTrack_bank (s : State) (t : TrackId) (d : BankId) :
    (s.markTrack t).bank d = s.bank d := rfl
@[simp] theorem State.markTrack_trigger (s : State) (t : TrackId) (k : LineId) :
    (s.markTrack t).trigger k = s.trigger k := rfl
@[simp] theorem State.markTrack_marker (s : State) (t : TrackId) (k : LineId) :
    (s.markTrack t).marker k = s.marker k := rfl
@[simp] theorem State.markTrack_clip (s : State) (t : TrackId) (d : ClipId) :
    (s.markTrack t).clip d = s.clip d := rfl
@[simp] theorem State.markTrack_sector (s : State) (t : TrackId) (d : BankId) (k : Nat) :
    (s.markTrack t).sector d k = s.sector d k := rfl
@[simp] theorem State.markTrack_notice (s : State) (t : TrackId) (k : SourceId) :
    (s.markTrack t).notice k = s.notice k := rfl
@[simp] theorem State.markTrack_cueEntry (s : State) (t : TrackId) (k : CueIndex) :
    (s.markTrack t).cueEntry k = s.cueEntry k := rfl
@[simp] theorem State.markTrack_flagSet (s : State) (t : TrackId) (g : FlagId) :
    (s.markTrack t).flagSet g = s.flagSet g := rfl

/-! ### `State.markReleased` -/

@[simp] theorem State.markReleased_held (s : State) (t : TrackId) : (s.markReleased t).held = s.held := rfl
@[simp] theorem State.markReleased_link (s : State) (t : TrackId) : (s.markReleased t).link = s.link := rfl
@[simp] theorem State.markReleased_notices (s : State) (t : TrackId) : (s.markReleased t).notices = s.notices := rfl
@[simp] theorem State.markReleased_timeline (s : State) (t : TrackId) :
    (s.markReleased t).timeline = s.timeline := rfl
@[simp] theorem State.markReleased_cue (s : State) (t : TrackId) : (s.markReleased t).cue = s.cue := rfl
@[simp] theorem State.markReleased_flags (s : State) (t : TrackId) : (s.markReleased t).flags = s.flags := rfl
@[simp] theorem State.markReleased_tracks (s : State) (t : TrackId) : (s.markReleased t).tracks = s.tracks := rfl
@[simp] theorem State.markReleased_slotSeq (s : State) (t : TrackId) : (s.markReleased t).slotSeq = s.slotSeq := rfl
@[simp] theorem State.markReleased_ports (s : State) (t : TrackId) : (s.markReleased t).ports = s.ports := rfl
@[simp] theorem State.markReleased_store (s : State) (t : TrackId) : (s.markReleased t).store = s.store := rfl
@[simp] theorem State.markReleased_banks (s : State) (t : TrackId) : (s.markReleased t).banks = s.banks := rfl
@[simp] theorem State.markReleased_lines (s : State) (t : TrackId) : (s.markReleased t).lines = s.lines := rfl
@[simp] theorem State.markReleased_pending (s : State) (t : TrackId) : (s.markReleased t).pending = s.pending := rfl
@[simp] theorem State.markReleased_track (s : State) (t : TrackId) (j : TrackId) :
    (s.markReleased t).track j = s.track j := rfl
@[simp] theorem State.markReleased_port (s : State) (t : TrackId) (q : PortId) :
    (s.markReleased t).port q = s.port q := rfl
@[simp] theorem State.markReleased_bank (s : State) (t : TrackId) (d : BankId) :
    (s.markReleased t).bank d = s.bank d := rfl
@[simp] theorem State.markReleased_trigger (s : State) (t : TrackId) (k : LineId) :
    (s.markReleased t).trigger k = s.trigger k := rfl
@[simp] theorem State.markReleased_marker (s : State) (t : TrackId) (k : LineId) :
    (s.markReleased t).marker k = s.marker k := rfl
@[simp] theorem State.markReleased_clip (s : State) (t : TrackId) (d : ClipId) :
    (s.markReleased t).clip d = s.clip d := rfl
@[simp] theorem State.markReleased_sector (s : State) (t : TrackId) (d : BankId) (k : Nat) :
    (s.markReleased t).sector d k = s.sector d k := rfl
@[simp] theorem State.markReleased_notice (s : State) (t : TrackId) (k : SourceId) :
    (s.markReleased t).notice k = s.notice k := rfl
@[simp] theorem State.markReleased_cueEntry (s : State) (t : TrackId) (k : CueIndex) :
    (s.markReleased t).cueEntry k = s.cueEntry k := rfl
@[simp] theorem State.markReleased_flagSet (s : State) (t : TrackId) (g : FlagId) :
    (s.markReleased t).flagSet g = s.flagSet g := rfl

/-! ### `State.modLink` -/

@[simp] theorem State.modLink_held (s : State) (f : Link → Link) : (s.modLink f).held = s.held := rfl
@[simp] theorem State.modLink_notices (s : State) (f : Link → Link) : (s.modLink f).notices = s.notices := rfl
@[simp] theorem State.modLink_timeline (s : State) (f : Link → Link) : (s.modLink f).timeline = s.timeline := rfl
@[simp] theorem State.modLink_cue (s : State) (f : Link → Link) : (s.modLink f).cue = s.cue := rfl
@[simp] theorem State.modLink_flags (s : State) (f : Link → Link) : (s.modLink f).flags = s.flags := rfl
@[simp] theorem State.modLink_tracks (s : State) (f : Link → Link) : (s.modLink f).tracks = s.tracks := rfl
@[simp] theorem State.modLink_slotSeq (s : State) (f : Link → Link) : (s.modLink f).slotSeq = s.slotSeq := rfl
@[simp] theorem State.modLink_ports (s : State) (f : Link → Link) : (s.modLink f).ports = s.ports := rfl
@[simp] theorem State.modLink_store (s : State) (f : Link → Link) : (s.modLink f).store = s.store := rfl
@[simp] theorem State.modLink_banks (s : State) (f : Link → Link) : (s.modLink f).banks = s.banks := rfl
@[simp] theorem State.modLink_lines (s : State) (f : Link → Link) : (s.modLink f).lines = s.lines := rfl
@[simp] theorem State.modLink_work (s : State) (f : Link → Link) : (s.modLink f).work = s.work := rfl
@[simp] theorem State.modLink_pending (s : State) (f : Link → Link) : (s.modLink f).pending = s.pending := rfl
@[simp] theorem State.modLink_track (s : State) (f : Link → Link) (j : TrackId) :
    (s.modLink f).track j = s.track j := rfl
@[simp] theorem State.modLink_port (s : State) (f : Link → Link) (q : PortId) :
    (s.modLink f).port q = s.port q := rfl
@[simp] theorem State.modLink_bank (s : State) (f : Link → Link) (d : BankId) :
    (s.modLink f).bank d = s.bank d := rfl
@[simp] theorem State.modLink_trigger (s : State) (f : Link → Link) (k : LineId) :
    (s.modLink f).trigger k = s.trigger k := rfl
@[simp] theorem State.modLink_marker (s : State) (f : Link → Link) (k : LineId) :
    (s.modLink f).marker k = s.marker k := rfl
@[simp] theorem State.modLink_clip (s : State) (f : Link → Link) (d : ClipId) :
    (s.modLink f).clip d = s.clip d := rfl
@[simp] theorem State.modLink_sector (s : State) (f : Link → Link) (d : BankId) (k : Nat) :
    (s.modLink f).sector d k = s.sector d k := rfl
@[simp] theorem State.modLink_notice (s : State) (f : Link → Link) (k : SourceId) :
    (s.modLink f).notice k = s.notice k := rfl
@[simp] theorem State.modLink_cueEntry (s : State) (f : Link → Link) (k : CueIndex) :
    (s.modLink f).cueEntry k = s.cueEntry k := rfl
@[simp] theorem State.modLink_flagSet (s : State) (f : Link → Link) (g : FlagId) :
    (s.modLink f).flagSet g = s.flagSet g := rfl
@[simp] theorem State.modLink_trackDone (s : State) (f : Link → Link) (j : TrackId) :
    (s.modLink f).trackDone j = s.trackDone j := rfl
@[simp] theorem State.modLink_isReleased (s : State) (f : Link → Link) (j : TrackId) :
    (s.modLink f).isReleased j = s.isReleased j := rfl

/-! ### `State.pushAnswer` -/

@[simp] theorem State.pushAnswer_held (s : State) (a : Answer) : (s.pushAnswer a).held = s.held := rfl
@[simp] theorem State.pushAnswer_notices (s : State) (a : Answer) : (s.pushAnswer a).notices = s.notices := rfl
@[simp] theorem State.pushAnswer_timeline (s : State) (a : Answer) : (s.pushAnswer a).timeline = s.timeline := rfl
@[simp] theorem State.pushAnswer_cue (s : State) (a : Answer) : (s.pushAnswer a).cue = s.cue := rfl
@[simp] theorem State.pushAnswer_flags (s : State) (a : Answer) : (s.pushAnswer a).flags = s.flags := rfl
@[simp] theorem State.pushAnswer_tracks (s : State) (a : Answer) : (s.pushAnswer a).tracks = s.tracks := rfl
@[simp] theorem State.pushAnswer_slotSeq (s : State) (a : Answer) : (s.pushAnswer a).slotSeq = s.slotSeq := rfl
@[simp] theorem State.pushAnswer_ports (s : State) (a : Answer) : (s.pushAnswer a).ports = s.ports := rfl
@[simp] theorem State.pushAnswer_store (s : State) (a : Answer) : (s.pushAnswer a).store = s.store := rfl
@[simp] theorem State.pushAnswer_banks (s : State) (a : Answer) : (s.pushAnswer a).banks = s.banks := rfl
@[simp] theorem State.pushAnswer_lines (s : State) (a : Answer) : (s.pushAnswer a).lines = s.lines := rfl
@[simp] theorem State.pushAnswer_work (s : State) (a : Answer) : (s.pushAnswer a).work = s.work := rfl
@[simp] theorem State.pushAnswer_pending (s : State) (a : Answer) : (s.pushAnswer a).pending = s.pending := rfl
@[simp] theorem State.pushAnswer_track (s : State) (a : Answer) (j : TrackId) :
    (s.pushAnswer a).track j = s.track j := rfl
@[simp] theorem State.pushAnswer_port (s : State) (a : Answer) (q : PortId) :
    (s.pushAnswer a).port q = s.port q := rfl
@[simp] theorem State.pushAnswer_bank (s : State) (a : Answer) (d : BankId) :
    (s.pushAnswer a).bank d = s.bank d := rfl
@[simp] theorem State.pushAnswer_trigger (s : State) (a : Answer) (k : LineId) :
    (s.pushAnswer a).trigger k = s.trigger k := rfl
@[simp] theorem State.pushAnswer_marker (s : State) (a : Answer) (k : LineId) :
    (s.pushAnswer a).marker k = s.marker k := rfl
@[simp] theorem State.pushAnswer_clip (s : State) (a : Answer) (d : ClipId) :
    (s.pushAnswer a).clip d = s.clip d := rfl
@[simp] theorem State.pushAnswer_sector (s : State) (a : Answer) (d : BankId) (k : Nat) :
    (s.pushAnswer a).sector d k = s.sector d k := rfl
@[simp] theorem State.pushAnswer_notice (s : State) (a : Answer) (k : SourceId) :
    (s.pushAnswer a).notice k = s.notice k := rfl
@[simp] theorem State.pushAnswer_cueEntry (s : State) (a : Answer) (k : CueIndex) :
    (s.pushAnswer a).cueEntry k = s.cueEntry k := rfl
@[simp] theorem State.pushAnswer_flagSet (s : State) (a : Answer) (g : FlagId) :
    (s.pushAnswer a).flagSet g = s.flagSet g := rfl
@[simp] theorem State.pushAnswer_trackDone (s : State) (a : Answer) (j : TrackId) :
    (s.pushAnswer a).trackDone j = s.trackDone j := rfl
@[simp] theorem State.pushAnswer_isReleased (s : State) (a : Answer) (j : TrackId) :
    (s.pushAnswer a).isReleased j = s.isReleased j := rfl

/-! ### `State.answerFront` -/

@[simp] theorem State.answerFront_held (s : State) (tag : Byte) (code : AnswerCode) (payload : List Byte) :
    (s.answerFront tag code payload).held = s.held := rfl
@[simp] theorem State.answerFront_notices (s : State) (tag : Byte) (code : AnswerCode) (payload : List Byte) :
    (s.answerFront tag code payload).notices = s.notices := rfl
@[simp] theorem State.answerFront_timeline (s : State) (tag : Byte) (code : AnswerCode) (payload : List Byte) :
    (s.answerFront tag code payload).timeline = s.timeline := rfl
@[simp] theorem State.answerFront_cue (s : State) (tag : Byte) (code : AnswerCode) (payload : List Byte) :
    (s.answerFront tag code payload).cue = s.cue := rfl
@[simp] theorem State.answerFront_flags (s : State) (tag : Byte) (code : AnswerCode) (payload : List Byte) :
    (s.answerFront tag code payload).flags = s.flags := rfl
@[simp] theorem State.answerFront_tracks (s : State) (tag : Byte) (code : AnswerCode) (payload : List Byte) :
    (s.answerFront tag code payload).tracks = s.tracks := rfl
@[simp] theorem State.answerFront_slotSeq (s : State) (tag : Byte) (code : AnswerCode) (payload : List Byte) :
    (s.answerFront tag code payload).slotSeq = s.slotSeq := rfl
@[simp] theorem State.answerFront_ports (s : State) (tag : Byte) (code : AnswerCode) (payload : List Byte) :
    (s.answerFront tag code payload).ports = s.ports := rfl
@[simp] theorem State.answerFront_store (s : State) (tag : Byte) (code : AnswerCode) (payload : List Byte) :
    (s.answerFront tag code payload).store = s.store := rfl
@[simp] theorem State.answerFront_banks (s : State) (tag : Byte) (code : AnswerCode) (payload : List Byte) :
    (s.answerFront tag code payload).banks = s.banks := rfl
@[simp] theorem State.answerFront_lines (s : State) (tag : Byte) (code : AnswerCode) (payload : List Byte) :
    (s.answerFront tag code payload).lines = s.lines := rfl
@[simp] theorem State.answerFront_work (s : State) (tag : Byte) (code : AnswerCode) (payload : List Byte) :
    (s.answerFront tag code payload).work = s.work := rfl
@[simp] theorem State.answerFront_pending (s : State) (tag : Byte) (code : AnswerCode) (payload : List Byte) :
    (s.answerFront tag code payload).pending = s.pending := rfl
@[simp] theorem State.answerFront_track (s : State) (tag : Byte) (code : AnswerCode) (payload : List Byte) (j : TrackId) :
    (s.answerFront tag code payload).track j = s.track j := rfl
@[simp] theorem State.answerFront_port (s : State) (tag : Byte) (code : AnswerCode) (payload : List Byte) (q : PortId) :
    (s.answerFront tag code payload).port q = s.port q := rfl
@[simp] theorem State.answerFront_bank (s : State) (tag : Byte) (code : AnswerCode) (payload : List Byte) (d : BankId) :
    (s.answerFront tag code payload).bank d = s.bank d := rfl
@[simp] theorem State.answerFront_trigger (s : State) (tag : Byte) (code : AnswerCode) (payload : List Byte) (k : LineId) :
    (s.answerFront tag code payload).trigger k = s.trigger k := rfl
@[simp] theorem State.answerFront_marker (s : State) (tag : Byte) (code : AnswerCode) (payload : List Byte) (k : LineId) :
    (s.answerFront tag code payload).marker k = s.marker k := rfl
@[simp] theorem State.answerFront_clip (s : State) (tag : Byte) (code : AnswerCode) (payload : List Byte) (d : ClipId) :
    (s.answerFront tag code payload).clip d = s.clip d := rfl
@[simp] theorem State.answerFront_sector (s : State) (tag : Byte) (code : AnswerCode) (payload : List Byte) (d : BankId) (k : Nat) :
    (s.answerFront tag code payload).sector d k = s.sector d k := rfl
@[simp] theorem State.answerFront_notice (s : State) (tag : Byte) (code : AnswerCode) (payload : List Byte) (k : SourceId) :
    (s.answerFront tag code payload).notice k = s.notice k := rfl
@[simp] theorem State.answerFront_cueEntry (s : State) (tag : Byte) (code : AnswerCode) (payload : List Byte) (k : CueIndex) :
    (s.answerFront tag code payload).cueEntry k = s.cueEntry k := rfl
@[simp] theorem State.answerFront_flagSet (s : State) (tag : Byte) (code : AnswerCode) (payload : List Byte) (g : FlagId) :
    (s.answerFront tag code payload).flagSet g = s.flagSet g := rfl
@[simp] theorem State.answerFront_trackDone (s : State) (tag : Byte) (code : AnswerCode) (payload : List Byte) (j : TrackId) :
    (s.answerFront tag code payload).trackDone j = s.trackDone j := rfl
@[simp] theorem State.answerFront_isReleased (s : State) (tag : Byte) (code : AnswerCode) (payload : List Byte) (j : TrackId) :
    (s.answerFront tag code payload).isReleased j = s.isReleased j := rfl

/-! ### `State.setRx` -/

@[simp] theorem State.setRx_held (s : State) (rx : Receiver) : (s.setRx rx).held = s.held := rfl
@[simp] theorem State.setRx_notices (s : State) (rx : Receiver) : (s.setRx rx).notices = s.notices := rfl
@[simp] theorem State.setRx_timeline (s : State) (rx : Receiver) : (s.setRx rx).timeline = s.timeline := rfl
@[simp] theorem State.setRx_cue (s : State) (rx : Receiver) : (s.setRx rx).cue = s.cue := rfl
@[simp] theorem State.setRx_flags (s : State) (rx : Receiver) : (s.setRx rx).flags = s.flags := rfl
@[simp] theorem State.setRx_tracks (s : State) (rx : Receiver) : (s.setRx rx).tracks = s.tracks := rfl
@[simp] theorem State.setRx_slotSeq (s : State) (rx : Receiver) : (s.setRx rx).slotSeq = s.slotSeq := rfl
@[simp] theorem State.setRx_ports (s : State) (rx : Receiver) : (s.setRx rx).ports = s.ports := rfl
@[simp] theorem State.setRx_store (s : State) (rx : Receiver) : (s.setRx rx).store = s.store := rfl
@[simp] theorem State.setRx_banks (s : State) (rx : Receiver) : (s.setRx rx).banks = s.banks := rfl
@[simp] theorem State.setRx_lines (s : State) (rx : Receiver) : (s.setRx rx).lines = s.lines := rfl
@[simp] theorem State.setRx_work (s : State) (rx : Receiver) : (s.setRx rx).work = s.work := rfl
@[simp] theorem State.setRx_pending (s : State) (rx : Receiver) : (s.setRx rx).pending = s.pending := rfl
@[simp] theorem State.setRx_track (s : State) (rx : Receiver) (j : TrackId) :
    (s.setRx rx).track j = s.track j := rfl
@[simp] theorem State.setRx_port (s : State) (rx : Receiver) (q : PortId) :
    (s.setRx rx).port q = s.port q := rfl
@[simp] theorem State.setRx_bank (s : State) (rx : Receiver) (d : BankId) :
    (s.setRx rx).bank d = s.bank d := rfl
@[simp] theorem State.setRx_trigger (s : State) (rx : Receiver) (k : LineId) :
    (s.setRx rx).trigger k = s.trigger k := rfl
@[simp] theorem State.setRx_marker (s : State) (rx : Receiver) (k : LineId) :
    (s.setRx rx).marker k = s.marker k := rfl
@[simp] theorem State.setRx_clip (s : State) (rx : Receiver) (d : ClipId) :
    (s.setRx rx).clip d = s.clip d := rfl
@[simp] theorem State.setRx_sector (s : State) (rx : Receiver) (d : BankId) (k : Nat) :
    (s.setRx rx).sector d k = s.sector d k := rfl
@[simp] theorem State.setRx_notice (s : State) (rx : Receiver) (k : SourceId) :
    (s.setRx rx).notice k = s.notice k := rfl
@[simp] theorem State.setRx_cueEntry (s : State) (rx : Receiver) (k : CueIndex) :
    (s.setRx rx).cueEntry k = s.cueEntry k := rfl
@[simp] theorem State.setRx_flagSet (s : State) (rx : Receiver) (g : FlagId) :
    (s.setRx rx).flagSet g = s.flagSet g := rfl
@[simp] theorem State.setRx_trackDone (s : State) (rx : Receiver) (j : TrackId) :
    (s.setRx rx).trackDone j = s.trackDone j := rfl
@[simp] theorem State.setRx_isReleased (s : State) (rx : Receiver) (j : TrackId) :
    (s.setRx rx).isReleased j = s.isReleased j := rfl

/-! ### Fields within a record that is written -/

@[simp] theorem State.setClip_store_scanning (s : State) (c : ClipId) (r : ClipRecord) :
    (s.setClip c r).store.scanning = s.store.scanning := rfl
@[simp] theorem State.setClip_store_sectors (s : State) (c : ClipId) (r : ClipRecord) :
    (s.setClip c r).store.sectors = s.store.sectors := rfl
@[simp] theorem State.setClip_store_flash (s : State) (c : ClipId) (r : ClipRecord) :
    (s.setClip c r).store.flash = s.store.flash := rfl
@[simp] theorem State.setSector_store_scanning (s : State) (b : BankId) (n : Nat) (x : SectorState) :
    (s.setSector b n x).store.scanning = s.store.scanning := rfl
@[simp] theorem State.setSector_store_clips (s : State) (b : BankId) (n : Nat) (x : SectorState) :
    (s.setSector b n x).store.clips = s.store.clips := rfl
@[simp] theorem State.setSector_store_flash (s : State) (b : BankId) (n : Nat) (x : SectorState) :
    (s.setSector b n x).store.flash = s.store.flash := rfl
@[simp] theorem State.setNotice_notices_levels (s : State) (n : SourceId) (r : Option Notice) :
    (s.setNotice n r).notices.levels = s.notices.levels := rfl
@[simp] theorem State.setNotice_notices_enable (s : State) (n : SourceId) (r : Option Notice) :
    (s.setNotice n r).notices.enable = s.notices.enable := rfl
@[simp] theorem State.raise_notices_levels (s : State) (n : SourceId) (c : Cause) :
    (s.raise n c).notices.levels = s.notices.levels := rfl
@[simp] theorem State.raise_notices_enable (s : State) (n : SourceId) (c : Cause) :
    (s.raise n c).notices.enable = s.notices.enable := rfl
@[simp] theorem State.setTrigger_lines_markers (s : State) (n : LineId) (x : TriggerLine) :
    (s.setTrigger n x).lines.markers = s.lines.markers := rfl
@[simp] theorem State.setTrigger_lines_captures (s : State) (n : LineId) (x : TriggerLine) :
    (s.setTrigger n x).lines.captures = s.lines.captures := rfl
@[simp] theorem State.setTrigger_lines_overrun (s : State) (n : LineId) (x : TriggerLine) :
    (s.setTrigger n x).lines.overrun = s.lines.overrun := rfl
@[simp] theorem State.setMarker_lines_triggers (s : State) (m : LineId) (x : MarkerLine) :
    (s.setMarker m x).lines.triggers = s.lines.triggers := rfl
@[simp] theorem State.setMarker_lines_captures (s : State) (m : LineId) (x : MarkerLine) :
    (s.setMarker m x).lines.captures = s.lines.captures := rfl
@[simp] theorem State.setMarker_lines_overrun (s : State) (m : LineId) (x : MarkerLine) :
    (s.setMarker m x).lines.overrun = s.lines.overrun := rfl
@[simp] theorem State.markTrack_work_timeline (s : State) (t : TrackId) :
    (s.markTrack t).work.timeline = s.work.timeline := rfl
@[simp] theorem State.markTrack_work_flags (s : State) (t : TrackId) :
    (s.markTrack t).work.flags = s.work.flags := rfl
@[simp] theorem State.markTrack_work_released (s : State) (t : TrackId) :
    (s.markTrack t).work.released = s.work.released := rfl
@[simp] theorem State.markReleased_work_tracks (s : State) (t : TrackId) :
    (s.markReleased t).work.tracks = s.work.tracks := rfl
@[simp] theorem State.markReleased_work_flags (s : State) (t : TrackId) :
    (s.markReleased t).work.flags = s.work.flags := rfl
@[simp] theorem State.markReleased_work_timeline (s : State) (t : TrackId) :
    (s.markReleased t).work.timeline = s.work.timeline := rfl
@[simp] theorem State.setClip_sector (s : State) (c : ClipId) (r : ClipRecord) (d : BankId) (k : Nat) :
    (s.setClip c r).sector d k = s.sector d k := rfl
@[simp] theorem State.setSector_clip (s : State) (b : BankId) (n : Nat) (x : SectorState) (d : ClipId) :
    (s.setSector b n x).clip d = s.clip d := rfl
@[simp] theorem State.setTrigger_marker (s : State) (n : LineId) (x : TriggerLine) (k : LineId) :
    (s.setTrigger n x).marker k = s.marker k := rfl
@[simp] theorem State.setMarker_trigger (s : State) (m : LineId) (x : MarkerLine) (k : LineId) :
    (s.setMarker m x).trigger k = s.trigger k := rfl
@[simp] theorem State.markTrack_isReleased (s : State) (t : TrackId) (j : TrackId) :
    (s.markTrack t).isReleased j = s.isReleased j := rfl
@[simp] theorem State.markReleased_trackDone (s : State) (t : TrackId) (j : TrackId) :
    (s.markReleased t).trackDone j = s.trackDone j := rfl

/-! ### A record reads as it was written -/

/-- Record track: the one written reads as written, every other one as before. -/
theorem State.setTrack_track (s : State) (i j : TrackId) (x : Track) :
    (s.setTrack i x).track j = if i = j then x else s.track j := by
  have h : i = j ↔ i.1 = j.1 := Fin.ext_iff
  simp [State.setTrack, State.track, Vector.getElem_set, h]

@[simp] theorem State.setTrack_track_same (s : State) (i : TrackId) (x : Track) : (s.setTrack i x).track i = x := by
  simp [State.setTrack_track]

theorem State.setTrack_track_other (s : State) (i j : TrackId) (x : Track) (h : i ≠ j) :
    (s.setTrack i x).track j = s.track j := by
  simp [State.setTrack_track, h]

/-- Record port: the one written reads as written, every other one as before. -/
theorem State.setPort_port (s : State) (i j : PortId) (x : Port) :
    (s.setPort i x).port j = if i = j then x else s.port j := by
  have h : i = j ↔ i.1 = j.1 := Fin.ext_iff
  simp [State.setPort, State.port, Vector.getElem_set, h]

@[simp] theorem State.setPort_port_same (s : State) (i : PortId) (x : Port) : (s.setPort i x).port i = x := by
  simp [State.setPort_port]

theorem State.setPort_port_other (s : State) (i j : PortId) (x : Port) (h : i ≠ j) :
    (s.setPort i x).port j = s.port j := by
  simp [State.setPort_port, h]

/-- Record bank: the one written reads as written, every other one as before. -/
theorem State.setBank_bank (s : State) (i j : BankId) (x : Bank) :
    (s.setBank i x).bank j = if i = j then x else s.bank j := by
  have h : i = j ↔ i.1 = j.1 := Fin.ext_iff
  simp [State.setBank, State.bank, Vector.getElem_set, h]

@[simp] theorem State.setBank_bank_same (s : State) (i : BankId) (x : Bank) : (s.setBank i x).bank i = x := by
  simp [State.setBank_bank]

theorem State.setBank_bank_other (s : State) (i j : BankId) (x : Bank) (h : i ≠ j) :
    (s.setBank i x).bank j = s.bank j := by
  simp [State.setBank_bank, h]

/-- Record trigger: the one written reads as written, every other one as before. -/
theorem State.setTrigger_trigger (s : State) (i j : LineId) (x : TriggerLine) :
    (s.setTrigger i x).trigger j = if i = j then x else s.trigger j := by
  have h : i = j ↔ i.1 = j.1 := Fin.ext_iff
  simp [State.setTrigger, State.trigger, Vector.getElem_set, h]

@[simp] theorem State.setTrigger_trigger_same (s : State) (i : LineId) (x : TriggerLine) :
    (s.setTrigger i x).trigger i = x := by
  simp [State.setTrigger_trigger]

theorem State.setTrigger_trigger_other (s : State) (i j : LineId) (x : TriggerLine) (h : i ≠ j) :
    (s.setTrigger i x).trigger j = s.trigger j := by
  simp [State.setTrigger_trigger, h]

/-- Record marker: the one written reads as written, every other one as before. -/
theorem State.setMarker_marker (s : State) (i j : LineId) (x : MarkerLine) :
    (s.setMarker i x).marker j = if i = j then x else s.marker j := by
  have h : i = j ↔ i.1 = j.1 := Fin.ext_iff
  simp [State.setMarker, State.marker, Vector.getElem_set, h]

@[simp] theorem State.setMarker_marker_same (s : State) (i : LineId) (x : MarkerLine) :
    (s.setMarker i x).marker i = x := by
  simp [State.setMarker_marker]

theorem State.setMarker_marker_other (s : State) (i j : LineId) (x : MarkerLine) (h : i ≠ j) :
    (s.setMarker i x).marker j = s.marker j := by
  simp [State.setMarker_marker, h]

/-- Record notice: the one written reads as written, every other one as before. -/
theorem State.setNotice_notice (s : State) (i j : SourceId) (x : Option Notice) :
    (s.setNotice i x).notice j = if i = j then x else s.notice j := by
  have h : i = j ↔ i.1 = j.1 := Fin.ext_iff
  simp [State.setNotice, State.notice, Vector.getElem_set, h]

@[simp] theorem State.setNotice_notice_same (s : State) (i : SourceId) (x : Option Notice) :
    (s.setNotice i x).notice i = x := by
  simp [State.setNotice_notice]

theorem State.setNotice_notice_other (s : State) (i j : SourceId) (x : Option Notice) (h : i ≠ j) :
    (s.setNotice i x).notice j = s.notice j := by
  simp [State.setNotice_notice, h]

/-- Record track: the one changed reads as changed, every other one as before. -/
theorem State.modTrack_track (s : State) (i j : TrackId) (f : Track → Track) :
    (s.modTrack i f).track j = if i = j then f (s.track i) else s.track j := State.setTrack_track s i j _

@[simp] theorem State.modTrack_track_same (s : State) (i : TrackId) (f : Track → Track) :
    (s.modTrack i f).track i = f (s.track i) := by
  simp [State.modTrack_track]

theorem State.modTrack_track_other (s : State) (i j : TrackId) (f : Track → Track) (h : i ≠ j) :
    (s.modTrack i f).track j = s.track j := by
  simp [State.modTrack_track, h]

/-- Record port: the one changed reads as changed, every other one as before. -/
theorem State.modPort_port (s : State) (i j : PortId) (f : Port → Port) :
    (s.modPort i f).port j = if i = j then f (s.port i) else s.port j := State.setPort_port s i j _

@[simp] theorem State.modPort_port_same (s : State) (i : PortId) (f : Port → Port) :
    (s.modPort i f).port i = f (s.port i) := by
  simp [State.modPort_port]

theorem State.modPort_port_other (s : State) (i j : PortId) (f : Port → Port) (h : i ≠ j) :
    (s.modPort i f).port j = s.port j := by
  simp [State.modPort_port, h]

/-- Record bank: the one changed reads as changed, every other one as before. -/
theorem State.modBank_bank (s : State) (i j : BankId) (f : Bank → Bank) :
    (s.modBank i f).bank j = if i = j then f (s.bank i) else s.bank j := State.setBank_bank s i j _

@[simp] theorem State.modBank_bank_same (s : State) (i : BankId) (f : Bank → Bank) :
    (s.modBank i f).bank i = f (s.bank i) := by
  simp [State.modBank_bank]

theorem State.modBank_bank_other (s : State) (i j : BankId) (f : Bank → Bank) (h : i ≠ j) :
    (s.modBank i f).bank j = s.bank j := by
  simp [State.modBank_bank, h]

/-- A raised cause is merged into its source's record, and every other record stays (R190). -/
theorem State.raise_notice (s : State) (n k : SourceId) (c : Cause) :
    (s.raise n c).notice k = if n = k then some (mergeCause s.timeline.count c (s.notice n)) else s.notice k :=
  State.setNotice_notice s n k _

/-- Two flags are the same bit exactly when they have the same number. -/
theorem flag_bit (f g : FlagId) : (BitVec.twoPow 16 f.toNat).getLsbD g.toNat = decide (f = g) := by
  have hg := g.isLt
  by_cases e : f = g
  · simp [e, BitVec.getLsbD_twoPow]; omega
  · have h : f.toNat ≠ g.toNat := fun h => e (BitVec.eq_of_toNat_eq h)
    simp [e, BitVec.getLsbD_twoPow, h]

/-- A flag set is set, and the others stay (R14). -/
theorem State.setFlag_flagSet (s : State) (f g : FlagId) :
    (s.setFlag f).flagSet g = (decide (f = g) || s.flagSet g) := by
  simp only [State.setFlag, State.flagSet, BitVec.getLsbD_or, flag_bit]
  exact Bool.or_comm _ _

/-- A flag cleared is clear, and the others stay (R14). -/
theorem State.clearFlag_flagSet (s : State) (f g : FlagId) :
    (s.clearFlag f).flagSet g = (s.flagSet g && !decide (f = g)) := by
  have hg : g.toNat < 16 := g.isLt
  simp only [State.clearFlag, State.flagSet, BitVec.getLsbD_and, BitVec.getLsbD_not, flag_bit, hg, decide_true,
    Bool.true_and]

/-- Marking a track's part as taken marks that track alone. -/
theorem State.markTrack_trackDone (s : State) (i j : TrackId) :
    (s.markTrack i).trackDone j = (decide (i = j) || s.trackDone j) := by
  have hj := j.isLt
  by_cases e : i = j
  · simp [State.markTrack, State.trackDone, e]
  · have h : j.1 ≠ i.1 := fun h => e (Fin.ext h.symm)
    simp [State.markTrack, State.trackDone, e, h]

end Sys2Proof.Machine
end

