-- ==== Sys2Proof/Laws/Table.lean ====
section
/-! SUPPORT. The table operations: what each reads as, and that each keeps the canonical form. -/

namespace Sys2Proof.Machine

variable {α : Type}

/-! ### Reading -/

/-- A filter that keeps key `a` does not change what it reads as. -/
theorem tableGet_filter (d : α) (t : List (Nat × α)) (p : Nat → Bool) (a : Nat) :
    tableGet d (t.filter fun e => p e.1) a = if p a then tableGet d t a else d := by
  induction t with
  | nil => simp [tableGet]
  | cons e r ih =>
    obtain ⟨k, v⟩ := e
    by_cases hk : p k <;> by_cases hak : a = k <;> simp_all [tableGet]

/-- A run of values reads at key `a + i` as its `i`-th value, and elsewhere as unlisted. -/
theorem tableGet_cells [DecidableEq α] (d : α) (vs : List α) (a x : Nat) :
    tableGet d (tableCells d a vs) x = if a ≤ x then vs.getD (x - a) d else d := by
  induction vs generalizing a with
  | nil => simp [tableCells, tableGet]
  | cons v r ih =>
    rw [tableCells]
    by_cases hx : x = a
    · subst hx
      by_cases hv : v = d
      · simp [hv, ih]
      · simp [hv, tableGet]
    · have h1 : (a + 1 ≤ x) ↔ (a ≤ x) := by omega
      have h2 : a ≤ x → x - a = (x - (a + 1)) + 1 := by omega
      by_cases hv : v = d <;> by_cases ha : a ≤ x
      · simp [hv, ih, h1, ha, h2 ha]
      · simp [hv, ih, h1, ha]
      · simp [hv, tableGet, hx, ih, h1, ha, h2 ha]
      · simp [hv, tableGet, hx, ih, h1, ha]

/-- Reading in two tables joined, the first of which lists nothing at the key. -/
theorem tableGet_append_none (d : α) (t u : List (Nat × α)) (a : Nat) (h : ∀ e ∈ t, e.1 ≠ a) :
    tableGet d (t ++ u) a = tableGet d u a := by
  induction t with
  | nil => rfl
  | cons e r ih =>
    obtain ⟨k, v⟩ := e
    have hk : a ≠ k := fun he => h (k, v) (by simp) he.symm
    simp [tableGet, hk, ih fun e he => h e (by simp [he])]

/-- Reading in two tables joined, the second of which lists nothing at the key. -/
theorem tableGet_append_left (d : α) (t u : List (Nat × α)) (a : Nat) (h : ∀ e ∈ u, e.1 ≠ a) :
    tableGet d (t ++ u) a = tableGet d t a := by
  induction t with
  | nil =>
    have : ∀ u : List (Nat × α), (∀ e ∈ u, e.1 ≠ a) → tableGet d u a = d := by
      intro u hu
      have := tableGet_append_none d u [] a hu
      simpa [tableGet] using this
    simpa [tableGet] using this u h
  | cons e r ih =>
    obtain ⟨k, v⟩ := e
    by_cases hk : a = k <;> simp [tableGet, hk]
    simpa [hk] using ih

/-- The keys of a run of values lie within it. -/
theorem tableCells_keys [DecidableEq α] (d : α) (vs : List α) (a : Nat) :
    ∀ e ∈ tableCells d a vs, a ≤ e.1 ∧ e.1 < a + vs.length := by
  induction vs generalizing a with
  | nil => simp [tableCells]
  | cons v r ih =>
    intro e he
    rw [tableCells] at he
    split at he
    · have := ih _ e he; simp; omega
    · rcases List.mem_cons.1 he with rfl | he
      · simp
      · have := ih _ e he; simp; omega

/-- What a table reads as after a write (last write wins, every other key as before). -/
theorem tableGet_set [DecidableEq α] (d : α) (t : List (Nat × α)) (a : Nat) (v : α) (x : Nat) :
    tableGet d (tableSet d t a v) x = if x = a then v else tableGet d t x := by
  have hi : ∀ (t : List (Nat × α)), (∀ e ∈ t, e.1 ≠ a) →
      tableGet d (tableInsert t a v) x = if x = a then v else tableGet d t x := by
    intro t
    induction t with
    | nil => intro _; by_cases hx : x = a <;> simp [tableInsert, tableGet, hx]
    | cons e r ih =>
      intro h
      obtain ⟨k, w⟩ := e
      have hk : k ≠ a := h (k, w) (by simp)
      have ih' := ih fun e he => h e (by simp [he])
      rw [tableInsert]
      by_cases hak : a < k
      · by_cases hx : x = a
        · simp [hak, tableGet, hx]
        · simp [hak, tableGet, hx]
      · by_cases hx : x = k
        · simp [hak, tableGet, hx, hk]
        · simp [hak, tableGet, hx, ih']
  have hf := tableGet_filter d t (fun k => decide (k ≠ a)) x
  have hn : ∀ e ∈ t.filter (fun e => decide (e.1 ≠ a)), e.1 ≠ a := by
    intro e he
    simpa using (List.mem_filter.1 he).2
  unfold tableSet
  by_cases hv : v = d
  · simp only [hv, if_true]
    rw [hf]
    by_cases hx : x = a <;> simp [hx]
  · simp only [hv, if_false]
    rw [hi _ hn, hf]
    by_cases hx : x = a <;> simp [hx]

/-- What a table reads as after a run of values is written from key `a` on. -/
theorem tableGet_splice [DecidableEq α] (d : α) (t : List (Nat × α)) (a : Nat) (vs : List α) (x : Nat) :
    tableGet d (tableSplice d t a vs) x =
      if a ≤ x ∧ x < a + vs.length then vs.getD (x - a) d else tableGet d t x := by
  have h1 := tableGet_filter d t (fun k => decide (k < a)) x
  have h3 := tableGet_filter d t (fun k => decide (a + vs.length ≤ k)) x
  have hc := tableGet_cells d vs a x
  have k1 : ∀ e ∈ t.filter (fun e => decide (e.1 < a)), e.1 < a := by
    intro e he; simpa using (List.mem_filter.1 he).2
  have k3 : ∀ e ∈ t.filter (fun e => decide (a + vs.length ≤ e.1)), a + vs.length ≤ e.1 := by
    intro e he; simpa using (List.mem_filter.1 he).2
  have k2 := tableCells_keys d vs a
  unfold tableSplice
  by_cases hx1 : x < a
  · rw [tableGet_append_left, tableGet_append_left, h1]
    · have : ¬ (a ≤ x ∧ x < a + vs.length) := by omega
      simp [hx1, this]
    · intro e he; have := k2 e he; omega
    · intro e he; have := k3 e he; omega
  · by_cases hx2 : x < a + vs.length
    · rw [tableGet_append_left, tableGet_append_none, hc]
      · have : a ≤ x := by omega
        simp [this, hx2]
      · intro e he; have := k1 e he; omega
      · intro e he; have := k3 e he; omega
    · rw [tableGet_append_none, h3]
      · have h : ¬ (a ≤ x ∧ x < a + vs.length) := by omega
        have h' : a + vs.length ≤ x := by omega
        simp [h, h']
      · intro e he
        rcases List.mem_append.1 he with he | he
        · have := k1 e he; omega
        · have := k2 e he; omega

/-- What a table reads as when every value is changed by `f`, and `f` keeps the unlisted value. -/
theorem tableGet_map (d : α) (t : List (Nat × α)) (f : Nat → α → α) (x : Nat) (hf : f x d = d) :
    tableGet d (t.map fun e => (e.1, f e.1 e.2)) x = f x (tableGet d t x) := by
  induction t with
  | nil => simp [tableGet, hf]
  | cons e r ih =>
    obtain ⟨k, v⟩ := e
    by_cases hk : x = k <;> simp [tableGet, hk]
    simpa [hk] using ih

/-! ### The canonical form -/

/-- The canonical form: keys strictly rising, and no entry of the unlisted value. -/
theorem tableWf_iff [DecidableEq α] (d : α) (t : List (Nat × α)) :
    tableWf d t = true ↔ t.Pairwise (fun e f => e.1 < f.1) ∧ ∀ e ∈ t, e.2 ≠ d := by
  induction t with
  | nil => simp [tableWf]
  | cons e r ih =>
    obtain ⟨k, v⟩ := e
    simp only [tableWf, Bool.and_eq_true, ih, List.pairwise_cons, List.mem_cons, decide_eq_true_eq,
      List.all_eq_true]
    constructor
    · rintro ⟨⟨h1, h2⟩, h3, h4⟩
      exact ⟨⟨h2, h3⟩, by rintro e (rfl | he); exacts [h1, h4 e he]⟩
    · rintro ⟨⟨h2, h3⟩, h4⟩
      exact ⟨⟨h4 _ (.inl rfl), h2⟩, h3, fun e he => h4 e (.inr he)⟩

/-- A filter keeps the canonical form. -/
theorem tableWf_filter [DecidableEq α] (d : α) (t : List (Nat × α)) (p : Nat × α → Bool) (h : tableWf d t = true) :
    tableWf d (t.filter p) = true := by
  rw [tableWf_iff] at h ⊢
  exact ⟨h.1.filter p, fun e he => h.2 e (List.mem_filter.1 he).1⟩

/-- A run of values is written in canonical form. -/
theorem tableWf_cells [DecidableEq α] (d : α) (vs : List α) (a : Nat) : tableWf d (tableCells d a vs) = true := by
  rw [tableWf_iff]
  induction vs generalizing a with
  | nil => simp [tableCells]
  | cons v r ih =>
    rw [tableCells]
    split
    · exact ih _
    · refine ⟨List.pairwise_cons.2 ⟨?_, (ih _).1⟩, ?_⟩
      · intro e he; have := tableCells_keys d r (a + 1) e he; simp; omega
      · intro e he
        rcases List.mem_cons.1 he with rfl | he
        · assumption
        · exact (ih _).2 e he

/-- A write keeps the canonical form. -/
theorem tableWf_set [DecidableEq α] (d : α) (t : List (Nat × α)) (a : Nat) (v : α) (h : tableWf d t = true) :
    tableWf d (tableSet d t a v) = true := by
  have hi : ∀ t : List (Nat × α), v ≠ d → tableWf d t = true → (∀ e ∈ t, e.1 ≠ a) →
      tableWf d (tableInsert t a v) = true ∧ ∀ e ∈ tableInsert t a v, e = (a, v) ∨ e ∈ t := by
    intro t hv
    induction t with
    | nil => intro _ _; simp [tableInsert, tableWf, hv]
    | cons e r ih =>
      intro hw hn
      obtain ⟨k, w⟩ := e
      have hk : k ≠ a := hn (k, w) (by simp)
      rw [tableWf_iff] at hw
      have hp := List.pairwise_cons.1 hw.1
      have hr : tableWf d r = true := (tableWf_iff d r).2 ⟨hp.2, fun e he => hw.2 e (by simp [he])⟩
      have ih' := ih hr fun e he => hn e (by simp [he])
      rw [tableInsert]
      split
      · rename_i hak
        refine ⟨(tableWf_iff d _).2 ⟨List.pairwise_cons.2 ⟨?_, hw.1⟩, ?_⟩, ?_⟩
        · intro e he
          rcases List.mem_cons.1 he with rfl | he
          · exact hak
          · have := hp.1 e he; simp at this ⊢; omega
        · intro e he
          rcases List.mem_cons.1 he with rfl | he
          · exact hv
          · exact hw.2 e he
        · intro e he
          rcases List.mem_cons.1 he with rfl | he
          · exact .inl rfl
          · exact .inr he
      · rename_i hak
        have hw' := (tableWf_iff d _).1 ih'.1
        refine ⟨(tableWf_iff d _).2 ⟨List.pairwise_cons.2 ⟨?_, hw'.1⟩, ?_⟩, ?_⟩
        · intro e he
          rcases ih'.2 e he with rfl | he
          · simp; omega
          · exact hp.1 e he
        · intro e he
          rcases List.mem_cons.1 he with rfl | he
          · exact hw.2 _ (by simp)
          · exact hw'.2 e he
        · intro e he
          rcases List.mem_cons.1 he with rfl | he
          · exact .inr (by simp)
          · rcases ih'.2 e he with rfl | he
            · exact .inl rfl
            · exact .inr (by simp [he])
  have hw := tableWf_filter d t (fun e => decide (e.1 ≠ a)) h
  unfold tableSet
  by_cases hv : v = d
  · simpa [hv] using hw
  · simp only [hv, if_false]
    exact (hi _ hv hw fun e he => by simpa using (List.mem_filter.1 he).2).1

/-- A run of values written keeps the canonical form. -/
theorem tableWf_splice [DecidableEq α] (d : α) (t : List (Nat × α)) (a : Nat) (vs : List α) (h : tableWf d t = true) :
    tableWf d (tableSplice d t a vs) = true := by
  have h1 := (tableWf_iff d _).1 (tableWf_filter d t (fun e => decide (e.1 < a)) h)
  have h2 := (tableWf_iff d _).1 (tableWf_cells d vs a)
  have h3 := (tableWf_iff d _).1 (tableWf_filter d t (fun e => decide (a + vs.length ≤ e.1)) h)
  have k1 : ∀ e ∈ t.filter (fun e => decide (e.1 < a)), e.1 < a := by
    intro e he; simpa using (List.mem_filter.1 he).2
  have k3 : ∀ e ∈ t.filter (fun e => decide (a + vs.length ≤ e.1)), a + vs.length ≤ e.1 := by
    intro e he; simpa using (List.mem_filter.1 he).2
  have k2 := tableCells_keys d vs a
  unfold tableSplice
  rw [tableWf_iff]
  constructor
  · refine List.pairwise_append.2 ⟨List.pairwise_append.2 ⟨h1.1, h2.1, ?_⟩, h3.1, ?_⟩
    · intro e he f hf; have := k1 e he; have := k2 f hf; omega
    · intro e he f hf
      have := k3 f hf
      rcases List.mem_append.1 he with he | he
      · have := k1 e he; omega
      · have := k2 e he; omega
  · intro e he
    rcases List.mem_append.1 he with he | he
    · rcases List.mem_append.1 he with he | he
      · exact h1.2 e he
      · exact h2.2 e he
    · exact h3.2 e he

/-- Changing every value by an `f` that makes no value the unlisted one keeps the canonical form. -/
theorem tableWf_map [DecidableEq α] (d : α) (t : List (Nat × α)) (f : Nat → α → α)
    (hf : ∀ k v, v ≠ d → f k v ≠ d) (h : tableWf d t = true) :
    tableWf d (t.map fun e => (e.1, f e.1 e.2)) = true := by
  rw [tableWf_iff] at h ⊢
  refine ⟨List.pairwise_map.2 h.1, ?_⟩
  intro e he
  obtain ⟨x, hx, rfl⟩ := List.mem_map.1 he
  exact hf _ _ (h.2 x hx)

/-! ### The flash (R115, R116) -/

/-- A programmed byte reads as written, and every other byte as before. -/
theorem Memory.read_writeAll (m : List Host.Cell) (a : Nat) (bs : List Byte) (x : Nat) :
    Memory.read (Memory.writeAll m a bs) x =
      if a ≤ x ∧ x < a + bs.length then bs.getD (x - a) erasedByte else Memory.read m x :=
  tableGet_splice erasedByte m a bs x

/-- An erased byte reads as erased, and every other byte as before. -/
theorem Memory.read_erase (m : List Host.Cell) (a n x : Nat) :
    Memory.read (Memory.erase m a n) x = if a ≤ x ∧ x < a + n then erasedByte else Memory.read m x := by
  have h := tableGet_filter erasedByte m (fun k => decide (k < a) || decide (a + n ≤ k)) x
  unfold Memory.read Memory.erase
  rw [show (fun e : Nat × Byte => decide (e.1 < a) || decide (a + n ≤ e.1)) =
    (fun e => (fun k => decide (k < a) || decide (a + n ≤ k)) e.1) from rfl, h]
  by_cases h1 : x < a
  · have : ¬ (a ≤ x ∧ x < a + n) := by omega
    simp [h1, this]
  · by_cases h2 : a + n ≤ x
    · have : ¬ (a ≤ x ∧ x < a + n) := by omega
      simp [h2, this]
    · have : a ≤ x ∧ x < a + n := by omega
      simp [h1, h2, this]

/-- Programming keeps the flash in its canonical form. -/
theorem Memory.wf_writeAll (m : List Host.Cell) (a : Nat) (bs : List Byte) (h : Memory.wf m = true) :
    Memory.wf (Memory.writeAll m a bs) = true := tableWf_splice erasedByte m a bs h

/-- Erasing keeps the flash in its canonical form. -/
theorem Memory.wf_erase (m : List Host.Cell) (a n : Nat) (h : Memory.wf m = true) :
    Memory.wf (Memory.erase m a n) = true := tableWf_filter erasedByte m _ h

/-- The flash is in its canonical form at reset. -/
theorem Memory.wf_reset : Memory.wf State.reset.store.flash = true := rfl

/-! ### The tables of the state -/

/-- An entry of cue memory reads as written, and every other entry as before (R1, R21). -/
theorem State.setCueEntry_cueEntry (s : State) (i j : CueIndex) (e : CueEntry) :
    (s.setCueEntry i e).cueEntry j = if j = i then e else s.cueEntry j := by
  simp [State.setCueEntry, State.cueEntry, tableGet_set, BitVec.toNat_inj]

/-- A clip record reads as written, and every other record as before (R117). -/
theorem State.setClip_clip (s : State) (c d : ClipId) (r : ClipRecord) :
    (s.setClip c r).clip d = if d = c then r else s.clip d := by
  simp [State.setClip, State.clip, tableGet_set, Fin.ext_iff]

/-- Two sectors of one bank, or of two banks, have different keys. -/
theorem sectorKey_inj (b d : BankId) (n k : Nat) (hn : n < 8192) (hk : k < 8192) :
    sectorKey b n = sectorKey d k ↔ b = d ∧ n = k := by
  simp only [sectorKey, Fin.ext_iff]
  omega

/-- A sector state reads as written, and every other sector as before (R116). -/
theorem State.setSector_sector (s : State) (b d : BankId) (n k : Nat) (x : SectorState) :
    (s.setSector b n x).sector d k = if sectorKey d k = sectorKey b n then x else s.sector d k :=
  tableGet_set SectorState.free s.store.sectors (sectorKey b n) x (sectorKey d k)

end Sys2Proof.Machine
end

