-- ==== Sys2Proof/Laws/Bank.lean ====
section
/-! SUPPORT. What bank service does by itself (`BankWork`): one lemma for each operation of `Machine/Bank.lean`. -/

namespace Sys2Proof.Machine

/-! ### Slots that differ in their states alone -/

theorem Slot.SameBut.refl (x : Slot) : Slot.SameBut x x := rfl

theorem Slot.SameBut.trans {x y z : Slot} (h : Slot.SameBut x y) (k : Slot.SameBut y z) : Slot.SameBut x z :=
  Eq.trans h k

theorem Track.SameBut.refl (a : Track) : Track.SameBut a a := by
  refine ⟨rfl, ?_⟩
  induction a.ring with
  | nil => exact .nil
  | cons x r ih => exact .cons rfl ih

theorem slots_trans {a b c : List Slot} (h : List.Forall₂ Slot.SameBut a b) (k : List.Forall₂ Slot.SameBut b c) :
    List.Forall₂ Slot.SameBut a c := by
  induction h generalizing c with
  | nil => cases k; exact .nil
  | cons h1 _ ih => cases k with | cons k1 k2 => exact .cons (h1.trans k1) (ih k2)

theorem Track.SameBut.trans {a b c : Track} (h : Track.SameBut a b) (k : Track.SameBut b c) : Track.SameBut a c := by
  obtain ⟨h1, h2⟩ := h
  obtain ⟨k1, k2⟩ := k
  refine ⟨?_, slots_trans h2 k2⟩
  rw [← h1, ← k1]

/-- Changing the states of slots makes a track that is the same but for them. -/
theorem Track.modSlot_same (tr : Track) (id : Nat) (f : Slot → Slot) (hf : ∀ x, Slot.SameBut x (f x)) :
    Track.SameBut tr (tr.modSlot id f) := by
  refine ⟨rfl, ?_⟩
  simp only [Track.modSlot]
  induction tr.ring with
  | nil => exact .nil
  | cons x r ih =>
    refine .cons ?_ ih
    dsimp only
    split
    · exact hf x
    · rfl

/-! ### The relation and its atoms -/

/-- A bank whose operation, read in flight and record stay works. -/
theorem Bank.Works.same {starts : OpKind → Prop} {count : Count} {k k' : Bank} {n n' : Option Notice}
    (h1 : k'.op = k.op) (h2 : k'.inFlight = k.inFlight) (h3 : n' = n) : k.Works starts count k' n n' where
  flight f h := by rw [h2, h]
  reads h := ⟨fun e => absurd (h2.trans e) h, fun _ => h1⟩
  goesOn o h := ⟨o, h1.trans h, rfl, rfl, fun _ => rfl, fun e => by rw [e]; decide, .inl, .inl ⟨rfl, h3⟩⟩
  fresh h := ⟨h3, fun o e => by rw [h1, h] at e; cases e⟩

/-- A RUNNING operation below the cap that becomes SUSPENDING under ALLOW (R145). -/
theorem Bank.Works.suspends {starts : OpKind → Prop} {count : Count} {k : Bank} {n : Option Notice} {op : Operation}
    (h : k.op = some op) (hr : op.sub = .running) (hp : k.policy = .allow) (hc : op.count < 16) :
    k.Works starts count { k with op := some { op with sub := .suspending } } n n where
  flight _ e := e
  reads e := ⟨fun e' => absurd e' e, fun m => absurd (hr.symm.trans (m op h)) (by decide)⟩
  goesOn o e := by
    rw [h] at e
    cases e
    refine ⟨{ op with sub := .suspending }, rfl, rfl, rfl, fun e => ?_, fun e => ?_, fun _ => .inr ⟨hp, hc⟩,
      .inl ⟨rfl, rfl⟩⟩
    · cases e
    · cases e
  fresh e := by rw [h] at e; cases e

/-- A SUSPENDED operation that resumes (R147). -/
theorem Bank.Works.resumes {starts : OpKind → Prop} {count : Count} {k : Bank} {n : Option Notice} {op : Operation}
    (h : k.op = some op) (hs : op.sub = .suspended) (hf : k.inFlight = none) :
    k.Works starts count { k with op := some { op with sub := .running } } n n where
  flight _ e := e
  reads e := absurd hf e
  goesOn o e := by
    rw [h] at e
    cases e
    refine ⟨{ op with sub := .running }, rfl, rfl, rfl, fun e => ?_, fun _ => ?_, fun e => ?_, .inl ⟨rfl, rfl⟩⟩
    · cases e
    · rw [hs]; decide
    · cases e
  fresh e := by rw [h] at e; cases e

/-- A read that starts where no operation runs (R140, R142). -/
theorem Bank.Works.startsRead {starts : OpKind → Prop} {count : Count} {k : Bank} {n : Option Notice}
    {q : List FetchRequest} {r : FetchRequest} (hf : k.inFlight = none) (ho : k.mayRead) :
    k.Works starts count { k with fetch := q, inFlight := some r } n n where
  flight f e := by rw [hf] at e; cases e
  reads _ := ⟨fun _ => ho, fun _ => rfl⟩
  goesOn o h := ⟨o, h, rfl, rfl, fun _ => rfl, fun e => by rw [e]; decide, .inl, .inl ⟨rfl, rfl⟩⟩
  fresh h := ⟨rfl, fun o e => by
    rw [h] at e
    cases e⟩

/-- An operation that starts at a free bank (R120). -/
theorem Bank.Works.starts {starts : OpKind → Prop} {count : Count} {k : Bank} {n : Option Notice} {kind : OpKind}
    (ho : k.op = none) (hf : k.inFlight = none) (hs : starts kind) :
    k.Works starts count { k with op := some (Operation.fresh kind) } n n where
  flight f e := by rw [hf] at e; cases e
  reads e := absurd hf e
  goesOn o e := by rw [ho] at e; cases e
  fresh _ := ⟨rfl, fun o e => by cases e; exact ⟨hs, rfl, rfl, .inl rfl⟩⟩

/-- A bank that works on works. -/
theorem Bank.Works.trans {starts later : OpKind → Prop} {count : Count} {k k' k'' : Bank} {n n' n'' : Option Notice}
    (h : k.Works starts count k' n n') (g : k'.Works later count k'' n' n'') (hp : k'.policy = k.policy)
    (hs : k.op = none → k'.op = none → ∀ kind, later kind → starts kind) : k.Works starts count k'' n n'' where
  flight f e := g.flight f (h.flight f e)
  reads e := by
    have back : k'.mayRead → k.mayRead := fun m o ho => by
      obtain ⟨o', e', _, _, hsub, _⟩ := h.goesOn o ho
      have := hsub (m o' e')
      exact this ▸ m o' e'
    cases hf : k'.inFlight with
    | some f =>
      have hne : k'.inFlight ≠ none := by rw [hf]; simp
      have h1 := h.reads hne
      refine ⟨h1.1, fun m => ?_⟩
      have e' := h1.2 m
      exact ((g.reads e).2 fun o ho => m o (e' ▸ ho)).trans e'
    | none =>
      have m := (g.reads e).1 hf
      refine ⟨fun _ => back m, fun mk => ((g.reads e).2 m).trans ?_⟩
      cases ho : k.op with
      | some o =>
        obtain ⟨o', e', _, _, hsub, _⟩ := h.goesOn o ho
        rw [e', hsub (m o' e')]
      | none =>
        cases ho' : k'.op with
        | none => rfl
        | some o' =>
          have := (h.fresh ho).2 o' ho'
          have := m o' ho'
          simp_all
  goesOn o ho := by
    obtain ⟨o', e', a1, a2, a3, a4, a5, a6⟩ := h.goesOn o ho
    obtain ⟨o'', e'', b1, b2, b3, b4, b5, b6⟩ := g.goesOn o' e'
    rw [hp] at b5 b6
    refine ⟨o'', e'', b1.trans a1, b2.trans a2, fun x => ?_, fun x y => ?_, fun x => ?_, ?_⟩
    · have := b3 x
      rw [this]
      exact a3 (this ▸ x)
    · have := b4 x
      cases hsub : o'.sub with
      | running => exact a4 hsub y
      | suspending => exact this hsub
      | suspended => rw [a3 hsub, y] at hsub; cases hsub
    · rcases b5 x with y | ⟨y, z⟩
      · exact a5 y
      · exact .inr ⟨y, a2 ▸ z⟩
    · rcases b6 with ⟨c1, c2⟩ | ⟨c1, c2, c3, c4, c5, c6, c7⟩
      · rcases a6 with ⟨d1, d2⟩ | ⟨d1, d2, d3, d4, d5, d6, d7⟩
        · exact .inl ⟨c1.trans d1, c2.trans d2⟩
        · refine .inr ⟨d1, d2, d3, d4, c1.trans d5, ?_, c2.trans d7⟩
          cases hsub : o''.sub with
          | running => rfl
          | suspending =>
            rcases b5 hsub with y | ⟨_, y⟩
            · rw [d6] at y; cases y
            · omega
          | suspended => rw [b3 hsub, d6] at hsub; cases hsub
      · rcases a6 with ⟨d1, d2⟩ | ⟨d1, d2, d3, d4, d5, d6, d7⟩
        · refine .inr ⟨c1, a2 ▸ c2, fun y => ?_, d1 ▸ c4, c5, c6, by rw [c7, d2]⟩
          cases hsub : o'.sub with
          | running => exact a4 hsub y
          | suspending => exact c3 hsub
          | suspended => rw [a3 hsub, y] at hsub; cases hsub
        · rw [d5] at c4; cases c4
  fresh ho := by
    obtain ⟨a1, a2⟩ := h.fresh ho
    cases ho' : k'.op with
    | none =>
      obtain ⟨b1, b2⟩ := g.fresh ho'
      rw [hp] at b2
      refine ⟨b1.trans a1, fun o e => ?_⟩
      obtain ⟨c1, c2⟩ := b2 o e
      exact ⟨hs ho ho' _ c1, c2⟩
    | some o' =>
      obtain ⟨x1, x2, x3, x4⟩ := a2 o' ho'
      obtain ⟨o'', e'', b1, b2, b3, b4, b5, b6⟩ := g.goesOn o' ho'
      rw [hp] at b5
      have hcap : o''.cap = o'.cap ∧ n'' = n' := by
        rcases b6 with c | ⟨_, c, _⟩
        · exact c
        · omega
      refine ⟨hcap.2.trans a1, fun o e => ?_⟩
      rw [e''] at e
      cases e
      refine ⟨b1 ▸ x1, b2.trans x2, hcap.1.trans x3, ?_⟩
      cases hsub : o''.sub with
      | running => exact .inl rfl
      | suspending =>
        rcases b5 hsub with y | ⟨y, _⟩
        · rcases x4 with z | ⟨_, z⟩
          · rw [z] at y; cases y
          · exact .inr ⟨rfl, z⟩
        · exact .inr ⟨rfl, y⟩
      | suspended =>
        rw [b3 hsub] at hsub
        rcases x4 with z | ⟨z, _⟩ <;> rw [hsub] at z <;> cases z

/-- The operations of a bank that has none start, later too, only where R120 allows them. -/
theorem State.mayStart_congr {s u : State} {b : BankId} {kind : OpKind} (hb : u.bank b = { s.bank b with
      op := (u.bank b).op, fetch := (u.bank b).fetch, inFlight := (u.bank b).inFlight })
    (hs : ∀ n < 8192, u.sector b n = s.sector b n) (h : u.mayStart b kind) : s.mayStart b kind := by
  cases kind with
  | program c q =>
    simp only [State.mayStart] at h ⊢
    rw [hb] at h
    exact h
  | erase n =>
    simp only [State.mayStart] at h ⊢
    obtain ⟨h1, h2, h3, h4, h5⟩ := h
    rw [hb] at h1 h2
    rw [hs n h3] at h4
    refine ⟨h1, h2, h3, h4, fun m hm => ?_⟩
    have := h5 m hm
    rwa [hs m (by omega)] at this

theorem Undisturbed.refl (s : State) : Undisturbed s s where
  held := rfl
  link := rfl
  levels := rfl
  enable := rfl
  timeline := rfl
  cue := rfl
  scanning := rfl
  clips := rfl
  flash := rfl
  tables h := h
  sectors b n _ := by
    split
    · rename_i h
      rw [h.1] at h
      cases h.2
    · rfl
  banks _ := .same rfl rfl rfl
  policy _ := ⟨rfl, rfl, rfl, rfl⟩
  pages _ := rfl
  triggers := rfl
  captures := rfl
  overrun := rfl
  pending := rfl

theorem Undisturbed.trans {s u v : State} (h : Undisturbed s u) (k : Undisturbed u v) : Undisturbed s v where
  held := k.held.trans h.held
  link := k.link.trans h.link
  levels := k.levels.trans h.levels
  enable := k.enable.trans h.enable
  timeline := k.timeline.trans h.timeline
  cue := k.cue.trans h.cue
  scanning := k.scanning.trans h.scanning
  clips := k.clips.trans h.clips
  flash := k.flash.trans h.flash
  tables hw := k.tables (h.tables hw)
  sectors b n hn := by
    rw [k.sectors b n hn, h.sectors b n hn]
    cases e : (s.bank b).op with
    | none =>
      cases e' : (u.bank b).op with
      | none => simp
      | some o' =>
        obtain ⟨o'', e'', g, _⟩ := (k.banks b).goesOn o' e'
        simp [e'', g]
    | some o =>
      obtain ⟨o', e', _⟩ := (h.banks b).goesOn o e
      simp [e']
  banks b := by
    have h1 := h.banks b
    have k1 := k.banks b
    rw [h.timeline] at k1
    refine h1.trans k1 (h.policy b).1 fun e e' kind hk hw => State.mayStart_congr ?_ (fun n hn => ?_) (hk (h.tables hw))
    · obtain ⟨p1, p2, p3, p4⟩ := h.policy b
      have p5 := h.pages b
      generalize u.bank b = x at *
      generalize s.bank b = y at *
      cases x; cases y
      simp_all
    · rw [h.sectors b n hn]
      simp [e']
  policy b := by
    obtain ⟨h1, h2, h3, h4⟩ := h.policy b
    obtain ⟨k1, k2, k3, k4⟩ := k.policy b
    exact ⟨k1.trans h1, k2.trans h2, k3.trans h3, k4.trans h4⟩
  pages b := (k.pages b).trans (h.pages b)
  triggers := k.triggers.trans h.triggers
  captures := k.captures.trans h.captures
  overrun := k.overrun.trans h.overrun
  pending := k.pending.trans h.pending

theorem BankWork.refl (s : State) : BankWork s s :=
  { Undisturbed.refl s with
    notices := fun _ _ => rfl
    tracks := fun _ => Track.SameBut.refl _
    slotSeq := rfl
    flags := rfl
    ports := rfl
    markers := rfl
    work := rfl }

theorem BankWork.trans {s u v : State} (h : BankWork s u) (k : BankWork u v) : BankWork s v :=
  { h.toUndisturbed.trans k.toUndisturbed with
    notices := fun n hn => (k.notices n hn).trans (h.notices n hn)
    tracks := fun t => (h.tracks t).trans (k.tracks t)
    slotSeq := k.slotSeq.trans h.slotSeq
    flags := k.flags.trans h.flags
    ports := k.ports.trans h.ports
    markers := k.markers.trans h.markers
    work := k.work.trans h.work }

/-- A bank that keeps its policies, its marks and its program queue, that works, and that starts no erase has done bank
work. -/
theorem BankWork.setBank (s : State) (b : BankId) (k : Bank) (hq : { s.bank b with
      op := k.op, fetch := k.fetch, inFlight := k.inFlight } = k)
    (hw : (s.bank b).Works (fun kind => tableWf SectorState.free s.store.sectors = true → s.mayStart b kind)
      s.timeline.count k (s.notice (bankSource b)) (s.notice (bankSource b)))
    (he : (s.bank b).op = none → ∀ n, k.op.map Operation.kind ≠ some (.erase n)) :
    BankWork s (s.setBank b k) :=
  { BankWork.refl s with
    policy := fun d => by
      rw [State.setBank_bank]
      split
      · subst_vars; rw [← hq]; exact ⟨rfl, rfl, rfl, rfl⟩
      · exact ⟨rfl, rfl, rfl, rfl⟩
    pages := fun d => by
      rw [State.setBank_bank]
      split
      · subst_vars; rw [← hq]
      · rfl
    sectors := fun d n _ => by
      rw [State.setBank_bank]
      refine (if_neg fun h => ?_).symm
      split at h
      · subst_vars; exact he h.1 n h.2
      · rw [h.1] at h; cases h.2
    banks := fun d => by
      rw [State.setBank_bank]
      split
      · subst_vars; exact hw
      · exact .same rfl rfl rfl }

/-- A bank changed in nothing but its fetch queue has done bank work. -/
theorem BankWork.modFetch (s : State) (b : BankId) (f : List FetchRequest → List FetchRequest) :
    BankWork s (s.modBank b fun k => { k with fetch := f k.fetch }) :=
  BankWork.setBank s b _ rfl (.same rfl rfl rfl) fun h n e => by
    rw [h] at e
    cases e

/-- Bank work after bank work. -/
theorem BankWork.after {s u v : State} (k : BankWork u v) (h : BankWork s u) : BankWork s v := h.trans k

/-- A slot that changes its state is bank work. -/
theorem BankWork.modSlot (s : State) (t : TrackId) (id : Nat) (x : SlotState) :
    BankWork s (s.modTrack t fun tr => tr.modSlot id fun y => { y with state := x }) :=
  { BankWork.refl s with
    tracks := fun j => by
      rw [State.modTrack_track]
      split
      · subst_vars; exact Track.modSlot_same _ _ _ fun _ => rfl
      · exact Track.SameBut.refl _ }

/-- The sources of two banks are two. -/
theorem bankSource_inj {b d : BankId} (h : bankSource b = bankSource d) : b = d := by
  have := congrArg Fin.val h
  simp only [bankSource] at this
  exact Fin.ext (by omega)

/-- An operation at the cap that raises SUSPEND_CAP is bank work (R148). -/
theorem BankWork.cap (s : State) (b : BankId) (op : Operation) (h : (s.bank b).op = some op) (hr : op.sub = .running)
    (hp : (s.bank b).policy = .allow) (hc : 16 ≤ op.count) (hn : op.cap = false) :
    BankWork s ((s.setBank b { s.bank b with op := some { op with cap := true } }).raise (bankSource b) .suspendCap) :=
  { BankWork.refl s with
    policy := fun d => by
      rw [State.raise_bank, State.setBank_bank]
      split
      · subst_vars; exact ⟨rfl, rfl, rfl, rfl⟩
      · exact ⟨rfl, rfl, rfl, rfl⟩
    pages := fun d => by
      rw [State.raise_bank, State.setBank_bank]
      split
      · subst_vars; rfl
      · rfl
    sectors := fun d n _ => by
      rw [State.raise_bank, State.setBank_bank]
      refine (if_neg fun g => ?_).symm
      split at g
      · subst_vars; rw [h] at g; cases g.1
      · rw [g.1] at g; cases g.2
    banks := fun d => by
      rw [State.raise_bank, State.setBank_bank, State.raise_notice]
      by_cases hd : b = d
      · subst hd
        simp only [if_true]
        refine
          { flight := fun _ e => e
            reads := fun e => ⟨fun e' => absurd e' e, fun m => ?_⟩
            goesOn := fun o e => ?_
            fresh := fun e => by rw [h] at e; cases e }
        · have := m op h
          rw [hr] at this
          cases this
        · rw [h] at e
          cases e
          refine ⟨_, rfl, rfl, rfl, fun e => ?_, fun _ => ?_, fun e => ?_, .inr ⟨hp, hc, ?_, hn, rfl, hr, rfl⟩⟩
          · exact absurd (hr.symm.trans e) (by decide)
          · rw [hr]; decide
          · exact absurd (hr.symm.trans e) (by decide)
          · rw [hr]; decide
      · have : bankSource b ≠ bankSource d := fun e => hd (bankSource_inj e)
        simp only [hd, this, if_false, State.setBank_notice]
        exact .same rfl rfl rfl
    notices := fun n hn => by
      rw [State.raise_notice]
      have hb := b.isLt
      have : bankSource b ≠ n := by
        intro h
        have := congrArg Fin.val h
        simp only [bankSource] at this
        omega
      simp [this] }

/-- A sector listed in a canonical map reads as it is listed. -/
theorem tableGet_of_mem {α : Type} [DecidableEq α] (d : α) (t : List (Nat × α)) (h : tableWf d t = true) (k : Nat)
    (v : α) (hm : (k, v) ∈ t) : tableGet d t k = v := by
  replace h := ((tableWf_iff d t).1 h).1
  induction t with
  | nil => simp at hm
  | cons e r ih =>
    obtain ⟨j, w⟩ := e
    have hp := List.pairwise_cons.1 h
    rcases List.mem_cons.1 hm with he | hm
    · cases he; simp [tableGet]
    · have : k ≠ j := by have := hp.1 _ hm; simp at this; omega
      simp [tableGet, this, ih hm hp.2]

/-- The least member of a list is one of its members. -/
theorem leastBy_mem {α : Type} (key : α → Nat) (l : List α) (a : α) (h : leastBy key l = some a) : a ∈ l := by
  induction l generalizing a with
  | nil => simp [leastBy] at h
  | cons x r ih =>
    rw [leastBy] at h
    split at h
    · cases h; simp
    · rename_i b hb
      split at h
      · cases h; simp
      · cases h; exact List.mem_cons_of_mem _ (ih _ hb)

/-- No member of a list is before its least member. -/
theorem leastBy_le {α : Type} (key : α → Nat) (l : List α) (a : α) (h : leastBy key l = some a) :
    ∀ x ∈ l, key a ≤ key x := by
  induction l generalizing a with
  | nil => simp
  | cons x r ih =>
    rw [leastBy] at h
    intro y hy
    split at h
    · rename_i hn
      cases h
      have hr : r = [] := by
        cases r with
        | nil => rfl
        | cons z r' =>
          rw [leastBy] at hn
          split at hn
          · cases hn
          · split at hn <;> cases hn
      subst hr
      simp at hy
      simp [hy]
    · rename_i b hb
      have := ih b hb
      split at h
      · rename_i hle
        cases h
        rcases List.mem_cons.1 hy with rfl | hy
        · exact le_refl _
        · exact le_trans hle (this y hy)
      · rename_i hle
        cases h
        rcases List.mem_cons.1 hy with rfl | hy
        · omega
        · exact this y hy

/-- A list has no least member exactly when it is empty. -/
theorem leastBy_none {α : Type} (key : α → Nat) (l : List α) : leastBy key l = none ↔ l = [] := by
  cases l with
  | nil => simp [leastBy]
  | cons x r =>
    simp only [reduceCtorEq, iff_false]
    rw [leastBy]
    split
    · simp
    · split <;> simp

/-- The sectors a bank may erase are its DIRTY and UNSETTLED sectors (R120). -/
theorem State.mem_erasable (s : State) (b : BankId) (n : Nat) (hw : tableWf SectorState.free s.store.sectors = true) :
    n ∈ s.erasable b ↔ n < 8192 ∧ (s.sector b n = .dirty ∨ s.sector b n = .unsettled) := by
  simp only [State.erasable, List.mem_map, List.mem_filter, Bool.and_eq_true, decide_eq_true_eq, Bool.or_eq_true]
  have key : sectorKey b 8192 = sectorKey b 0 + 8192 := by simp [sectorKey]
  constructor
  · rintro ⟨⟨k, v⟩, ⟨hm, ⟨h1, h2⟩, h3⟩, rfl⟩
    simp only at *
    have hk : sectorKey b (k - sectorKey b 0) = k := by simp only [sectorKey] at *; omega
    refine ⟨by omega, ?_⟩
    rw [State.sector, hk, tableGet_of_mem _ _ hw _ _ hm]
    exact h3
  · rintro ⟨hn, h⟩
    have hne : s.sector b n ≠ .free := by rcases h with h | h <;> rw [h] <;> decide
    have hmem : ∀ t : List (Nat × SectorState), tableGet .free t (sectorKey b n) ≠ .free →
        (sectorKey b n, tableGet .free t (sectorKey b n)) ∈ t := by
      intro t
      induction t with
      | nil => simp [tableGet]
      | cons e r ih =>
        obtain ⟨k, v⟩ := e
        by_cases hk : sectorKey b n = k
        · simp [tableGet, hk]
        · intro h; simp only [tableGet, hk, if_false] at h ⊢
          exact List.mem_cons_of_mem _ (ih h)
    refine ⟨_, ⟨hmem _ hne, ⟨?_, ?_⟩, h⟩, ?_⟩
    · simp [sectorKey]
    · rw [key]; simp only [sectorKey]; omega
    · simp only [sectorKey]; omega

/-! ### The operations -/

/-- `suspendReact` is bank work (R145, R148). -/
theorem suspendReact_work (b : BankId) (s : State) : BankWork s (suspendReact b s) := by
  unfold suspendReact
  dsimp only
  split
  · exact .refl s
  · rename_i op ho
    split
    · rename_i h
      simp only [Bool.and_eq_true, decide_eq_true_eq] at h
      split
      · rename_i hc
        exact .setBank s b _ rfl (.suspends ho h.1.1 h.1.2 hc) fun e => by rw [ho] at e; cases e
      · rename_i hc
        split
        · exact .refl s
        · rename_i hn
          exact .cap s b op ho h.1.1 h.1.2 (Nat.le_of_not_lt hc) (by simpa using hn)
    · exact .refl s

/-- A request that joins a fetch queue is bank work (R61). -/
theorem joinFetch_work (b : BankId) (r : FetchRequest) (s : State) : BankWork s (joinFetch b r s) :=
  (suspendReact_work _ _).after
    ((BankWork.modSlot _ _ _ _).after (BankWork.modFetch s b (· ++ [r])))

/-- Giving free places of a fetch queue away is bank work (R61). -/
theorem offerPlaces_work (b : BankId) (n : Nat) (s : State) : BankWork s (offerPlaces b n s) := by
  induction n generalizing s with
  | zero => exact .refl s
  | succ n ih =>
    rw [offerPlaces]
    split
    · split
      · exact .refl s
      · exact (joinFetch_work _ _ _).trans (ih _)
    · exact .refl s

/-- A read that starts where none is in flight and no operation runs is bank work (R140, R142). -/
theorem startRead_work (b : BankId) (s : State) (hf : (s.bank b).inFlight = none) (ho : (s.bank b).mayRead) :
    BankWork s (startRead b s) := by
  unfold startRead
  split
  · exact .refl s
  · refine (offerPlaces_work _ _ _).after
      ((BankWork.modSlot _ _ _ _).after (BankWork.setBank s b _ rfl (.startsRead hf ho) fun h n e => ?_))
    rw [h] at e
    cases e

/-- The sector a bank would erase first is its lowest DIRTY or UNSETTLED one (R128). -/
theorem State.least_erasable (s : State) (b : BankId) (n : Nat) (hw : tableWf SectorState.free s.store.sectors = true)
    (h : leastBy id (s.erasable b) = some n) : n < 8192 ∧ (s.sector b n = .dirty ∨ s.sector b n = .unsettled) ∧
      ∀ m < n, s.sector b m ≠ .dirty ∧ s.sector b m ≠ .unsettled := by
  have hm := (s.mem_erasable b n hw).1 (leastBy_mem _ _ _ h)
  refine ⟨hm.1, hm.2, fun m hlt => ?_⟩
  have hn : m ∉ s.erasable b := fun e => absurd (leastBy_le _ _ _ h m e) (by simpa using hlt)
  rw [s.mem_erasable b m hw] at hn
  have : m < 8192 := by omega
  simpa [this] using hn

/-- A store operation that starts at a free bank is bank work (R120, R128). -/
theorem startStore_work (b : BankId) (s : State) (ho : (s.bank b).op = none) (hf : (s.bank b).inFlight = none) :
    BankWork s (startStore b s) := by
  unfold startStore
  dsimp only
  split
  · rename_i p r hq
    exact .setBank s b _ rfl (.starts ho hf fun _ => ⟨p, r, hq, rfl, rfl⟩) fun _ n e => by cases e
  · rename_i hq
    split
    · rename_i he
      split
      · exact .refl s
      · rename_i n hn
        have hlt : n < 8192 := by
          have := leastBy_mem _ _ _ hn
          simp only [State.erasable, List.mem_map, List.mem_filter, Bool.and_eq_true, decide_eq_true_eq] at this
          obtain ⟨e, ⟨_, ⟨h1, h2⟩, _⟩, rfl⟩ := this
          simp only [sectorKey] at *
          omega
        exact
          { BankWork.refl s with
            tables := tableWf_set .free s.store.sectors (sectorKey b n) .erasing
            policy := fun d => by
              rw [State.setBank_bank]
              split
              · subst_vars; exact ⟨rfl, rfl, rfl, rfl⟩
              · exact ⟨rfl, rfl, rfl, rfl⟩
            pages := fun d => by
              rw [State.setBank_bank]
              split
              · subst_vars; rfl
              · rfl
            sectors := fun d k hk => by
              rw [State.setBank_bank]
              rw [show ((s.setSector b n .erasing).setBank b
                { s.bank b with op := some (Operation.fresh (.erase n)) }).sector d k =
                  (s.setSector b n .erasing).sector d k from rfl, State.setSector_sector]
              have hb := b.isLt
              have hd := d.isLt
              by_cases hbd : b = d
              · subst hbd
                by_cases hnk : n = k
                · subst hnk; simp [ho, Operation.fresh]
                · simp [sectorKey, hnk, Ne.symm hnk, Operation.fresh]
              · have hne : ¬ b.1 = d.1 := fun e => hbd (Fin.ext e)
                have : sectorKey d k ≠ sectorKey b n := by simp only [sectorKey]; omega
                rw [if_neg this, if_neg hbd]
                refine (if_neg fun h => ?_).symm
                change (s.bank d).op = none ∧ Option.map Operation.kind (s.bank d).op = some (.erase k) at h
                rw [h.1] at h
                cases h.2
            banks := fun d => by
              rw [State.setBank_bank]
              split
              · subst_vars
                refine .starts ho hf fun hw => ?_
                have := s.least_erasable _ n hw hn
                refine ⟨hq, ?_, this⟩
                simpa [Bank.mayErase] using he
              · exact .same rfl rfl rfl }
    · exact .refl s

/-- What a bank does at an event that may let it work is bank work. -/
theorem bankSettle_work (b : BankId) (s : State) : BankWork s (bankSettle b s) := by
  unfold bankSettle
  dsimp only
  split
  · exact .refl s
  · rename_i h
    simp only [Bool.or_eq_true, not_or, Bool.not_eq_true, Option.isSome_eq_false_iff, Option.isNone_iff_eq_none] at h
    split
    · rename_i ho
      split
      · exact startStore_work _ _ ho h.2
      · exact startRead_work _ _ h.2 fun o e => by rw [ho] at e; cases e
    · rename_i op ho
      split
      · rename_i hs
        split
        · exact .setBank s b _ rfl (.resumes ho hs h.2) fun e => by rw [ho] at e; cases e
        · refine startRead_work _ _ h.2 fun o e => ?_
          rw [ho] at e
          cases e
          exact hs
      · exact .refl s

/-- A bank that starts a read reads the most urgent request that waits (R141, R142). -/
theorem startRead_reads (b : BankId) (s : State) (h : (s.bank b).fetch ≠ []) :
    ∃ r ∈ (s.bank b).fetch, ((startRead b s).bank b).inFlight = some r ∧
      ∀ f ∈ (s.bank b).fetch, s.urgency r ≤ s.urgency f := by
  unfold startRead
  split
  · rename_i e
    exact absurd ((leastBy_none _ _).1 e) h
  · rename_i r e
    refine ⟨r, leastBy_mem _ _ _ e, ?_, leastBy_le _ _ _ e⟩
    refine ((offerPlaces_work b _ _).banks b).flight r ?_
    rw [State.modTrack_bank, State.modBank_bank]
    simp

/-- A free bank that starts a store operation goes to work (R120, R128). -/
theorem startStore_works (b : BankId) (s : State) (ho : (s.bank b).op = none)
    (hw : tableWf SectorState.free s.store.sectors = true) : s.startsWork (startStore b s) b := by
  unfold startStore
  dsimp only
  split
  · rename_i p r hq
    simp only [State.startsWork, State.setBank_bank, if_true]
    exact ⟨rfl, rfl, rfl, p, r, hq, rfl, rfl⟩
  · rename_i hq
    have idle : ∀ u : State, u.bank b = s.bank b → (∀ n, ¬ s.mayStart b (.erase n)) → s.startsWork u b := by
      intro u hu hn
      simp only [State.startsWork, hu, ho]
      intro kind
      cases kind with
      | program c q => simp [State.mayStart, hq]
      | erase n => exact hn n
    split
    · rename_i he
      split
      · rename_i hl
        refine idle s rfl fun n hn => ?_
        have := (s.mem_erasable b n hw).2 ⟨hn.2.2.1, hn.2.2.2.1⟩
        rw [(leastBy_none _ _).1 hl] at this
        cases this
      · rename_i n hl
        simp only [State.startsWork, State.setBank_bank, if_true]
        refine ⟨rfl, rfl, rfl, hq, ?_, s.least_erasable b n hw hl⟩
        simpa [Bank.mayErase] using he
    · rename_i he
      refine idle s rfl fun n hn => he ?_
      simpa [Bank.mayErase] using hn.2.1

/-- What a bank does at an event that may let it work (R120, R140, R147). -/
theorem bankSettle_settles (b : BankId) (s : State) : s.settles (bankSettle b s) b := by
  refine ⟨fun hs hf hm => ⟨fun hq => ?_, fun hq => ?_⟩, fun h => ?_⟩
  · have hread : bankSettle b s = startRead b s := by
      have hne : (s.bank b).fetch.isEmpty = false := by simpa using hq
      unfold bankSettle
      dsimp only
      rw [if_neg (by simp [hs, hf])]
      split
      · rw [hne]; rfl
      · rename_i op ho
        rw [if_pos (hm op ho), hne]; rfl
    rw [hread]
    obtain ⟨r, h1, h2, h3⟩ := startRead_reads b s hq
    exact ⟨(((startRead_work b s hf hm).banks b).reads (by rw [h2]; simp)).2 hm, r, h1, h2, h3⟩
  · cases ho : (s.bank b).op with
    | none =>
      have hstore : bankSettle b s = startStore b s := by unfold bankSettle; simp [hs, hf, hq, ho]
      rw [hstore]
      refine ⟨?_, fun op e => (by cases e), fun _ hw => startStore_works b s ho hw⟩
      unfold startStore
      dsimp only
      split
      · simpa using hf
      · split
        · split
          · exact hf
          · simpa using hf
        · exact hf
    | some op =>
      have hres : bankSettle b s = s.setBank b { s.bank b with op := some { op with sub := .running } } := by
        unfold bankSettle
        simp [hs, hf, hq, ho, hm op ho]
      rw [hres]
      simp only [State.setBank_bank, if_true]
      exact ⟨hf, fun o e => by cases e; rfl, fun e => by cases e⟩
  · suffices bankSettle b s = s by rw [this]; exact ⟨rfl, rfl⟩
    unfold bankSettle
    rcases h with h | h | h
    · simp [h]
    · simp [Option.isSome_iff_ne_none.2 h]
    · dsimp only
      split
      · rfl
      · split
        · rename_i ho
          exact absurd (fun o e => by rw [ho] at e; cases e) h
        · rename_i op ho
          split
          · rename_i hsub
            exact absurd (fun o e => by rw [ho] at e; cases e; exact hsub) h
          · rfl

/-- A withdrawal is bank work (R63, R151). -/
theorem withdrawFrom_work (dead : List Nat) (s : State) (b : BankId) : BankWork s (withdrawFrom dead s b) := by
  unfold withdrawFrom
  split
  · exact (bankSettle_work _ _).after
      ((offerPlaces_work _ _ _).after (BankWork.modFetch s b (·.filter fun r => !dead.contains r.slot)))
  · exact .refl s

/-- Steps of bank work, one for each member of a list, are bank work. -/
theorem forEach_work {α : Type} (xs : List α) (f : State → α → State) (h : ∀ s x, BankWork s (f s x)) (s : State) :
    BankWork s (forEach xs f s) := by
  unfold forEach
  induction xs generalizing s with
  | nil => exact .refl s
  | cons x r ih => exact (h s x).trans (ih _)

/-- Slots that leave a ring: the ring of that track loses them, and the rest is bank work (R63). -/
theorem dropSlots_work (t : TrackId) (dead : List Nat) (s : State) :
    BankWork (s.modTrack t fun tr => { tr with ring := tr.ring.filter fun x => !dead.contains x.id })
      (dropSlots t dead s) :=
  forEach_work _ _ (fun s b => withdrawFrom_work dead s b) _

end Sys2Proof.Machine
end

