-- ==== Sys2Proof/Laws/Link.lean ====
section
/-! SUPPORT. The request path: what the arbiter does, what meeting the request handler does, and the two lemmas every
statement about a request comes down to (`completes_of`, `refuses_of`). -/

namespace Sys2Proof.Machine

/-! ### The state in which a request is met -/

@[simp] theorem arrive_sansLink (r : Request) (s : State) : (arrive r s).sansLink = s.sansLink := by
  unfold arrive
  split
  · rfl
  · split <;> rfl

@[simp] theorem State.met_sansLink (s : State) (r : Request) : (s.met r).sansLink = s.sansLink := by
  unfold State.met
  split
  · rfl
  · simp

/-- States alike without their link agree on every other block. -/
theorem fields_of_sansLink {s t : State} (h : s.sansLink = t.sansLink) :
    s.held = t.held ∧ s.notices = t.notices ∧ s.timeline = t.timeline ∧ s.cue = t.cue ∧ s.flags = t.flags ∧
      s.tracks = t.tracks ∧ s.slotSeq = t.slotSeq ∧ s.ports = t.ports ∧ s.store = t.store ∧ s.banks = t.banks ∧
      s.lines = t.lines ∧ s.work = t.work ∧ s.pending = t.pending := by
  simp only [State.sansLink, State.mk.injEq] at h
  obtain ⟨h1, -, h2, h3, h4, h5, h6, h7, h8, h9, h10, h11, h12, h13⟩ := h
  exact ⟨h1, h2, h3, h4, h5, h6, h7, h8, h9, h10, h11, h12, h13⟩

@[simp] theorem State.met_held (s : State) (r : Request) : (s.met r).held = s.held :=
  (fields_of_sansLink (s.met_sansLink r)).1
@[simp] theorem State.met_notices (s : State) (r : Request) : (s.met r).notices = s.notices :=
  (fields_of_sansLink (s.met_sansLink r)).2.1
@[simp] theorem State.met_timeline (s : State) (r : Request) : (s.met r).timeline = s.timeline :=
  (fields_of_sansLink (s.met_sansLink r)).2.2.1
@[simp] theorem State.met_cue (s : State) (r : Request) : (s.met r).cue = s.cue :=
  (fields_of_sansLink (s.met_sansLink r)).2.2.2.1
@[simp] theorem State.met_flags (s : State) (r : Request) : (s.met r).flags = s.flags :=
  (fields_of_sansLink (s.met_sansLink r)).2.2.2.2.1
@[simp] theorem State.met_tracks (s : State) (r : Request) : (s.met r).tracks = s.tracks :=
  (fields_of_sansLink (s.met_sansLink r)).2.2.2.2.2.1
@[simp] theorem State.met_slotSeq (s : State) (r : Request) : (s.met r).slotSeq = s.slotSeq :=
  (fields_of_sansLink (s.met_sansLink r)).2.2.2.2.2.2.1
@[simp] theorem State.met_ports (s : State) (r : Request) : (s.met r).ports = s.ports :=
  (fields_of_sansLink (s.met_sansLink r)).2.2.2.2.2.2.2.1
@[simp] theorem State.met_store (s : State) (r : Request) : (s.met r).store = s.store :=
  (fields_of_sansLink (s.met_sansLink r)).2.2.2.2.2.2.2.2.1
@[simp] theorem State.met_banks (s : State) (r : Request) : (s.met r).banks = s.banks :=
  (fields_of_sansLink (s.met_sansLink r)).2.2.2.2.2.2.2.2.2.1
@[simp] theorem State.met_lines (s : State) (r : Request) : (s.met r).lines = s.lines :=
  (fields_of_sansLink (s.met_sansLink r)).2.2.2.2.2.2.2.2.2.2.1
@[simp] theorem State.met_work (s : State) (r : Request) : (s.met r).work = s.work :=
  (fields_of_sansLink (s.met_sansLink r)).2.2.2.2.2.2.2.2.2.2.2.1
@[simp] theorem State.met_pending (s : State) (r : Request) : (s.met r).pending = s.pending :=
  (fields_of_sansLink (s.met_sansLink r)).2.2.2.2.2.2.2.2.2.2.2.2
@[simp] theorem State.met_track (s : State) (r : Request) (t : TrackId) : (s.met r).track t = s.track t := by
  simp [State.track]
@[simp] theorem State.met_port (s : State) (r : Request) (p : PortId) : (s.met r).port p = s.port p := by
  simp [State.port]
@[simp] theorem State.met_bank (s : State) (r : Request) (b : BankId) : (s.met r).bank b = s.bank b := by
  simp [State.bank]
@[simp] theorem State.met_trigger (s : State) (r : Request) (n : LineId) : (s.met r).trigger n = s.trigger n := by
  simp [State.trigger]
@[simp] theorem State.met_marker (s : State) (r : Request) (n : LineId) : (s.met r).marker n = s.marker n := by
  simp [State.marker]
@[simp] theorem State.met_clip (s : State) (r : Request) (c : ClipId) : (s.met r).clip c = s.clip c := by
  simp [State.clip]
@[simp] theorem State.met_sector (s : State) (r : Request) (b : BankId) (n : Nat) :
    (s.met r).sector b n = s.sector b n := by
  simp [State.sector]
@[simp] theorem State.met_notice (s : State) (r : Request) (n : SourceId) : (s.met r).notice n = s.notice n := by
  simp [State.notice]
@[simp] theorem State.met_cueEntry (s : State) (r : Request) (i : CueIndex) : (s.met r).cueEntry i = s.cueEntry i := by
  simp [State.cueEntry]
@[simp] theorem State.met_flagSet (s : State) (r : Request) (f : FlagId) : (s.met r).flagSet f = s.flagSet f := by
  simp [State.flagSet]

/-- A request that the part handles stands at the front of the queue when it is met, and nothing else of the link has
changed. -/
theorem State.met_link (s : State) (r : Request) (h : s.serves r) :
    (s.met r).link = { s.link with requests := r :: s.link.requests.tail } := by
  obtain ⟨_, _, h | h⟩ := h
  · have : s.link.requests = r :: s.link.requests.tail := by
      cases hq : s.link.requests with
      | nil => simp [hq] at h
      | cons a b => simp [hq] at h; simp [h]
    rw [State.met, if_pos h, ← this]
  · rw [State.met, if_neg (by simp [h])]
    simp [arrive, State.modLink, h, Config.requestQueue]

theorem State.met_canHandle (s : State) (r : Request) (h : s.serves r) : (s.met r).canHandle r = true := by
  simp [State.canHandle, s.met_link r h, h.2.1]

/-! ### The arbiter (R188) -/

/-- While a frame is being sent the arbiter starts nothing. -/
theorem arbitrate_busy (s : State) (f : Frame) (h : s.link.tx = some f) : arbitrate s = s := by
  simp [arbitrate, h]

/-- With an answer waiting the arbiter moves nothing but the front answer into a free transmitter. -/
theorem arbitrate_answers (s : State) (a : Answer) (r : List Answer) (h : s.link.answers = a :: r) :
    (arbitrate s).sansLink = s.sansLink ∧ (arbitrate s).link.rx = s.link.rx ∧ (arbitrate s).link.gap = s.link.gap ∧
      (arbitrate s).link.requests = s.link.requests ∧ (arbitrate s).link.tx.isSome = true ∧
      (arbitrate s).outbox = s.outbox := by
  cases htx : s.link.tx with
  | some f => rw [arbitrate_busy s f htx]; simp [htx]
  | none => simp [arbitrate, htx, h, State.modLink, State.sansLink, State.outbox]

/-- The arbiter changes nothing but the link and the notice table: at most one record leaves, when no answer waits. -/
theorem arbitrate_frame (s : State) :
    { arbitrate s with link := s.link, notices := s.notices } = s ∧ (arbitrate s).link.rx = s.link.rx ∧
      (arbitrate s).link.gap = s.link.gap ∧ (arbitrate s).link.requests = s.link.requests ∧
      (arbitrate s).notices.levels = s.notices.levels ∧ (arbitrate s).notices.enable = s.notices.enable ∧
      (∀ n, (arbitrate s).notice n = s.notice n ∨ (arbitrate s).notice n = none) ∧
      (arbitrate s).link.answers.length ≤ s.link.answers.length := by
  unfold arbitrate
  split
  · simp
  · split
    · rename_i h; simp [State.modLink, State.notice, h]
    · rename_i h
      split
      · simp
      · rename_i k _
        refine ⟨rfl, rfl, rfl, rfl, rfl, rfl, fun n => ?_, by simp [State.modLink]⟩
        rw [State.modLink_notice, State.setNotice_notice]
        split <;> simp

/-- Whatever does not look at the link or the notice table does not see the arbiter. -/
theorem arbitrate_field {β : Type} (f : State → β)
    (hf : ∀ (s : State) l n, f { s with link := l, notices := n } = f s) (s : State) : f (arbitrate s) = f s := by
  rw [← hf (arbitrate s) s.link s.notices, (arbitrate_frame s).1]

@[simp] theorem arbitrate_held (s : State) : (arbitrate s).held = s.held :=
  arbitrate_field State.held (fun _ _ _ => rfl) s
@[simp] theorem arbitrate_timeline (s : State) : (arbitrate s).timeline = s.timeline :=
  arbitrate_field State.timeline (fun _ _ _ => rfl) s
@[simp] theorem arbitrate_cue (s : State) : (arbitrate s).cue = s.cue :=
  arbitrate_field State.cue (fun _ _ _ => rfl) s
@[simp] theorem arbitrate_flags (s : State) : (arbitrate s).flags = s.flags :=
  arbitrate_field State.flags (fun _ _ _ => rfl) s
@[simp] theorem arbitrate_tracks (s : State) : (arbitrate s).tracks = s.tracks :=
  arbitrate_field State.tracks (fun _ _ _ => rfl) s
@[simp] theorem arbitrate_slotSeq (s : State) : (arbitrate s).slotSeq = s.slotSeq :=
  arbitrate_field State.slotSeq (fun _ _ _ => rfl) s
@[simp] theorem arbitrate_ports (s : State) : (arbitrate s).ports = s.ports :=
  arbitrate_field State.ports (fun _ _ _ => rfl) s
@[simp] theorem arbitrate_store (s : State) : (arbitrate s).store = s.store :=
  arbitrate_field State.store (fun _ _ _ => rfl) s
@[simp] theorem arbitrate_banks (s : State) : (arbitrate s).banks = s.banks :=
  arbitrate_field State.banks (fun _ _ _ => rfl) s
@[simp] theorem arbitrate_lines (s : State) : (arbitrate s).lines = s.lines :=
  arbitrate_field State.lines (fun _ _ _ => rfl) s
@[simp] theorem arbitrate_work (s : State) : (arbitrate s).work = s.work :=
  arbitrate_field State.work (fun _ _ _ => rfl) s
@[simp] theorem arbitrate_pending (s : State) : (arbitrate s).pending = s.pending :=
  arbitrate_field State.pending (fun _ _ _ => rfl) s
@[simp] theorem arbitrate_track (s : State) (t : TrackId) : (arbitrate s).track t = s.track t := by
  simp [State.track]
@[simp] theorem arbitrate_port (s : State) (p : PortId) : (arbitrate s).port p = s.port p := by simp [State.port]
@[simp] theorem arbitrate_bank (s : State) (b : BankId) : (arbitrate s).bank b = s.bank b := by simp [State.bank]
@[simp] theorem arbitrate_clip (s : State) (c : ClipId) : (arbitrate s).clip c = s.clip c := by simp [State.clip]
@[simp] theorem arbitrate_sector (s : State) (b : BankId) (n : Nat) :
    (arbitrate s).sector b n = s.sector b n := by simp [State.sector]
@[simp] theorem arbitrate_cueEntry (s : State) (i : CueIndex) :
    (arbitrate s).cueEntry i = s.cueEntry i := by simp [State.cueEntry]

/-! ### The request handler (R187) -/

/-- A request that the part handles: its event is its handling, and then the arbiter's choice. -/
theorem event_serve (handler : List Byte → State → Reply) (r : Request) (s : State) (h : s.serves r) :
    s.event (serve handler r) = arbitrate (handleFront r.tag (handler r.payload (s.met r)) (s.met r)) := by
  have hh : s.held = false := h.1
  have hc := s.met_canHandle r h
  simp only [State.event, hh, Bool.false_eq_true, if_false, serve]
  rw [show (if s.link.requests.head? = some r then s else arrive r s) = s.met r from rfl, if_pos hc]

/-- An answer made at the front is on its way once the arbiter has chosen. -/
theorem answered (s u : State) (r : Request) (code : AnswerCode) (payload : List Byte) (h : s.serves r)
    (hl : u.link = (s.met r).link) :
    Answered s (arbitrate (u.answerFront r.tag code payload)) r.tag code payload ∧
      (arbitrate (u.answerFront r.tag code payload)).link.requests = s.link.requests.tail ∧
      (arbitrate (u.answerFront r.tag code payload)).sansLink = u.sansLink := by
  have hm := hl.trans (s.met_link r h)
  have ha : ∃ a l, (u.answerFront r.tag code payload).link.answers = a :: l := by
    simp only [State.answerFront, State.pushAnswer, State.modLink]
    cases u.link.answers <;> simp
  obtain ⟨a, l, ha⟩ := ha
  obtain ⟨h1, h2, h3, h4, h5, h6⟩ := arbitrate_answers _ a l ha
  refine ⟨⟨?_, ?_, h5, ?_⟩, ?_, ?_⟩
  · rw [h2]; simp [State.answerFront, State.pushAnswer, State.modLink, hm]
  · rw [h3]; simp [State.answerFront, State.pushAnswer, State.modLink, hm]
  · rw [h6]; simp [State.outbox, State.answerFront, State.pushAnswer, State.modLink, hm]
  · rw [h4]; simp [State.answerFront, State.pushAnswer, State.modLink, hm]
  · rw [h1]; rfl

/-- A command whose handler takes the request and leaves the link to the handler completes. -/
theorem completes_of {c : Instr} {s u v : State} {r : Request} {handler : List Byte → State → Reply}
    {payload : List Byte} (he : exec c s = .next (s.event (serve handler r))) (h : s.serves r)
    (hr : handler r.payload (s.met r) = .ok (payload, u)) (hl : u.link = (s.met r).link)
    (hu : u.sansLink = v.sansLink) : Completes c s r.tag payload v := by
  have := answered s u r .done payload h hl
  refine ⟨_, he, ?_⟩
  rw [event_serve handler r s h, hr]
  exact ⟨this.1, this.2.1, this.2.2.trans hu⟩

/-- A command whose handler refuses the request is refused. -/
theorem refuses_of {c : Instr} {s : State} {r : Request} {handler : List Byte → State → Reply} {code : AnswerCode}
    (he : exec c s = .next (s.event (serve handler r))) (h : s.serves r)
    (hr : handler r.payload (s.met r) = .error code) : Refuses c s r.tag code := by
  have := answered s (s.met r) r code [] h rfl
  refine ⟨_, he, ?_⟩
  rw [event_serve handler r s h, hr]
  exact ⟨this.1, this.2.1, this.2.2.trans (s.met_sansLink r)⟩

end Sys2Proof.Machine
end

