-- ==== Sys2Proof/Laws/Lookahead.lean ====
section
/-! SUPPORT. What the lookahead of a track does by itself (`LookaheadWork`): one lemma for each operation of
`Machine/Lookahead.lean`. -/

namespace Sys2Proof.Machine

theorem LookaheadWork.refl (t : TrackId) (s : State) : LookaheadWork t s s :=
  { Undisturbed.refl s with
    notices := fun _ _ _ => rfl
    others := fun _ _ => Track.SameBut.refl _
    own := rfl
    primed := .inl ⟨rfl, rfl, id⟩
    slotSeq := le_refl _
    flags := rfl
    ports := rfl
    markers := rfl
    work := rfl }

/-- The track's own notice source is no bank's. -/
theorem trackSource_range (t : TrackId) : 6 ≤ (trackSource t).1 := by simp only [trackSource]; omega

theorem bankSource_ne_trackSource (b : BankId) (t : TrackId) : bankSource b ≠ trackSource t := by
  intro h
  have := congrArg Fin.val h
  have := b.isLt
  simp only [bankSource, trackSource] at *
  omega

/-- A cause at a track's source leaves the records of the banks. -/
theorem raise_track_bankNotice (s : State) (t : TrackId) (c : Cause) (b : BankId) :
    (s.raise (trackSource t) c).notice (bankSource b) = s.notice (bankSource b) := by
  rw [State.raise_notice]
  simp [Ne.symm (bankSource_ne_trackSource b t)]

/-- Bank work is lookahead work of any track. -/
theorem BankWork.lookahead {s u : State} (h : BankWork s u) (t : TrackId) : LookaheadWork t s u :=
  { h.toUndisturbed with
    notices := fun n hn _ => h.notices n hn
    others := fun k _ => h.tracks k
    own := by
      have h1 := (h.tracks t).1
      rw [← h1]
    primed := .inl ⟨by rw [← (h.tracks t).1], h.notices _ (.inr (trackSource_range t)), by rw [← (h.tracks t).1]; exact id⟩
    slotSeq := le_of_eq h.slotSeq.symm
    flags := h.flags
    ports := h.ports
    markers := h.markers
    work := h.work }

theorem LookaheadWork.trans {t : TrackId} {s u v : State} (h : LookaheadWork t s u) (k : LookaheadWork t u v) :
    LookaheadWork t s v :=
  { h.toUndisturbed.trans k.toUndisturbed with
    notices := fun n hn hk => (k.notices n hn hk).trans (h.notices n hn hk)
    others := fun j hj => (h.others j hj).trans (k.others j hj)
    own := by rw [← h.own, ← k.own]
    primed := by
      rcases h.primed with ⟨h1, h2, h3⟩ | ⟨h1, h2, h3, h4, h5⟩
      · rcases k.primed with ⟨k1, k2, k3⟩ | ⟨k1, k2, k3, k4, k5⟩
        · exact .inl ⟨k1.trans h1, k2.trans h2, fun e => k3 (h3 e)⟩
        · refine .inr ⟨h1 ▸ k1, ?_, k3, k4, ?_⟩
          · cases hp : (s.track t).primed with
            | false => rfl
            | true => rw [h3 hp] at k2; cases k2
          · rw [k5, h2, h.timeline]
      · rcases k.primed with ⟨k1, k2, k3⟩ | ⟨k1, k2, k3, k4, k5⟩
        · exact .inr ⟨h1, h2, k1.trans h3, k3 h4, k2.trans h5⟩
        · rw [h4] at k2; cases k2
    slotSeq := le_trans h.slotSeq k.slotSeq
    flags := k.flags.trans h.flags
    ports := k.ports.trans h.ports
    markers := k.markers.trans h.markers
    work := k.work.trans h.work }

/-- Lookahead work after lookahead work. -/
theorem LookaheadWork.after {t : TrackId} {s u v : State} (k : LookaheadWork t u v) (h : LookaheadWork t s u) :
    LookaheadWork t s v := h.trans k

/-- A change of the track's queue, ring and walk is lookahead work. -/
theorem LookaheadWork.setTrack (t : TrackId) (s : State) (tr : Track)
    (h : { tr with queue := (s.track t).queue, ring := (s.track t).ring, walk := (s.track t).walk } = s.track t) :
    LookaheadWork t s (s.setTrack t tr) :=
  { LookaheadWork.refl t s with
    others := fun k hk => by
      rw [State.setTrack_track_other _ _ _ _ (Ne.symm hk)]
      exact Track.SameBut.refl _
    own := by
      rw [State.setTrack_track_same]
      rw [← h]
    primed := by
      rw [State.setTrack_track_same]
      refine .inl ⟨?_, rfl, ?_⟩
      · rw [← h]
      · rw [← h]; exact id }

/-- A change of the track's queue, ring and walk is lookahead work. -/
theorem LookaheadWork.modTrack (t : TrackId) (s : State) (f : Track → Track)
    (h : ∀ a, { f a with queue := a.queue, ring := a.ring, walk := a.walk } = a) :
    LookaheadWork t s (s.modTrack t f) := LookaheadWork.setTrack t s _ (h _)

/-- A new slot at the back of the ring, with its request, is lookahead work (R61). -/
theorem addSlot_work (t : TrackId) (x : Slot) (s : State) : LookaheadWork t s (addSlot t x s) := by
  have h1 : LookaheadWork t s
      { s.modTrack t (fun tr => { tr with ring := tr.ring ++ [x] }) with slotSeq := s.slotSeq + 1 } :=
    { LookaheadWork.modTrack t s (fun tr => { tr with ring := tr.ring ++ [x] }) (fun _ => rfl) with
      slotSeq := Nat.le_succ _ }
  unfold addSlot
  dsimp only
  split
  · exact h1
  · split
    · exact (((bankSettle_work _ _).after (joinFetch_work _ _ _)).lookahead t).after h1
    · exact h1

theorem Track.setPhase_same (tr : Track) (p : WalkPhase) :
    { tr.setPhase p with queue := tr.queue, ring := tr.ring, walk := tr.walk } = tr := rfl

/-- What a walk decides changes nothing of a track but its queue, its ring and its walk. -/
theorem Track.walkOn_same (tr : Track) (c : Copy) :
    { tr.walkOn c with queue := tr.queue, ring := tr.ring, walk := tr.walk } = tr := by
  unfold Track.walkOn Track.afterTrailing Track.setPhase
  repeat' split
  all_goals rfl

theorem Track.endOfPlay_same (tr : Track) (c : Copy) :
    { tr.endOfPlay c with queue := tr.queue, ring := tr.ring, walk := tr.walk } = tr := by
  unfold Track.endOfPlay
  dsimp only
  split
  · rfl
  · split
    · rfl
    · have := Track.walkOn_same { tr with queue := tr.queue.dropLast ++ [{ c with prepared := c.prepared + 1 }] }
        { c with prepared := c.prepared + 1 }
      generalize hw : ({ tr with queue := tr.queue.dropLast ++ [{ c with prepared := c.prepared + 1 }] } : Track).walkOn
        { c with prepared := c.prepared + 1 } = w at *
      cases tr
      simp only [Track.mk.injEq] at this ⊢
      simpa using this

/-- Taking a copy is lookahead work (R58). -/
theorem takeCopy_work (t : TrackId) (i : CueIndex) (trailing : Bool) (s : State) :
    LookaheadWork t s (takeCopy t i trailing s) := by
  unfold takeCopy
  exact .modTrack t s _ fun _ => rfl

/-- Forming a split is lookahead work (R69). -/
theorem formSplit_work (t : TrackId) (c : Copy) (s : State) : LookaheadWork t s (formSplit t c s) := by
  unfold formSplit
  exact .modTrack t s _ fun _ => rfl

/-- One step of the walk is lookahead work (R64). -/
theorem walkStep_work (t : TrackId) (s u : State) (h : walkStep t s = some u) : LookaheadWork t s u := by
  unfold walkStep at h
  dsimp only at h
  split at h
  iterate 4 cases h
  · split at h
    · cases h; exact takeCopy_work _ _ _ _
    · cases h
  · split at h
    · cases h
    · split at h
      · cases h; exact .setTrack t s _ (Track.endOfPlay_same _ _)
      · split at h
        · cases h; exact (addSlot_work _ _ _).after (.setTrack t s _ (Track.setPhase_same _ _))
        · cases h
  · split at h
    · cases h
    · split at h
      · cases h; exact formSplit_work _ _ _
      · cases h
  · split at h
    · cases h
    · split at h
      · cases h; exact addSlot_work _ _ _
      · cases h

/-- Steps of the walk are lookahead work. -/
theorem walkLoop_work (t : TrackId) (n : Nat) (s : State) : LookaheadWork t s (walkLoop t n s) := by
  induction n generalizing s with
  | zero => exact .refl t s
  | succ n ih =>
    rw [walkLoop]
    split
    · exact .refl t s
    · exact (walkStep_work t s _ ‹_›).trans (ih _)

/-- Judging the priming condition is lookahead work (R30). -/
theorem checkPriming_work (t : TrackId) (s : State) : LookaheadWork t s (checkPriming t s) := by
  unfold checkPriming
  dsimp only
  split
  · rename_i h
    simp only [Bool.and_eq_true, Bool.not_eq_true', Bool.or_eq_true, decide_eq_true_eq] at h
    split
    · rename_i hs
      exact
        { LookaheadWork.refl t s with
          banks := fun b => .same rfl rfl (raise_track_bankNotice _ t _ b)
          notices := fun n _ hn => by
            rw [State.raise_notice]
            simp [Ne.symm hn]
          others := fun k hk => by
            rw [State.raise_track, State.setTrack_track_other _ _ _ _ (Ne.symm hk)]
            exact Track.SameBut.refl _
          own := by rw [State.raise_track, State.setTrack_track_same]
          primed := by
            refine .inr ⟨hs, h.1.1, ?_, ?_, ?_⟩
            · rw [State.raise_track, State.setTrack_track_same]
            · rw [State.raise_track, State.setTrack_track_same]
            · rw [State.raise_notice]; simp }
    · exact
        { LookaheadWork.refl t s with
          others := fun k hk => by
            rw [State.setTrack_track_other _ _ _ _ (Ne.symm hk)]
            exact Track.SameBut.refl _
          own := by rw [State.setTrack_track_same]
          primed := by
            rw [State.setTrack_track_same]
            exact .inl ⟨rfl, rfl, fun _ => rfl⟩ }
  · exact .refl t s

/-- The walk of a track is lookahead work (R64, R30). -/
theorem walk_work (t : TrackId) (s : State) : LookaheadWork t s (walk t s) :=
  (checkPriming_work t _).after (walkLoop_work t _ s)

/-- Slots that leave a ring are lookahead work (R63). -/
theorem dropSlots_lookahead (t : TrackId) (dead : List Nat) (s : State) : LookaheadWork t s (dropSlots t dead s) :=
  ((dropSlots_work t dead s).lookahead t).after (.modTrack t s _ fun _ => rfl)

/-- The re-walk of a TRACK BREAK is lookahead work (R75). -/
theorem breakWalk_work (t : TrackId) (s : State) : LookaheadWork t s (breakWalk t s) := by
  unfold breakWalk
  dsimp only
  split
  · exact .refl t s
  · exact (walk_work t _).after ((dropSlots_lookahead t _ _).after (.setTrack t s _ rfl))

/-- The resolution of a split is lookahead work (R70). -/
theorem resolveSplit_work (t : TrackId) (chosen : PathTag) (s : State) : LookaheadWork t s (resolveSplit t chosen s) :=
  (LookaheadWork.modTrack t _ (·.adoptPath chosen) fun _ => rfl).after
    ((dropSlots_lookahead t _ _).after (.modTrack t s _ fun _ => rfl))

/-- A walk that restarts at home is lookahead work (R64). -/
theorem restartWalk_work (t : TrackId) (s : State) : LookaheadWork t s (restartWalk t s) :=
  (walk_work t _).after (.modTrack t s _ fun _ => rfl)

end Sys2Proof.Machine
end

