-- ==== Sys2Proof/Laws/Playback.lean ====
section
/-! SUPPORT. What a track does to other blocks at a tick start (`TrackWork`): one lemma for each operation of
`Machine/Playback.lean`. -/

namespace Sys2Proof.Machine

theorem TrackWork.refl (t : TrackId) (s : State) : TrackWork t s s :=
  { Undisturbed.refl s with
    notices := fun _ _ _ => rfl
    others := fun _ _ => Track.SameBut.refl _
    ports := fun _ => rfl
    markers := fun _ => rfl
    work := rfl }

theorem TrackWork.trans {t : TrackId} {s u v : State} (h : TrackWork t s u) (k : TrackWork t u v) : TrackWork t s v :=
  { h.toUndisturbed.trans k.toUndisturbed with
    notices := fun n hn hk => (k.notices n hn hk).trans (h.notices n hn hk)
    others := fun j hj => (h.others j hj).trans (k.others j hj)
    ports := fun p => by rw [← h.ports p, ← k.ports p]
    markers := fun m => by rw [← h.markers m, ← k.markers m]
    work := by rw [← h.work, ← k.work] }

/-- Track work after track work. -/
theorem TrackWork.after {t : TrackId} {s u v : State} (k : TrackWork t u v) (h : TrackWork t s u) : TrackWork t s v :=
  h.trans k

/-- Lookahead work is track work. -/
theorem LookaheadWork.track {t : TrackId} {s u : State} (h : LookaheadWork t s u) : TrackWork t s u :=
  { h.toUndisturbed with
    notices := h.notices
    others := h.others
    ports := fun p => by simp only [State.port, h.ports]
    markers := fun m => by simp only [State.marker, h.markers]
    work := by rw [h.work] }

/-- A change of the track is track work. -/
theorem TrackWork.setTrack (t : TrackId) (s : State) (tr : Track) : TrackWork t s (s.setTrack t tr) :=
  { TrackWork.refl t s with
    others := fun k hk => by
      rw [State.setTrack_track_other _ _ _ _ (Ne.symm hk)]
      exact Track.SameBut.refl _ }

/-- A change of the track is track work. -/
theorem TrackWork.modTrack (t : TrackId) (s : State) (f : Track → Track) : TrackWork t s (s.modTrack t f) :=
  TrackWork.setTrack t s _

/-- A cause at the track's own source is track work. -/
theorem TrackWork.raise (t : TrackId) (s : State) (c : Cause) : TrackWork t s (s.raise (trackSource t) c) :=
  { TrackWork.refl t s with
    banks := fun b => .same rfl rfl (raise_track_bankNotice s t c b)
    notices := fun n _ hn => by
      rw [State.raise_notice]
      simp [Ne.symm hn] }

theorem TrackWork.raiseIf (t : TrackId) (s : State) (b : Bool) (c : Cause) :
    TrackWork t s (s.raiseIf b (trackSource t) c) := by
  unfold State.raiseIf
  split
  · exact .raise t s c
  · exact .refl t s

/-- Steps of track work, one for each member of a list, are track work. -/
theorem forEach_trackWork {α : Type} (t : TrackId) (xs : List α) (f : State → α → State)
    (h : ∀ s x, TrackWork t s (f s x)) (s : State) : TrackWork t s (forEach xs f s) := by
  unfold forEach
  induction xs generalizing s with
  | nil => exact .refl t s
  | cons x r ih => exact (h s x).trans (ih _)

/-- A flag action is track work (R5). -/
theorem flagAction_work (t : TrackId) (s : State) (a : FlagAction) (f : FlagId) : TrackWork t s (s.flagAction a f) := by
  cases a
  · exact .refl t s
  · exact { TrackWork.refl t s with }
  · exact { TrackWork.refl t s with }

/-- The pulses of an entry start are track work (R5, R176). -/
theorem pulseMarkers_work (t : TrackId) (mask : BitVec 4) (s : State) : TrackWork t s (pulseMarkers mask s) := by
  refine forEach_trackWork t _ _ (fun s m => ?_) s
  unfold pulseMarker
  split
  · refine { TrackWork.refl t s with markers := fun k => ?_ }
    rw [State.setMarker_marker]
    split
    · subst_vars; rfl
    · rfl
  · exact .refl t s

/-- The start actions of an entry are track work (R5). -/
theorem startActions_work (t : TrackId) (e : CueEntry) (s : State) : TrackWork t s (startActions t e s) :=
  (TrackWork.raiseIf t _ _ _).after ((pulseMarkers_work t _ _).after (flagAction_work t s _ _))

/-- The frequency clamp is track work (R90). -/
theorem clampTrack_work (t : TrackId) (e : CueEntry) (s : State) : TrackWork t s (clampTrack t e s) := by
  unfold clampTrack
  dsimp only
  split
  · exact (TrackWork.raise t _ _).after (.setTrack t s _)
  · exact .refl t s

/-- A feed's computation is track work (R79, R99). -/
theorem computeFeed_work (t : TrackId) (tr : Track) (c : Copy) (word : BitVec 32) (data : Option (List Byte))
    (s : State) (f : Feed) : TrackWork t s (computeFeed t tr c word data s f) := by
  unfold computeFeed
  dsimp only
  refine (TrackWork.modTrack t _ _).after ?_
  refine { TrackWork.refl t s with ports := fun p => ?_ }
  rw [State.modPort_port]
  split
  · subst_vars; rfl
  · rfl

/-- The level unit's computation is track work (R79). -/
theorem levelTick_work (t : TrackId) (c : Copy) (data : Option (List Byte)) (s : State) :
    TrackWork t s (levelTick t c data s) := by
  unfold levelTick
  dsimp only
  exact (TrackWork.modTrack t _ _).after ((clampTrack_work t _ _).after ((TrackWork.raiseIf t _ _ _).after
    ((TrackWork.modTrack t _ _).after ((forEach_trackWork t _ _ (fun s f => computeFeed_work t _ _ _ _ s f) _).after
      (.setTrack t s _)))))

/-- Consumption is track work (R38). -/
theorem consume_work (t : TrackId) (s : State) : TrackWork t s (consume t s).2 := by
  have hu : ∀ s, TrackWork t s (underrun t s) := fun s => (TrackWork.raise t _ _).after (.modTrack t s _)
  have hr : ∀ s, TrackWork t s (readFault t s) := fun s => (TrackWork.raise t _ _).after (.modTrack t s _)
  unfold consume
  split
  · exact (hu _).after (.modTrack t s _)
  · split
    · exact (hu _).after (.modTrack t s _)
    · have hd := fun dead => (dropSlots_lookahead t dead s).track
      generalize dropSlots t = drop at hd
      dsimp only
      split
      · exact hd _
      · exact (hr _).after (hd _)
      all_goals exact (hu _).after (hd _)

/-- A block played is track work (R38, R79). -/
theorem playBlock_work (t : TrackId) (c : Copy) (entryStart : Bool) (s : State) :
    TrackWork t s (playBlock t c entryStart s) := by
  unfold playBlock
  dsimp only
  refine ((walk_work t _).track).after ((levelTick_work t _ _ _).after ?_)
  have h2 : TrackWork t s (if (((consume t s).2.track t).transferPoint entryStart c.entry &&
      ((consume t s).2.track t).stagedPending) = true then (consume t s).2.setTrack t ((consume t s).2.track t).transfer
      else (consume t s).2) := by
    split
    · exact (TrackWork.setTrack t _ _).after (consume_work t s)
    · exact consume_work t s
  split
  · exact (clampTrack_work t _ _).after h2
  · exact h2

/-- A discard of queue and ring is track work (R75). -/
theorem discardAll_work (t : TrackId) (s : State) : TrackWork t s (discardAll t s) :=
  (dropSlots_lookahead t _ _).track.after (.modTrack t s _)

/-- A fault is track work (R41). -/
theorem faultTrack_work (t : TrackId) (reason : FaultReason) (index : CueIndex) (s : State) :
    TrackWork t s (faultTrack t reason index s) :=
  (TrackWork.raise t _ _).after ((TrackWork.modTrack t _ _).after (discardAll_work t s))

/-- The completion of a stop or a finish is track work (R49). -/
theorem completeStop_work (t : TrackId) (cause : Cause) (s : State) : TrackWork t s (completeStop t cause s) :=
  (restartWalk_work t _).track.after
    ((TrackWork.raise t _ _).after ((TrackWork.modTrack t _ _).after (discardAll_work t s)))

/-- The beginning of the front copy is track work (R5, R40). -/
theorem beginFront_work (t : TrackId) (s : State) : TrackWork t s (beginFront t s) := by
  unfold beginFront
  split
  · exact .refl t s
  · split
    · exact faultTrack_work t _ _ s
    · exact (playBlock_work t _ _ _).after ((startActions_work t _ _).after (.modTrack t s _))

/-- The beginning of the copy behind is track work (R40). -/
theorem beginNext_work (t : TrackId) (leave : Track → Track) (s : State) : TrackWork t s (beginNext t leave s) := by
  unfold beginNext
  split
  · exact (beginFront_work t _).after (.modTrack t s _)
  · exact .refl t s

/-- The boundary of an IF entry without late is track work (R10, R70). -/
theorem resolveIf_work (t : TrackId) (c : Copy) (s : State) : TrackWork t s (resolveIf t c s) := by
  have hr := fun p => (resolveSplit_work t p s).track
  unfold resolveIf
  dsimp only
  generalize resolveSplit t = resolve at hr
  generalize (if s.branchTaken c.entry = true then PathTag.taken else PathTag.fall) = chosen
  refine (beginNext_work t _ _).after ?_
  split
  · exact hr _
  · exact .refl t s

/-- The boundary after an entry's last play is track work (R6 to R13). -/
theorem followEntry_work (t : TrackId) (c : Copy) (s : State) : TrackWork t s (followEntry t c s) := by
  unfold followEntry
  split
  · unfold afterTrailing
    split
    · exact faultTrack_work t _ _ s
    · exact beginNext_work t _ s
  · split
    · exact beginNext_work t _ s
    · split
      · exact beginNext_work t _ s
      · exact beginNext_work t _ s
      · exact beginNext_work t _ s
      · split
        · exact beginNext_work t _ s
        · exact faultTrack_work t _ _ s
      iterate 2
        · exact resolveIf_work t c s
      · unfold holdBoundary
        split
        · exact completeStop_work t _ s
        · split
          · exact beginNext_work t _ s
          · exact .modTrack t s _
      · exact completeStop_work t _ s

/-- A boundary is track work (R39). -/
theorem boundary_work (t : TrackId) (c : Copy) (s : State) : TrackWork t s (boundary t c s) := by
  unfold boundary
  dsimp only
  split
  · exact completeStop_work t _ s
  · split
    · exact (playBlock_work t _ _ _).after (.setTrack t s _)
    · exact followEntry_work t c s

/-- A playing track's tick start is track work (R38, R39). -/
theorem playTick_work (t : TrackId) (s : State) : TrackWork t s (playTick t s) := by
  unfold playTick
  dsimp only
  split
  · exact completeStop_work t _ s
  · split
    · exact .refl t s
    · split
      · exact (boundary_work t _ _).after (.setTrack t s _)
      · exact (playBlock_work t _ _ _).after (.setTrack t s _)

/-- A starting track's tick start is track work (R33, R36). -/
theorem startTick_work (t : TrackId) (s : State) : TrackWork t s (startTick t s) := by
  unfold startTick
  split
  · unfold beginTrack
    split
    · exact .refl t s
    · split
      · exact faultTrack_work t _ _ s
      · exact (TrackWork.raise t _ _).after ((beginFront_work t _).after (.modTrack t s _))
  · split
    · exact (TrackWork.raise t _ _).after (.modTrack t s _)
    · exact .modTrack t s _

/-- A holding track's tick start is track work (R42, R44). -/
theorem holdTick_work (t : TrackId) (s : State) : TrackWork t s (holdTick t s) := by
  unfold holdTick
  dsimp only
  split
  · exact completeStop_work t _ s
  · split
    · exact beginNext_work t _ s
    · exact .setTrack t s _

/-- What a track does at a tick start is track work. -/
theorem trackTick_work (t : TrackId) (s : State) : TrackWork t s (trackTick t s) := by
  have hm : TrackWork t s (s.markTrack t) := { TrackWork.refl t s with }
  unfold trackTick
  dsimp only
  split
  · exact .refl t s
  · split
    · exact (startTick_work t _).after hm
    · exact (holdTick_work t _).after hm
    · exact (playTick_work t _).after hm
    · exact (playTick_work t _).after hm
    all_goals exact (TrackWork.modTrack t _ _).after hm

/-! ### The rotator (R94) -/

/-- A quarter turn keeps the magnitude. -/
theorem quarterTurns_power (q : Nat) (y : Sample) : samplePower (quarterTurns q y) = samplePower y := by
  induction q with
  | zero => rfl
  | succ q ih =>
    rw [← ih]
    simp only [quarterTurns, samplePower]
    ring

/-- A quarter turn keeps a sample with components within 16 bits within the range of R94. -/
theorem quarterTurns_range (q : Nat) (y : Sample) (h : -32768 ≤ y.i ∧ y.i ≤ 32767 ∧ -32768 ≤ y.q ∧ y.q ≤ 32767) :
    -32768 ≤ (quarterTurns q y).i ∧ (quarterTurns q y).i ≤ 32768 ∧ -32768 ≤ (quarterTurns q y).q ∧
      (quarterTurns q y).q ≤ 32768 := by
  induction q with
  | zero => simp only [quarterTurns]; omega
  | succ q ih => simp only [quarterTurns]; omega

/-- A sample turned through quarter turns keeps the magnitude and the range as R94 asks. -/
theorem quarterTurns_kept (q : Nat) (y : Sample) (h : -32768 ≤ y.i ∧ y.i ≤ 32767 ∧ -32768 ≤ y.q ∧ y.q ≤ 32767) :
    keepsMagnitude y (quarterTurns q y) = true ∧ rotatedInRange (quarterTurns q y) = true := by
  have p : 0 ≤ samplePower y := by
    unfold samplePower
    exact add_nonneg (mul_self_nonneg _) (mul_self_nonneg _)
  have r := quarterTurns_range q y h
  simp only [keepsMagnitude, rotatedInRange, inRange, quarterTurns_power, Bool.and_eq_true, decide_eq_true_eq]
  omega

/-- The reference of the rotator keeps the magnitude within 0.01 dB and the range (R94). -/
theorem idealRotation_kept (y : Sample) (turn : BitVec 32)
    (h : -32768 ≤ y.i ∧ y.i ≤ 32767 ∧ -32768 ≤ y.q ∧ y.q ≤ 32767) :
    keepsMagnitude y (idealRotation y turn) = true ∧ rotatedInRange (idealRotation y turn) = true := by
  unfold idealRotation
  generalize formulaOf y turn = w
  dsimp only
  have turned := quarterTurns_kept (quartersOf turn) y h
  generalize quarterTurns (quartersOf turn) y = v at turned ⊢
  split
  · rename_i r _
    cases e : leastBy (offFormula y turn) (keptAround y w (2 * r)) with
    | none => exact turned
    | some z =>
      have m := leastBy_mem _ _ _ e
      simp only [keptAround, List.mem_filter, Bool.and_eq_true] at m
      exact m.2
  · exact turned

end Sys2Proof.Machine
end

