-- ==== Sys2Proof/Laws/Tick.lean ====
section
/-! SUPPORT. What the parts of a tick start change: one lemma for each part of `Machine/Tick.lean`, and the frame of the
whole tick start. -/

namespace Sys2Proof.Machine

/-! ### Folds -/

/-- What every step of a fold keeps, the fold keeps. -/
theorem forEach_keeps {α β : Type} (xs : List α) (f : State → α → State) (g : State → β)
    (h : ∀ s x, g (f s x) = g s) (s : State) : g (forEach xs f s) = g s := by
  unfold forEach
  induction xs generalizing s with
  | nil => rfl
  | cons x r ih => exact (ih _).trans (h s x)

/-- A property that every step of a fold keeps holds after the fold. -/
theorem forEach_inv {α : Type} (xs : List α) (f : State → α → State) (P : State → Prop)
    (h : ∀ s x, P s → P (f s x)) (s : State) (hs : P s) : P (forEach xs f s) := by
  unfold forEach
  induction xs generalizing s with
  | nil => exact hs
  | cons x r ih => exact ih _ (h s x hs)

/-! ### The opening of a tick start -/

/-- The state with the blocks that the opening of a tick start may change taken from another state. -/
def State.openedFrom (u s : State) : State :=
  { u with
    link := s.link
    notices := s.notices
    timeline := s.timeline
    ports := s.ports
    lines := s.lines
    work := s.work }

theorem raiseIf_openedFrom (s v : State) (b : Bool) (n : SourceId) (c : Cause) :
    (s.raiseIf b n c).openedFrom v = s.openedFrom v := by
  unfold State.raiseIf
  split <;> rfl

theorem timelineTick_openedFrom (s v : State) : (timelineTick s).openedFrom v = s.openedFrom v := by
  unfold timelineTick
  dsimp only
  split
  · rfl
  · rw [raiseIf_openedFrom, raiseIf_openedFrom, raiseIf_openedFrom]; rfl

theorem portTick_openedFrom (s v : State) (p : PortId) : (portTick s p).openedFrom v = s.openedFrom v := by
  unfold portTick
  dsimp only
  split
  · rfl
  · split
    · split <;> rfl
    · rfl

theorem triggerFall_openedFrom (s v : State) (n : LineId) : (triggerFall s n).openedFrom v = s.openedFrom v := by
  unfold triggerFall
  dsimp only
  split <;> rfl

theorem markerFall_openedFrom (s v : State) (m : LineId) : (markerFall s m).openedFrom v = s.openedFrom v := by
  unfold markerFall
  dsimp only
  split <;> rfl

theorem gapTick_openedFrom (s v : State) : (gapTick s).openedFrom v = s.openedFrom v := by
  unfold gapTick
  dsimp only
  split
  · rfl
  · split
    · split <;> rfl
    · rfl

/-- The opening of a tick start changes nothing but the link's receiver, the notice table, the timeline, the ports and
the lines. -/
theorem openTick_frame (s : State) : (openTick s).openedFrom s = s := by
  unfold openTick
  rw [gapTick_openedFrom,
    forEach_keeps _ _ (fun u => State.openedFrom u s) (fun u x => markerFall_openedFrom u s x),
    forEach_keeps _ _ (fun u => State.openedFrom u s) (fun u x => triggerFall_openedFrom u s x),
    forEach_keeps _ _ (fun u => State.openedFrom u s) (fun u x => portTick_openedFrom u s x),
    timelineTick_openedFrom]
  rfl

/-- Whatever does not look at those blocks does not see the opening of a tick start. -/
theorem openTick_field {β : Type} (f : State → β)
    (hf : ∀ u v : State, f (u.openedFrom v) = f u) (s : State) : f (openTick s) = f s := by
  rw [← hf (openTick s) s, openTick_frame]

@[simp] theorem openTick_held (s : State) : (openTick s).held = s.held := openTick_field _ (fun _ _ => rfl) s
@[simp] theorem openTick_cue (s : State) : (openTick s).cue = s.cue := openTick_field _ (fun _ _ => rfl) s
@[simp] theorem openTick_flags (s : State) : (openTick s).flags = s.flags := openTick_field _ (fun _ _ => rfl) s
@[simp] theorem openTick_tracks (s : State) : (openTick s).tracks = s.tracks := openTick_field _ (fun _ _ => rfl) s
@[simp] theorem openTick_slotSeq (s : State) : (openTick s).slotSeq = s.slotSeq := openTick_field _ (fun _ _ => rfl) s
@[simp] theorem openTick_store (s : State) : (openTick s).store = s.store := openTick_field _ (fun _ _ => rfl) s
@[simp] theorem openTick_banks (s : State) : (openTick s).banks = s.banks := openTick_field _ (fun _ _ => rfl) s
@[simp] theorem openTick_pending (s : State) : (openTick s).pending = s.pending := openTick_field _ (fun _ _ => rfl) s
@[simp] theorem openTick_track (s : State) (t : TrackId) : (openTick s).track t = s.track t := by simp [State.track]
@[simp] theorem openTick_bank (s : State) (b : BankId) : (openTick s).bank b = s.bank b := by simp [State.bank]
@[simp] theorem openTick_clip (s : State) (c : ClipId) : (openTick s).clip c = s.clip c := by simp [State.clip]

/-! ### The flag unit -/

/-- The state with the flags and the bookkeeping of the tick start taken from another state. -/
def State.judgedFrom (u s : State) : State := { u with flags := s.flags, work := s.work }

/-- The judgement of a flag changes nothing but the flags and which tracks are released (R18). -/
theorem judgeFlag_judgedFrom (s v : State) (f : FlagId) : (judgeFlag s f).judgedFrom v = s.judgedFrom v := by
  have h : ∀ xs (u : State), (forEach xs State.markReleased u).judgedFrom v = u.judgedFrom v := fun xs u =>
    forEach_keeps xs State.markReleased (fun u => u.judgedFrom v) (fun _ _ => rfl) u
  unfold judgeFlag
  dsimp only
  split
  · split
    · exact h _ _
    · exact Eq.trans rfl (h _ _)
  · rfl

/-- The judgement of the flags changes nothing but the flags and which tracks are released (R18). -/
theorem judgeFlags_frame (s : State) : (judgeFlags s).judgedFrom s = s := by
  unfold judgeFlags
  split
  · rfl
  · rw [forEach_keeps _ _ (fun u => State.judgedFrom u s) (fun u f => judgeFlag_judgedFrom u s f)]; rfl

/-- Whatever does not look at the flags does not see their judgement. -/
theorem judgeFlags_field {β : Type} (f : State → β) (hf : ∀ u v : State, f (u.judgedFrom v) = f u) (s : State) :
    f (judgeFlags s) = f s := by
  rw [← hf (judgeFlags s) s, judgeFlags_frame]

@[simp] theorem judgeFlags_track (s : State) (t : TrackId) : (judgeFlags s).track t = s.track t :=
  judgeFlags_field (fun s => s.track t) (fun _ _ => rfl) s

/-! ### Every track's part -/

/-- What every track's part of a tick start keeps, the flag unit's part and the whole tick start keep once it is open.
-/
theorem flagPart_keeps {β : Type} (g : State → β) (hj : ∀ u v : State, g (u.judgedFrom v) = g u)
    (ht : ∀ t s, g (trackTick t s) = g s) (s : State) : g (flagPart s) = g s := by
  unfold flagPart
  split
  · rfl
  · exact (forEach_keeps _ _ g (fun s t => ht t s) _).trans (judgeFlags_field g hj s)

theorem takeTrack_keeps {β : Type} (g : State → β) (hj : ∀ u v : State, g (u.judgedFrom v) = g u)
    (ht : ∀ t s, g (trackTick t s) = g s) (t : TrackId) (s : State) : g (takeTrack t s) = g s := by
  unfold takeTrack
  rw [ht]
  split
  · exact flagPart_keeps g hj ht s
  · rfl

theorem tickStart_keeps {β : Type} (g : State → β) (hw : ∀ (u : State) w, g { u with work := w } = g u)
    (hj : ∀ u v : State, g (u.judgedFrom v) = g u) (ht : ∀ t s, g (trackTick t s) = g s) (s : State) :
    g (tickStart s) = g (openTick s) := by
  unfold tickStart
  rw [hw]
  exact (forEach_keeps _ _ g (fun s t => ht t s) _).trans (flagPart_keeps g hj ht _)

/-- No part of a tick start touches the commands that wait. -/
@[simp] theorem takeTrack_pending (t : TrackId) (s : State) : (takeTrack t s).pending = s.pending :=
  takeTrack_keeps State.pending (fun _ _ => rfl) (fun t s => (trackTick_work t s).pending) t s
@[simp] theorem flagPart_pending (s : State) : (flagPart s).pending = s.pending :=
  flagPart_keeps State.pending (fun _ _ => rfl) (fun t s => (trackTick_work t s).pending) s
@[simp] theorem tickStart_pending (s : State) : (tickStart s).pending = s.pending :=
  (tickStart_keeps State.pending (fun _ _ => rfl) (fun _ _ => rfl) (fun t s => (trackTick_work t s).pending) s).trans
    (openTick_pending s)
@[simp] theorem tickStart_timeline (s : State) : (tickStart s).timeline = (openTick s).timeline :=
  tickStart_keeps State.timeline (fun _ _ => rfl) (fun _ _ => rfl) (fun t s => (trackTick_work t s).timeline) s

end Sys2Proof.Machine
end

