-- ==== Sys2Proof/Tests/Slice0.lean ====
section
/-! SUPPORT. Tests of the model, each with its source in the spec, and witnesses: for every statement that has
hypotheses, concrete states and operands that meet them. -/

namespace Sys2Proof.Tests
open Sys2Proof Sys2Proof.Machine

-- One theorem after another: theorems checked by `decide +kernel` side by side take a thread each.
set_option Elab.async false

/-! ### Well-formed and ill-formed commands -/

/-- An unknown request carries a code outside the catalogue: 33h is FLAG READ's. -/
theorem test_wellFormed_refuses_catalogue_code :
    WellFormed (.unknownRequest 7 0x33 []) = false ∧ WellFormed (.unknownRequest 7 0x34 []) = true := by decide

/-- R183: no frame carries more than 16,400 payload bytes. -/
theorem test_wellFormed_refuses_oversize_payload :
    WellFormed (.clipData 0 (List.replicate 16401 0)) = false ∧
      WellFormed (.unknownRequest 0 0x99 (List.replicate 16401 0)) = false ∧
      WellFormed (.clipData 0 (List.replicate 16400 0)) = true := by
  simp only [WellFormed, payloadFits, List.length_replicate, Config.largestPayload]
  decide

/-- The table gives no row any bits, so no word spells a command. -/
theorem test_no_word_decodes : decodeTableWord 8 0x32 = none ∧ decodeTableWord 0 0 = none := by decide

/-! ### Arithmetic (the worked cases of chapters 04 and 10) -/

/-- R184: the check over the characters 1 to 9 is 29B1h. -/
theorem test_check_of_the_nine_digits :
    frameCheck [0x31, 0x32, 0x33, 0x34, 0x35, 0x36, 0x37, 0x38, 0x39] = 0x29B1 := by decide +kernel

/-- The worked case "a carrier fading in" of section 4.4: F = 4, base 20, component 12000. -/
theorem test_carrier_fading_in :
    (List.range 5).map (fun k => gainOf (20 + fadeInAtt 4 k)) = [0, 4, 57, 767, 10337] ∧
      (List.range 5).map (fun k => scaleComponent (gainOf (20 + fadeInAtt 4 k)) 12000) = [0, 1, 21, 281, 3786] ∧
      scaleComponent 10337 (-12000) = -3786 := by decide

/-- The worked case "a short entry with both fades" of section 4.4: 6 blocks, F = G = 4, base 0. -/
theorem test_short_entry_with_both_fades :
    (List.range 6).map (fun k => gainOf (max (fadeInAtt 4 k) (fadeOutAtt 4 (6 - k)))) = [1, 13, 181, 181, 13, 1] := by
  decide

/-- The worked case "NCO words" of section 4.5, and the largest word of R92. -/
theorem test_nco_words :
    ncoWord 250000 = 26214400#32 ∧ ncoWord 248500 = 26057114#32 ∧ ncoWord (-100000) = 4284481536#32 ∧
      ncoWord 15000000 = 1572864000#32 ∧ ncoWord 15875000 = 1664614400#32 ∧
      4096 * ncoWord 248500 = 3650723840#32 := by decide

/-- The worked case "a clamp at transfer and a sweep at the edge": offset 14,990,000 Hz at D = 16, detune 12,000. -/
theorem test_sweep_clamped_at_the_edge :
    clampActs 15000000 14990000 12000 = true ∧ clampDetune 15000000 14990000 12000 = 10000 ∧
      clampDetune 15000000 14990000 25000 = 10000 ∧
      clampActs 15000000 14000000 14000 = false := by decide

/-- R155: the count itself is late, the time half the range away is ahead. -/
theorem test_ahead_wraps :
    ahead 5 5 = false ∧ ahead 2 0xFFFFFFFF = true ∧ ahead 0xFFFFFFFF 2 = false ∧ ahead 0x80000005 5 = true := by decide

/-- R1 and section 11.4: the 28 bytes of the empty entry are read back as it. -/
theorem test_empty_entry_is_read_back : readEntry CueEntry.empty.bytes = some CueEntry.empty := by decide

/-! ### States the tests and witnesses use -/

/-- The part after its power-up scan, nothing else done. -/
def up : State := { State.reset with store := { State.reset.store with scanning := false } }

/-- `s` with a frame on its way out, so that an answer waits in the answer list. -/
def busy (s : State) : State := s.modLink fun l => { l with tx := some { kind := 2, tag := 0, code := 0, payload := [] } }

/-- The request in front of a queue of `n` other requests. -/
def queued (n : Nat) : State := up.modLink fun l => { l with requests := List.replicate n { tag := 9, code := 0x33, payload := [] } }

/-- A request meets an empty queue in a state of this kind. -/
theorem serves_empty (s : State) (r : Request) (h : s.held = false) (a : s.link.answers = [])
    (q : s.link.requests = []) : s.serves r := ⟨h, by rw [a]; decide, .inr q⟩

theorem serves_reset (r : Request) : State.reset.serves r := serves_empty _ r rfl rfl rfl

theorem serves_up (r : Request) : up.serves r := serves_empty _ r rfl rfl rfl

/-- The code and the payload of the answer frame on its way after a command. -/
def answer (c : Instr) (s : State) : Option (Byte × List Byte) := (s.after c).link.tx.map fun f => (f.code, f.payload)

/-! ### Commands: one step each -/

/-- R186, R187: FLAG READ sent as a frame (check bytes computed from R184) arrives and waits in the request queue. -/
theorem test_frame_arrives :
    (up.afterAll (([0xC6, 0x39, 0x01, 0x07, 0x33, 0x00, 0x00] ++
      [(frameCheck [0x01, 0x07, 0x33, 0x00, 0x00]).extractLsb' 8 8,
        (frameCheck [0x01, 0x07, 0x33, 0x00, 0x00]).extractLsb' 0 8]).map .linkByte)).link.requests =
      [{ tag := 7, code := 0x33, payload := [] }] := by decide +kernel

/-- R183: a length above 16,400 is OVERSIZE, bit 1 of the LINK class. -/
theorem test_oversize_is_raised :
    (up.afterAll ([0xC6, 0x39, 0x01, 0x00, 0x51, 0x11, 0x40].map .linkByte)).notice linkSource =
      some { causes := 2, first := 0, merge := 1 } := by decide +kernel

/-- R15: set and clear masks, and the answer with the flags after the change. -/
theorem test_flag_write :
    answer (.flagWrite 1 [0x03, 0x80, 0x10, 0x00]) { up with flags := 0x00F0 } = some (0, [0xE3, 0x80]) ∧
      answer (.flagWrite 1 [0x03, 0x00, 0x01, 0x00]) up = some (3, []) := by decide +kernel

/-- R187: an unknown code is answered UNKNOWN (1), a missized request LENGTH (2). -/
theorem test_refusals :
    answer (.unknownRequest 1 0x99 []) up = some (1, []) ∧ answer (.clockSet 1 [0, 0, 0]) up = some (2, []) := by
  decide +kernel

/-- R156, R157: the pending set is the count at the next tick start, and the count wraps after it. -/
theorem test_clock_set_and_wrap :
    ((up.after (.clockSet 0 [0xFF, 0xFF, 0xFF, 0xFF])).after .tickStart).timeline.count = 0xFFFFFFFF ∧
      (((up.after (.clockSet 0 [0xFF, 0xFF, 0xFF, 0xFF])).after .tickStart).after .tickStart).timeline.count = 0 := by
  decide +kernel

/-- R121: the lowest run that is long enough: sectors 0 and 2 are not FREE, so a run of 2 begins at 3. -/
theorem test_clip_open_takes_the_lowest_run :
    answer (.clipOpen 0 ([5, 0, 1, 4, 2, 0, 0, 0, 0] ++ List.replicate 24 0))
        ((up.setSector 1 0 .allocated).setSector 1 2 .dirty) = some (0, [3, 0]) := by decide +kernel

/-- R105, R107: a LIVE tick above the limit in BACKOFF mode steps the backoff by 12 hd; at 96 hd it stands. -/
theorem test_backoff_steps :
    ((up.setPort 2 { Port.reset with
        state := .live, guard := .backoff, backoff := 84, sum := [⟨32768, 0⟩, ⟨32767, -32768⟩] }).after
      .tickStart).port 2 =
      { Port.reset with
        state := .live, guard := .backoff, backoff := 96, lastClips := 1, overloads := 1 } := by decide +kernel

/-- R172, R173: an accepted edge makes a capture record with the count and the offset, and starts the holdoff. -/
theorem test_trigger_edge_is_captured :
    let s := up.setTrigger 1 { TriggerLine.reset with mode := .rise, holdoff := 3 }
    (s.after (.triggerEdge 2 0x123)).lines.captures = [{ line := 1, rising := true, count := 0, offset := 0x123 }] ∧
      ((s.after (.triggerEdge 2 0x123)).trigger 1).remaining = 3 := by decide +kernel

/-- R29, R36, R47: the empty entry (one tick of silence, then END) is primed at once, plays one tick and finishes. -/
theorem test_silence_plays_once :
    let ready := up.after (.trackArm 0 [3, 0, 0])
    let play := (ready.after (.trackGo 0 [3, 1, 0, 0, 0, 0, 0, 0])).after .tickStart
    (ready.track 3).state = .ready ∧ (play.track 3).state = .playing ∧
      ((play.after .tickStart).track 3).state = .ready := by decide +kernel

/-! ### Witnesses: the block and its link -/

/-- A held part. -/
def held : State := up.after .hardReset

theorem witness_StepTakesFrontCommand :
    ({ up with pending := [.tickStart, .frameCompletion] } : State).pending = .tickStart :: [.frameCompletion] ∧
      up.pending = [] := by decide

theorem witness_HardResetAndRelease :
    up.held = false ∧ held.held = true ∧ Instr.tickStart ≠ .hardReset ∧ ∀ levels, Instr.tickStart ≠ .resetRelease levels :=
  ⟨by decide +kernel, by decide +kernel, by decide, fun _ h => nomatch h⟩

/-- The longest payload, and the shortest length that is OVERSIZE: 16,400 and 16,401 (4011h). -/
theorem witness_FramesAreReadAsSent :
    (busy up).held = false ∧
      (busy up).link.tx = some { kind := 2, tag := 0, code := 0, payload := [] } ∧ (busy up).link.rx = .hunt false ∧
      (List.replicate 16400 (0 : Byte)).length ≤ 16400 ∧ 16400 < (0x11 : Byte).toNat + 256 * (0x40 : Byte).toNat := by
  rw [List.length_replicate]
  decide

theorem witness_ReceiverTakesBytesAndGaps :
    up.held = false ∧ up.link.rx = .hunt false ∧
      (up.setRx (.header [1, 2, 3])).link.rx = .header [1, 2, 3] ∧ [1, 2, 3].length < 4 ∧
      (up.setRx (.header [1, 2, 3, 4])).link.rx = .header [1, 2, 3, 4] ∧
      (up.setRx (.body 1 2 3 1 [])).link.rx = .body 1 2 3 1 [] ∧
      (up.setRx (.check 1 2 3 [] none)).link.rx = .check 1 2 3 [] none ∧
      (up.setRx (.check 1 2 3 [] (some 4))).link.rx = .check 1 2 3 [] (some 4) := by decide

/-- A frame in reception at gap counts 9 and 10, and HUNT. -/
theorem witness_gaps :
    let s (n : Nat) : State := (up.setRx (.header [])).modLink fun l => { l with gap := n }
    (s 9).held = false ∧ (s 9).work.gap = false ∧ (s 9).link.rx.receiving = true ∧ (s 9).link.gap < 10 ∧
      (s 10).held = false ∧ (s 10).work.gap = false ∧ (s 10).link.rx.receiving = true ∧ (s 10).link.gap = 10 ∧
      up.work.gap = false ∧ up.link.rx.receiving = false := by decide

theorem witness_CausesGatherInRecords :
    up.notice linkSource = none ∧
      (up.raise linkSource .badCheck).notice linkSource = some { causes := 1, first := 0, merge := 1 } := by decide +kernel

/-- Records of two classes of equal level at sources 0 and 10: source 0 is chosen. -/
def noticed : State :=
  { (up.raise linkSource .badCheck).raise lineSource .captured with
    notices := { ((up.raise linkSource .badCheck).raise lineSource .captured).notices with
      levels := #v[7, 0, 0, 0, 7, 0]
      enable := true } }

theorem witness_ArbiterChoosesNextFrame :
    (up.pushAnswer { tag := 1, code := .done, payload := [] }).link.answers = [{ tag := 1, code := .done, payload := [] }] ∧
      up.link.answers = [] ∧ up.notices.enable = false := by decide

theorem witness_arbiter_notice :
    noticed.held = false ∧ noticed.link.answers = [] ∧ noticed.notices.enable = true ∧
      noticed.notice 0 = some { causes := 1, first := 0, merge := 1 } ∧ 1 ≤ noticed.noticeLevel 0 ∧
      ∀ m q, noticed.notice m = some q →
        noticed.noticeLevel m < noticed.noticeLevel 0 ∨ (noticed.noticeLevel m = noticed.noticeLevel 0 ∧ 0 ≤ m) := by
  refine ⟨by decide +kernel, by decide +kernel, by decide +kernel, by decide +kernel, by decide +kernel, fun m _ _ => ?_⟩
  have key : ∀ m, noticed.noticeLevel m < noticed.noticeLevel 0 ∨
      (noticed.noticeLevel m = noticed.noticeLevel 0 ∧ 0 ≤ m) := by decide +kernel
  exact key m

theorem witness_EveryHandledRequestIsAnswered :
    requestOf (.flagRead 7 []) = some { tag := 7, code := 0x33, payload := [] } ∧ WellFormed (.flagRead 7 []) = true ∧
      up.serves { tag := 7, code := 0x33, payload := [] } := ⟨rfl, rfl, serves_up _⟩

/-- Three and four other requests in the queue; seven and eight answers in the list; the request at the front. -/
theorem witness_UnhandledRequestsWait :
    let r : Request := { tag := 7, code := 0x33, payload := [] }
    let other : Request := { tag := 9, code := 0x33, payload := [] }
    let answers (n : Nat) (s : State) : State :=
      s.modLink fun l => { l with answers := List.replicate n { tag := 9, code := .done, payload := [] } }
    requestOf (.flagRead 7 []) = some r ∧ WellFormed (.flagRead 7 []) = true ∧ (queued 3).held = false ∧ other ≠ r ∧
      (queued 3).link.requests = other :: List.replicate 2 other ∧ (queued 3).link.requests.length < 4 ∧
      (answers 7 (queued 4)).link.requests = other :: List.replicate 3 other ∧
      4 ≤ (answers 7 (queued 4)).link.requests.length ∧ (answers 7 (queued 4)).link.answers.length < 8 ∧
      8 ≤ (answers 8 (queued 4)).link.answers.length ∧
      ((answers 8 up).modLink fun l => { l with requests := [r] }).link.requests.head? = some r ∧
      (answers 8 up).link.requests = [] ∧ 8 ≤ (answers 8 up).link.answers.length := by decide +kernel

theorem witness_UnknownAndMissizedRequestsAreRefused :
    catalogueCodes.contains 0x34 = false ∧ up.serves { tag := 1, code := 0x34, payload := [] } ∧
      requestOf (.clockSet 1 [0, 0, 0]) = some { tag := 1, code := 0x10, payload := [0, 0, 0] } ∧
      fixedSize (.clockSet 1 [0, 0, 0]) = some 4 ∧ [0, 0, 0].length ≠ 4 ∧
      ([0, 0, 1] : List Byte).length < 4 ∧ [0, 0, 1, 0].length ≠ 4 + 28 * (([0, 0, 1, 0] : List Byte).getD 2 0).toNat ∧
      [0, 0, 1, 0].length ≠ 4 + 4 * (([0, 0, 1, 0] : List Byte).getD 2 0).toNat ∧ [0, 0, 0, 0, 0].length < 6 :=
  ⟨by decide, serves_up _, rfl, rfl, by decide, by decide, by decide, by decide, by decide⟩

/-- Levels 7 and 8, enables 1 and 2; counts 59 and 60. -/
theorem witness_NoticeRequests :
    up.serves { tag := 1, code := 0x03, payload := [7, 0, 0, 0, 0, 0, 1] } ∧
      up.serves { tag := 1, code := 0x04, payload := [59] } ∧
      (∀ l ∈ ([7, 0, 0, 0, 0, 0] : List Byte), l.toNat ≤ 7) ∧ (1 : Byte).toNat ≤ 1 ∧
      ¬ (∀ l ∈ ([8, 0, 0, 0, 0, 0] : List Byte), l.toNat ≤ 7) ∧ ¬ (2 : Byte).toNat ≤ 1 ∧ (59 : Byte).toNat ≤ 59 ∧
      ¬ (60 : Byte).toNat ≤ 59 :=
  ⟨serves_up _, serves_up _, by decide, by decide, by decide, by decide, by decide, by decide⟩

theorem witness_DeviceInfo_and_WarmReset :
    up.serves { tag := 1, code := 0x01, payload := [] } ∧ State.reset.serves { tag := 1, code := 0x02, payload := [] } :=
  ⟨serves_up _, serves_reset _⟩

/-- No bank of the part after its scan stands idle with work to do. -/
theorem up_banksWork : up.banksWork := by
  have e : ∀ b, up.bank b = Bank.reset := by decide
  have x : ∀ b, up.erasable b = [] := by decide +kernel
  intro _ b _
  rw [x b, e b]
  exact ⟨fun _ => ⟨rfl, rfl, fun _ => rfl⟩, fun _ h => nomatch h⟩

theorem witness_WarmResetValues :
    up.serves { tag := 1, code := 0x02, payload := [] } ∧ up.banksWork ∧ (up.bank 3).op = none :=
  ⟨serves_up _, up_banksWork, by decide⟩

/-! ### Witnesses: the timeline -/

/-- A part whose timeline unit is `x`. -/
def timed (x : Timeline) : State := { up with timeline := x }

/-- The times 1, 2^31 and 2^31 + 1 ticks after the count 0. -/
theorem witness_AheadOrLate :
    (1 : Count) ≠ 0 ∧ (1 : Count) ≠ 0 + 2147483648 ∧ ((1 : Count) - 0).toNat = 1 ∧
      ((2147483648 : Count) - 0).toNat = 2147483648 ∧ ¬ ((2147483649 : Count) - 0).toNat ≤ 2147483648 := by decide

theorem witness_ClockAndSyncRequests :
    (timed { Timeline.reset with role := .follow }).serves { tag := 1, code := 0x10, payload := [1, 2, 3, 4] } ∧
      up.timeline.role ≠ .follow ∧ up.serves { tag := 1, code := 0x12, payload := [2, 7] } ∧
      ¬ (2 < (2 : Byte).toNat ∨ 7 < (7 : Byte).toNat) ∧ 2 < (3 : Byte).toNat ∧ 7 < (8 : Byte).toNat :=
  ⟨serves_empty _ _ rfl rfl rfl, by decide, serves_up _, by decide, by decide, by decide⟩

/-- A watched contention at quiet counts 14 and 15, and a unit that does not watch. -/
theorem witness_TickStartBringsCount :
    let s := timed { Timeline.reset with role := .lead, contention := true, quiet := 15 }
    s.held = false ∧ s.work.timeline = false ∧ s.timeline.role = .lead ∧ s.timeline.contention = true ∧
      16 ≤ s.timeline.quiet + 1 ∧ ¬ (up.timeline.role = .lead ∧ up.timeline.contention = true) ∧ 14 + 1 < 16 := by decide

theorem witness_TimelineRows :
    let set := timed { Timeline.reset with pendingSet := some 9 }
    let adopt := timed { Timeline.reset with role := .follow, pendingMarker := some { id := 1, count := 9 } }
    let loss := timed { Timeline.reset with role := .follow, follow := .locked, age := some 15 }
    let end_ := timed { Timeline.reset with role := .lead, contention := true, quiet := 15 }
    set.held = false ∧ set.work.timeline = false ∧ set.timeline.role ≠ .follow ∧ set.timeline.pendingSet = some 9 ∧
      adopt.timeline.role = .follow ∧ adopt.timeline.pendingMarker = some { id := 1, count := 9 } ∧
      loss.timeline.role = .follow ∧ loss.timeline.pendingMarker = none ∧ loss.timeline.follow = .locked ∧
      loss.timeline.age = some 15 ∧ end_.timeline.role = .lead ∧ end_.timeline.contention = true ∧
      end_.timeline.heardHigher = false ∧ end_.timeline.quiet = 15 := by decide

theorem witness_MarkersAreSentAndHeard :
    up.held = false ∧ up.timeline.sendPassed = false ∧ up.timeline.role ≠ .lead ∧
      (timed { Timeline.reset with role := .lead }).timeline.role = .lead ∧
      (timed { Timeline.reset with role := .lead, sendPassed := true }).timeline.sendPassed = true ∧
      (timed { Timeline.reset with role := .lead, pendingSet := some 5 }).timeline.pendingSet = some 5 ∧
      up.timeline.role = .alone ∧
      (timed { Timeline.reset with role := .follow, pendingMarker := some { id := 3, count := 0 } }).timeline.pendingMarker =
        some { id := 3, count := 0 } ∧
      (timed { Timeline.reset with role := .follow }).timeline.pendingMarker = none ∧
      (timed { Timeline.reset with role := .follow }).timeline.follow ≠ .locked ∧
      (timed { Timeline.reset with role := .follow, follow := .locked, leaderSeen := some 2 }).timeline.leaderSeen =
        some 2 ∧
      (timed { Timeline.reset with role := .lead, unitId := 3 }).timeline.role = .lead ∧ (2 : UnitId) < 3 ∧
      (3 : UnitId) < 4 := by decide

/-! ### Witnesses: ports, cue memory, flags -/

theorem witness_PortSaturatesItsSum :
    let x : Port := { Port.reset with state := .live, sum := [⟨32768, -32769⟩, ⟨32767, -32768⟩] }
    x.state = .live ∧ 32767 < (x.sumAt 0).i ∧ (x.sumAt 0).q < -32768 ∧ -32768 ≤ (x.sumAt 1).q ∧ (x.sumAt 1).q ≤ 32767 ∧
      (x.sumAt 1).i ≤ 32767 ∧ Port.reset.state ≠ .live ∧ 4095 < 4096 := by decide

/-- FS −120 hd (FF88h), X 240 hd, limit 4096 (1000h), and each just outside. -/
theorem witness_PortSetPends :
    up.serves { tag := 1, code := 0x20, payload := [3, 2, 0x88, 0xFF, 240, 0, 2, 0, 0x10, 1] } ∧
      (3 : Byte).toNat < 4 ∧ (2 : Byte).toNat < 3 ∧ -120 = ((0xFF : Byte) ++ (0x88 : Byte)).toInt ∧
      ((0xFF : Byte) ++ (0x87 : Byte)).toInt < -120 ∧ ((0 : Byte) ++ (240 : Byte)).toNat = 240 ∧
      ((0x10 : Byte) ++ (0 : Byte)).toNat = 4096 ∧ ((0x10 : Byte) ++ (1 : Byte)).toNat = 4097 ∧
      up.serves { tag := 1, code := 0x20, payload := [3] } ∧ ([3] : List Byte).length ≠ 10 :=
  ⟨serves_up _, by decide, by decide, by decide, by decide, by decide, by decide, by decide, serves_up _, by decide⟩

/-- A LIVE port over its limit in BACKOFF mode at 84 hd, one at 96 hd, and one with a pending set. -/
def ported (x : Port) : State := up.setPort 1 x

theorem witness_PortsCloseTheirTick :
    let x : Port := { Port.reset with state := .live, guard := .backoff, backoff := 84, sum := [⟨32768, 0⟩] }
    let v : PortSet := { state := .live, fs := 0, x := 0, guard := .off, limit := 0, restore := true }
    (ported x).held = false ∧ (ported x).work.ports = 0 ∧ x.state = .live ∧ x.limit < x.clipCount ∧ x.guard = .backoff ∧
      x.backoff < 96 ∧ ¬ (({ x with backoff := 96 } : Port).backoff < 96) ∧
      ({ x with pending := some v } : Port).pending = some v := by decide +kernel

theorem witness_PortSetApplies :
    let v : PortSet := { state := .live, fs := 0, x := 0, guard := .off, limit := 0, restore := true }
    let s := ported { Port.reset with pending := some v }
    s.held = false ∧ s.work.ports.getLsbD 1 = false ∧ (s.port 1).pending = some v := by decide +kernel

/-- Entries at both ends of the ranges of level and frequency. -/
def highest : CueEntry := { CueEntry.empty with level := 40, freq := 16000000 }
def lowest : CueEntry := { CueEntry.empty with level := -600, freq := -16000000, clip := some 1023, length := 0 }

theorem witness_CueEntriesRoundTrip :
    (-600 ≤ highest.level ∧ highest.level ≤ 40 ∧ -16000000 ≤ highest.freq ∧ highest.freq ≤ 16000000 ∧
        (highest.clip = none → highest.length ≠ 0)) ∧
      (lowest.level = -600 ∧ lowest.freq = -16000000 ∧ (lowest.clip = none → lowest.length ≠ 0)) ∧
      CueEntry.empty.bytes.length = 28 ∧ readEntry lowest.bytes = some lowest := by decide

/-- Sixteen entries at index 4095, an index and counts just outside, and an entry R22 refuses. -/
theorem witness_CuePutWritesEntries :
    let payload : List Byte := [0xFF, 0x0F, 16, 0] ++ (List.replicate 16 highest).flatMap CueEntry.bytes
    ((0x0F : Byte) ++ (0xFF : Byte)).toNat < 4096 ∧ (16 : Byte).toNat = (List.replicate 16 highest).length ∧
      (∀ e ∈ List.replicate 16 highest, -600 ≤ e.level ∧ e.level ≤ 40 ∧ -16000000 ≤ e.freq ∧ e.freq ≤ 16000000 ∧
        (e.clip = none → e.length ≠ 0)) ∧
      up.serves { tag := 1, code := 0x30, payload := payload } ∧
      4096 ≤ ((0x10 : Byte) ++ (0 : Byte)).toNat ∧ ([] : List Byte).length = 28 * (0 : Byte).toNat ∧ 16 < (17 : Byte).toNat ∧
      (List.replicate 28 (0xFF : Byte)).length = 28 * (1 : Byte).toNat ∧
      readEntry (((List.replicate 28 0xFF).drop (28 * 0)).take 28) = none :=
  ⟨by decide, by decide, by decide, serves_up _, by decide, by decide, by decide, by decide, by decide⟩

/-- The part with clip 1023 as given, and with an entry at index 4095 that names it. -/
def withEntry (r : ClipRecord) (start length : BitVec 32) : State :=
  (up.setClip 1023 r).setCueEntry 4095 { CueEntry.empty with clip := some 1023, start := start, length := length }

/-- SILENCE; a clip that is not READY; of 256 blocks, the last one, the rest, one too many and one beyond the end; a
walk about to copy with three and with four copies in the queue; displacements −128 and +127 at the ends. -/
theorem witness_CopiesAreValidated :
    let ready : ClipRecord := { ClipRecord.empty with state := .ready, decimation := 1, sectors := 1, blocks := 256 }
    let copies (n : Nat) : Track :=
      { Track.reset with
        queue := List.replicate n (up.copyOf 0 .main false)
        walk := { Walk.stopped with phase := .copy 4095 true } }
    let fits (s : State) : Prop :=
      (s.cueEntry 4095).start.toNat < (s.clip 1023).blocks ∧ ((s.cueEntry 4095).length = 0 ∨
        (s.cueEntry 4095).start.toNat + (s.cueEntry 4095).length.toNat ≤ (s.clip 1023).blocks)
    (up.cueEntry 4095).clip = none ∧ ((withEntry ready 255 1).cueEntry 4095).clip = some 1023 ∧
      ((withEntry ready 255 1).clip 1023).state = .ready ∧ fits (withEntry ready 255 1) ∧ fits (withEntry ready 0 0) ∧
      ¬ fits (withEntry ready 255 2) ∧ ¬ fits (withEntry ready 256 0) ∧
      ((withEntry { ready with state := .damaged } 255 1).clip 1023).state ≠ .ready ∧
      ((up.setTrack 47 (copies 3)).track 47).walk.phase = .copy 4095 true ∧
      ((up.setTrack 47 (copies 3)).track 47).queue.length < 4 ∧
      4 ≤ ((up.setTrack 47 (copies 4)).track 47).queue.length ∧ ((Target.near 0x80).index 0).toNat = 3969 ∧
      ((Target.near 0x7F).index 4095).toNat = 127 := by decide +kernel

/-- R59: the slots of an entry that starts at block 10 and is 2 blocks long hold the blocks 10 and 11 of its clip. -/
theorem test_slots_hold_their_blocks :
    let ready : ClipRecord := { ClipRecord.empty with state := .ready, decimation := 1, sectors := 1, blocks := 256 }
    let s := (withEntry ready 10 2).after (.trackArm 0 [47, 0xFF, 0x0F])
    (s.track 47).ring.map (fun y => (y.clip, y.block)) = [(some 1023, 10), (some 1023, 11)] := by decide +kernel

/-- A walk about to make the last slot of a play of two blocks, with 7 and with 8 slots in the ring; a split with one
TAKEN slot made, whose paths are due two slots, one slot (of one block) and none (BAD). -/
theorem witness_slots_are_made :
    let c : Copy := { up.copyOf 0 .main false with length := 2 }
    let slot (p : PathTag) : Slot :=
      { id := 3, clip := some 1, block := 0, path := p, state := .filled, data := [], gated := false }
    let made (n : Nat) : Track :=
      { Track.reset with
        queue := [c], ring := List.replicate n (slot .main), walk := { Walk.stopped with phase := .slots 1 } }
    let split : Track :=
      { Track.reset with
        queue := [c, { c with path := .taken }, { c with path := .fall, length := 1 }]
        ring := [slot .taken]
        walk := { Walk.stopped with phase := .split } }
    let due (c : Copy) : Nat := if c.status = .good then min 2 c.length else 0
    ((up.setTrack 47 (made 7)).track 47).walk.phase = .slots 1 ∧
      ((up.setTrack 47 (made 7)).track 47).queue.getLast? = some c ∧ 1 < c.length ∧
      ((up.setTrack 47 (made 7)).track 47).ring.length < 8 ∧ 8 ≤ ((up.setTrack 47 (made 8)).track 47).ring.length ∧
      c.entry.clip = none ∧ ((up.setTrack 47 split).track 47).walk.phase = .split ∧
      ((up.setTrack 47 split).track 47).queue = [c] ++ [{ c with path := .taken }, { c with path := .fall, length := 1 }] ∧
      c.path = .main ∧ due c = 2 ∧ due { c with length := 1 } = 1 ∧ due { c with status := .badClip } = 0 ∧
      (((up.setTrack 47 split).track 47).ring.countP fun y => y.path = .taken) = 1 ∧
      (((up.setTrack 47 split).track 47).ring.countP fun y => y.path = .fall) = 0 := by decide +kernel

theorem witness_CueGetReturnsEntries :
    up.serves { tag := 1, code := 0x31, payload := [0xFF, 0x0F, 16] } ∧ ((0x0F : Byte) ++ (0xFF : Byte)).toNat < 4096 ∧
      1 ≤ (16 : Byte).toNat ∧ (16 : Byte).toNat ≤ 16 ∧ ¬ (17 : Byte).toNat ≤ 16 ∧
      up.serves { tag := 1, code := 0x31, payload := [] } ∧ ([] : List Byte).length ≠ 3 :=
  ⟨serves_up _, by decide, by decide, by decide, by decide, serves_up _, by decide⟩

theorem witness_FlagRequests :
    up.serves { tag := 1, code := 0x32, payload := [1, 0, 1, 0] } ∧
      ((0 : Byte) ++ (1 : Byte)) &&& ((0 : Byte) ++ (1 : Byte)) ≠ 0#16 ∧
      ((0x80 : Byte) ++ (0 : Byte)) &&& ((0 : Byte) ++ (1 : Byte)) = 0#16 ∧
      State.reset.serves { tag := 1, code := 0x33, payload := [] } :=
  ⟨serves_up _, by decide, by decide, serves_reset _⟩

/-! ### Witnesses: the track requests -/

/-- A part whose track 47 is `x`. -/
def tracked (x : Track) : State := up.setTrack 47 x

/-- A GOOD copy of `e` of two blocks at index 5. -/
def copyOf (e : CueEntry) : Copy :=
  { index := 5, entry := e, length := 2, status := .good, path := .main, trailing := false, prepared := 0 }

/-- The copy that follows it, at index 6. -/
def behind (status : CopyStatus) : Copy := { copyOf CueEntry.empty with index := 6, status := status }

/-- A track in PLAYING at block 1 of 2, the last block of its play. -/
def atEnd (e : CueEntry) (rest : List Copy) : Track :=
  { Track.reset with state := .playing, block := 1, queue := copyOf e :: rest }

theorem serves_tracked (x : Track) (r : Request) : (tracked x).serves r := serves_empty _ _ rfl rfl rfl

/-- Track 47 and index 4095, and each just outside; a scanning store, and a track in each group of states. -/
theorem witness_TrackArmStartsAtHome :
    up.serves { tag := 1, code := 0x40, payload := [47, 0xFF, 0x0F] } ∧ (47 : Byte).toNat < 48 ∧
      ((0x0F : Byte) ++ (0xFF : Byte)).toNat < 4096 ∧ ¬ (48 : Byte).toNat < 48 ∧
      ¬ ((0x10 : Byte) ++ (0 : Byte)).toNat < 4096 ∧ State.reset.store.scanning = true ∧ up.store.scanning = false ∧
      ((tracked { Track.reset with state := .starting }).track 47).state = .starting ∧
      ((tracked { Track.reset with state := .holding }).track 47).state = .holding :=
  ⟨serves_up _, by decide, by decide, by decide, by decide, by decide, by decide, by decide +kernel,
    by decide +kernel⟩

/-- Each condition, with AT times one ahead and equal to the count, trigger 3 and flag 15 with consume. -/
theorem witness_TrackGoRecordsItsCondition :
    let s := tracked { Track.reset with state := .priming }
    s.serves { tag := 1, code := 0x41, payload := [47, 2, 0, 0, 1, 0, 0, 0] } ∧ (s.track 47).state = .priming ∧
      s.serves { tag := 1, code := 0x41, payload := [47, 1, 0, 0, 0, 0, 0, 0] } ∧
      ahead ((0 : Byte) ++ (0 : Byte) ++ (0 : Byte) ++ (1 : Byte)) s.timeline.count = true ∧
      ahead ((0 : Byte) ++ (0 : Byte) ++ (0 : Byte) ++ (0 : Byte)) s.timeline.count = false ∧
      s.serves { tag := 1, code := 0x41, payload := [47, 3, 0, 3, 0, 0, 0, 0] } ∧ (3 : Byte).toNat = (3 : LineId).1 ∧
      s.serves { tag := 1, code := 0x41, payload := [47, 4, 1, 15, 0, 0, 0, 0] } ∧ (15 : Byte).toNat < 16 ∧
      (up.track 47).state = .idle ∧ ((tracked { Track.reset with state := .starting }).track 47).state = .starting :=
  ⟨serves_tracked _ _, by decide +kernel, serves_tracked _ _, by decide, by decide, serves_tracked _ _, by decide,
    serves_tracked _ _, by decide, by decide +kernel, by decide +kernel⟩

/-- NOW, a FADE of the least length and END; STARTING, PLAYING with and without a NOW stop, HOLDING, STOPPING, IDLE. -/
theorem witness_TrackStopFollowsItsTable :
    let at_ (st : TrackState) (stop : StopMode) : State := tracked { Track.reset with state := st, stop := stop }
    (∀ st stop mode h, (at_ st stop).serves { tag := 1, code := 0x42, payload := [47, mode, h] }) ∧
      (2 : Byte) = 2 ∧ (1 : Byte) ≠ 0 ∧ ((at_ .starting .none).track 47).state = .starting ∧
      ((at_ .playing .now).track 47).stop = .now ∧ ((at_ .playing .none).track 47).stop ≠ .now ∧
      ((at_ .holding .none).track 47).state = .holding ∧ ((at_ .stopping .atEnd).track 47).state = .stopping ∧
      (up.track 47).state = .idle :=
  ⟨fun _ _ _ _ => serves_tracked _ _, by decide, by decide, by decide +kernel, by decide +kernel, by decide +kernel,
    by decide +kernel, by decide +kernel, by decide +kernel⟩

theorem witness_TrackBreakEndsTheLoop :
    let s := tracked (atEnd { CueEntry.empty with plays := 2 } [])
    s.serves { tag := 1, code := 0x43, payload := [47] } ∧ (47 : Byte).toNat < 48 ∧ (s.track 47).state = .playing ∧
      (s.track 47).queue = [copyOf { CueEntry.empty with plays := 2 }] ∧ (s.track 47).lastPlay = false ∧
      (s.track 47).playNumber < (2 : BitVec 8).toNat ∧ ((s.track 47).ring.map Slot.id).Nodup ∧
      ¬ (s.track 47).playNumber < (1 : BitVec 8).toNat ∧ ((0 : BitVec 8) = 0 ∧ (copyOf CueEntry.empty).trailing = false) ∧
      ((tracked { Track.reset with state := .holding }).track 47).state = .holding ∧ (up.track 47).state = .idle ∧
      ¬ (48 : Byte).toNat < 48 :=
  ⟨serves_tracked _ _, by decide, by decide +kernel, by decide +kernel, by decide +kernel, by decide +kernel,
    by decide +kernel, by decide +kernel, by decide +kernel, by decide +kernel, by decide⟩

/-- Detune 32,000,000 Hz (01E84800h), sweep −100,000 Hz (FFFE7960h) and trim 120, and each just outside. -/
theorem witness_TrackTune :
    up.serves
        { tag := 1
          code := 0x44
          payload := [47, 1, 1, 0, 0x00, 0x48, 0xE8, 0x01, 0x60, 0x79, 0xFE, 0xFF, 120, 0, 0, 0, 0, 0] } ∧
      ((0x01 : Byte) ++ (0xE8 : Byte) ++ (0x48 : Byte) ++ (0x00 : Byte)).toInt = 32000000 ∧
      ((0xFF : Byte) ++ (0xFE : Byte) ++ (0x79 : Byte) ++ (0x60 : Byte)).toInt = -100000 ∧ (120 : Byte).toNat ≤ 120 ∧
      ((0x01 : Byte) ++ (0xE8 : Byte) ++ (0x48 : Byte) ++ (0x01 : Byte)).toInt = 32000001 ∧
      ((0xFF : Byte) ++ (0xFE : Byte) ++ (0x79 : Byte) ++ (0x5F : Byte)).toInt = -100001 ∧ ¬ (121 : Byte).toNat ≤ 120 :=
  ⟨serves_up _, by decide, by decide, by decide, by decide, by decide, by decide⟩

/-- Four feeds on the four ports, at offset 120. -/
def feeds : List Feed := (List.finRange 4).map fun p => { port := p, offset := 120, phase := 0x8000 }

theorem witness_TrackFeed :
    let payload := [47, 1, 4, 0] ++ feeds.flatMap fun f =>
      [BitVec.ofNat 8 f.port.1, BitVec.ofNat 8 f.offset, f.phase.extractLsb' 0 8, f.phase.extractLsb' 8 8]
    (47 : Byte).toNat < 48 ∧ (1 : Byte).toNat < 2 ∧ (4 : Byte).toNat = feeds.length ∧ feeds.length ≤ 4 ∧
      (∀ f ∈ feeds, f.offset ≤ 120) ∧ (feeds.map Feed.port).Nodup ∧
      up.serves { tag := 1, code := 0x45, payload := payload } ∧
      (tracked { Track.reset with state := .playing }).serves { tag := 1, code := 0x45, payload := payload } :=
  ⟨by decide, by decide, by decide, by decide, by decide, by decide, serves_up _, serves_tracked _ _⟩

/-- A list that R53 refuses for each reason. -/
theorem witness_TrackFeed_refused :
    (∀ r, up.serves r) ∧ 48 ≤ (48 : Byte).toNat ∧ 2 ≤ (2 : Byte).toNat ∧ (1 : Byte) ≠ 0 ∧
      (List.replicate 20 (0 : Byte)).length = 4 * (5 : Byte).toNat ∧ 4 < (5 : Byte).toNat ∧
      ([4, 0, 0, 0] : List Byte).length = 4 * (1 : Byte).toNat ∧ 4 ≤ (([4, 0, 0, 0] : List Byte).getD (4 * 0) 0).toNat ∧
      120 < (([0, 121, 0, 0] : List Byte).getD (4 * 0 + 1) 0).toNat ∧
      ∃ i j, i < j ∧ j < (2 : Byte).toNat ∧
        ([3, 0, 0, 0, 3, 1, 0, 0] : List Byte).getD (4 * i) 0 = ([3, 0, 0, 0, 3, 1, 0, 0] : List Byte).getD (4 * j) 0 :=
  ⟨serves_up, by decide, by decide, by decide, by decide, by decide, by decide, by decide, by decide, 0, 1, by decide⟩

/-- Two requests of track 47 and one of track 46 in a bank's queue; no other slot has a slot number of track 47's. -/
theorem witness_requests_are_withdrawn :
    let slot (n : Nat) : Slot :=
      { id := n, clip := some 1, block := 0, path := .main, state := .queued, data := [], gated := false }
    let request (t : TrackId) (n : Nat) : FetchRequest := { track := t, slot := n, clip := 1, block := 0 }
    let s := ((tracked { Track.reset with state := .playing, ring := [slot 1, slot 2] }).setTrack 46
      { Track.reset with state := .ready, ring := [slot 3] }).setBank 3
      { Bank.reset with fetch := [request 47 1, request 46 3, request 47 2], inFlight := some (request 47 0) }
    (s.track 47).ring.length = 2 ∧ (∀ j, j ≠ 47 → ∀ z ∈ (s.track j).ring, ∀ y ∈ (s.track 47).ring, z.id ≠ y.id) ∧
      (s.bank 3).inFlight = some (request 47 0) ∧ request 46 3 ∈ (s.bank 3).fetch ∧
      (∀ y ∈ (s.track 47).ring, (request 46 3).slot ≠ y.id) ∧
      ((s.after (.trackClear 0 [47])).bank 3).fetch = [request 46 3] := by decide +kernel

/-- A READY track whose two slots wait for their reads, made before the next slot, is armed anew. -/
theorem witness_arm_withdraws_requests :
    let slot (n : Nat) : Slot :=
      { id := n, clip := some 1, block := 0, path := .main, state := .queued, data := [], gated := false }
    let request (n : Nat) : FetchRequest := { track := 47, slot := n, clip := 1, block := 0 }
    let s : State :=
      { (tracked { Track.reset with state := .ready, ring := [slot 0, slot 1] }).setBank 3
          { Bank.reset with fetch := [request 0, request 1], inFlight := some (request 9) } with slotSeq := 2 }
    s.store.scanning = false ∧ (s.track 47).state = .ready ∧ (∀ y ∈ (s.track 47).ring, y.id < s.slotSeq) ∧
      request 1 ∈ (s.bank 3).fetch ∧ (∀ j, j ≠ 47 → (s.track j).ring = []) ∧
      ((s.after (.trackArm 0 [47, 0, 0])).bank 3).fetch = [] ∧
      ((s.after (.trackArm 0 [47, 0, 0])).bank 3).inFlight = some (request 9) := by decide +kernel

theorem witness_TrackClearGoesIdle :
    (tracked { Track.reset with state := .playing }).serves { tag := 1, code := 0x47, payload := [47] } ∧
      ((tracked { Track.reset with state := .playing }).track 47).state = .playing ∧
      ((tracked { Track.reset with state := .stopping }).track 47).state = .stopping ∧ ¬ (48 : Byte).toNat < 48 :=
  ⟨serves_tracked _ _, by decide +kernel, by decide +kernel, by decide⟩

/-! ### Witnesses: level, frequency and playback -/

/-- A stop fade at its end, on a last play; the three ways to a last play. -/
theorem witness_FadesAndGainFollowTheirRamps :
    let x := { atEnd CueEntry.empty [] with state := .stopping, stop := .fade 1, stopFade := 1 }
    (0 < 1 ∧ 1 ≤ 1) ∧ (1 ≤ 1 ∧ 1 < 2) ∧ (1 ≤ 1 ∧ 1 ≤ 255) ∧ (1 ≤ 255 ∧ 255 ≤ 255) ∧ x.block < (copyOf CueEntry.empty).length ∧
      (∀ h, x.stop = .fade h → x.stopFade ≤ h) ∧ x.playNumber = 1 ∧ (copyOf CueEntry.empty).entry.plays ≠ 0 ∧
      x.playNumber = (copyOf CueEntry.empty).entry.plays.toNat ∧ x.state = .stopping ∧
      ({ x with lastPlay := true } : Track).lastPlay = true ∧
      ({ copyOf CueEntry.empty with trailing := true } : Copy).trailing = true ∧ 11 < 12 ∧ 12 * 14 + 11 ≤ 180 ∧
      12 * 15 + 0 ≤ 180 := by
  refine ⟨by decide, by decide, by decide, by decide, by decide, ?_, by decide⟩
  intro h e
  cases e
  exact Nat.le_refl 1

/-- SILENCE, and a clip whose feed has the sum 0 or −1 (FS −20, level −20 or −19 hd, so that −20 + 20 = 0); totals of
180 and 181 hd with a backoff of 96 hd; the gate always on, muted, and in its OFF phase. -/
theorem witness_gains :
    let e (level : Int) : CueEntry := { CueEntry.empty with clip := some 1023, level := level }
    let sum (level : Int) : Int := (up.port 0).fs + (up.clip 1023).ref - (up.port 0).x - (e level).level + 0 + 0
    CueEntry.empty.clip = none ∧ (e 0).clip = some 1023 ∧ sum (-20) = 0 ∧ sum (-19) < 0 ∧ sum (-104) + 96 = 180 ∧
      sum (-105) + 96 = 181 ∧ LiveParams.default.gateOn ≠ 0 ∧ LiveParams.default.gateOff = 0 ∧
      ({ LiveParams.default with gateOn := 0 } : LiveParams).gateOn = 0 ∧
      ({ Track.reset with gatePhase := .off } : Track).gatePhase ≠ .on := by decide

/-- The extreme samples and factors; a D of 128 whose delay has passed; held and taken zeros; three quarter turns. -/
theorem witness_ScalingClampAndWord :
    let y : Sample := ⟨-32768, 32767⟩
    32768 ≤ 32768 ∧ (-32768 : Int) ≤ y.i ∧ y.i ≤ 32767 ∧ -32768 ≤ y.q ∧ y.q ≤ 32767 ∧ (∀ z ∈ [y], z = y) ∧
      delayOf 128 ≤ 120 ∧ delayOf 1 ≤ 120 ∧ ¬ delayOf 128 ≤ 119 ∧ (∀ z ∈ zeroBlock 128, z = ⟨0, 0⟩) ∧ ¬ (∀ z ∈ [y], z = ⟨0, 0⟩) ∧
      0 < delayOf 2 ∧ 119 < delayOf 128 ∧ (0 : Int) ≤ 0 ∧ (0 : Int) < 1 + 0 ∧ (-1 : Int) + 0 < -0 ∧ (-0 : Int) ≤ 0 + 0 ∧
      15875000 ≤ 15875000 ∧ 3 < 4 := by decide

/-- R94: the formula at no angle, at a quarter turn and at half of one: (100, 0) becomes (71, 71), as 100 cos 45° =
70.7. -/
theorem test_rotation_formula :
    formulaOf ⟨100, -7⟩ 0 = ⟨100, -7⟩ ∧ formulaOf ⟨100, -7⟩ 0x40000000 = ⟨7, 100⟩ ∧
      formulaOf ⟨100, 0⟩ 0x20000000 = ⟨71, 71⟩ := by decide +kernel

/-- R94: (100, 0) turned by 30 degrees is (86.6, 50); of the whole samples within 0.01 dB of 100, (86, 51) is nearest.
-/
theorem test_rotation_keeps_magnitude : idealRotation ⟨100, 0⟩ 0x15555555 = ⟨86, 51⟩ := by decide +kernel

/-- A track with feeds on port 0, which is LIVE, and on port 1, which is OFF. -/
theorem witness_LevelUnitComputesFeeds :
    let two : List Feed := [{ port := 0, offset := 120, phase := 0 }, { port := 1, offset := 0, phase := 0 }]
    let s := (tracked { atEnd CueEntry.empty [] with active := { LiveParams.default with feeds := two } }).setPort 0
      { Port.reset with state := .live }
    ((s.track 47).active.feeds.map Feed.port).Nodup ∧ { port := 0, offset := 120, phase := 0 } ∈ (s.track 47).active.feeds ∧
      (s.port 0).state ≠ .off ∧ (s.port 1).state = .off ∧ 4095 < 4096 := by decide +kernel

/-- Port 1 OFF receives no feed, whatever the list. -/
theorem witness_off_port (x : Track) : ¬ up.feeds x 1 := fun h => h.1 (by decide)

/-- R88, R99: a start begins from zeros whatever an earlier play held. -/
theorem test_start_drops_interpolators :
    let s (held : Vector (Option Interp) 4) : State := (tracked
      { atEnd CueEntry.empty [] with
        state := .starting, block := 0, start := .next, startDue := true, interps := held
        active := { LiveParams.default with feeds := [{ port := 0, offset := 0, phase := 0 }] } }).setPort 0
      { Port.reset with state := .live }
    (((s (Vector.replicate 4 (some { held := [⟨5, 5⟩], inUse := 8 }))).after .tickStart).track 47).interps[0].map
      Interp.inUse = some 1 := by decide +kernel

/-- Block 0 of 2 with a gate of one tick that reaches its length, and one of two ticks that does not. -/
theorem witness_TickStartPlaysTheNextBlock :
    let x : Track :=
      { atEnd CueEntry.empty [] with block := 0, active := { LiveParams.default with gateOn := 1, gateOff := 1 } }
    let s := tracked x
    s.held = false ∧ s.trackDone 47 = false ∧ (s.track 47).state = .playing ∧ (s.track 47).stop = .none ∧
      (s.track 47).queue = [copyOf CueEntry.empty] ∧ (s.track 47).block + 1 < (copyOf CueEntry.empty).length ∧
      (s.track 47).nowMark = false ∧ (s.track 47).active.gateOn ≠ 0 ∧ (s.track 47).active.gateOff ≠ 0 ∧
      1 ≤ x.gateCounter + 1 ∧ ¬ 2 ≤ x.gateCounter + 1 ∧ LiveParams.default.gateOff = 0 := by decide +kernel

/-- Tracks that go on: in PLAYING, and in a FADE stop one tick short of its end; and one in an END stop. -/
theorem witness_goesOn :
    let x := atEnd CueEntry.empty []
    let fading : Track := { x with state := .stopping, stop := .fade 2, stopFade := 1 }
    let ending : Track := { x with state := .stopping, stop := .atEnd }
    x.goesOn ∧ fading.goesOn ∧ (ending.state = .stopping ∧ ending.stop = .atEnd) ∧
      (∀ y ∈ [x, fading, ending], ({ y with block := 0 } : Track).block + 1 < (copyOf CueEntry.empty).length) :=
  ⟨.inl ⟨rfl, rfl⟩, .inr ⟨rfl, 2, rfl, by decide⟩, ⟨rfl, rfl⟩, by decide⟩

/-- A slot of silence at the front of the ring, in the state given. -/
def slotOf (st : SlotState) : Slot :=
  { id := 3, clip := some 1, block := 0, path := .main, state := st, data := [], gated := false }

theorem witness_BoundaryRepeatsThePlay :
    let e := { CueEntry.empty with plays := 2 }
    let s (ring : List Slot) : State := tracked { atEnd e [] with ring := ring }
    (s []).held = false ∧ (s []).trackDone 47 = false ∧ ((s []).track 47).state = .playing ∧
      ((s []).track 47).stop = .none ∧ ((s []).track 47).queue = [copyOf e] ∧
      (copyOf e).length ≤ ((s []).track 47).block + 1 ∧ (copyOf e).trailing = false ∧
      ((s []).track 47).lastPlay = false ∧ ((s []).track 47).playNumber < e.plays.toNat ∧
      ((s []).track 47).stagedPending = false ∧ ((s [slotOf .filled]).track 47).ring = [slotOf .filled] ∧
      ((s [slotOf .faulty]).track 47).ring = [slotOf .faulty] ∧ ((s []).track 47).ring = [] ∧
      (((s [slotOf .filled]).track 47).ring.map Slot.id).Nodup := by decide +kernel

/-- The front slot of the ring, made before the next slot, which no other slot is. -/
theorem witness_consumed_slot :
    let s : State := { tracked { atEnd { CueEntry.empty with plays := 0 } [] with ring := [slotOf .queued] } with slotSeq := 4 }
    (s.track 47).ring = [slotOf .queued] ∧ (slotOf .queued).path = .main ∧ (slotOf .queued).id < s.slotSeq ∧
      ∀ j, j ≠ 47 → (s.track j).ring = [] := by decide +kernel

/-- A set that waits without the NOW mark; a feed on a LIVE port, and the other ports OFF. -/
theorem witness_boundary_feeds :
    let x : Track :=
      { atEnd { CueEntry.empty with plays := 0 } [] with
        stagedPending := true
        active := { LiveParams.default with feeds := [{ port := 0, offset := 0, phase := 0 }] } }
    let s := (tracked x).setPort 0 { Port.reset with state := .live }
    (x.nowMark = false ∨ x.stagedPending = false) ∧ x.stagedPending = true ∧ (x.active.feeds.map Feed.port).Nodup ∧
      (openTick s).feeds x 0 ∧ ¬ (openTick s).feeds x 1 := by
  refine ⟨by decide, by decide, by decide, ⟨by decide +kernel, _, .head _, rfl⟩, fun h => ?_⟩
  exact h.1 (by decide +kernel)

/-- A GOOD successor, each BAD one, a RETURN with and without a link, and a split with a clear and a set flag. -/
theorem witness_BoundaryBeginsTheSuccessor :
    let s (e : CueEntry) (rest : List Copy) (link : Option CueIndex) : State :=
      tracked { atEnd e rest with link := link }
    let next : CueEntry := { CueEntry.empty with next := .next }
    let ret : CueEntry := { CueEntry.empty with next := .ret }
    let if_ : CueEntry := { CueEntry.empty with next := .ifSet, testFlag := 15 }
    let x := (s next [behind .good] none).track 47
    (s next [behind .good] none).held = false ∧ (s next [behind .good] none).trackDone 47 = false ∧
      x.state = .playing ∧ x.stop = .none ∧ x.queue = [copyOf next, behind .good] ∧ (copyOf next).length ≤ x.block + 1 ∧
      x.playRemains (copyOf next) = false ∧ (copyOf next).trailing = false ∧ next.next = .next ∧
      (behind .good).status = .good ∧ (behind .badClip).status = .badClip ∧ (behind .badRange).status = .badRange ∧
      ret.next = .ret ∧ ret.late = false ∧ ((s ret [behind .good] (some 9)).track 47).link.isSome = true ∧
      ((s ret [behind .good] none).track 47).link = none ∧ if_.late = false ∧ if_.next = .ifSet ∧
      (copyOf if_).path = .main ∧ ({ behind .good with path := .taken } : Copy).path = .taken ∧
      ({ behind .good with path := .fall } : Copy).path = .fall ∧ up.flagSet 15 = false ∧
      ({ up with flags := 0x8000 } : State).flagSet 15 = true := by decide +kernel

/-- A late branch of each kind, a RETURN with and without a link; the trailing copy behind it with each decision; and an
IF whose one successor stands behind it. -/
theorem witness_late_branches :
    let s (c : Copy) (rest : List Copy) (link : Option CueIndex) (decision : Decision) : State :=
      tracked { atEnd CueEntry.empty [] with queue := c :: rest, link := link, decision := decision }
    let late (k : NextKind) : Copy := copyOf { CueEntry.empty with next := k, late := true }
    let trailing : Copy := { behind .good with trailing := true }
    let one : Copy := copyOf { CueEntry.empty with next := .ifSet, target := .near 0 }
    (∀ k ∈ [NextKind.next, .goto, .call, .ret, .ifSet, .ifClear],
      (s (late k) [trailing] none .none).held = false ∧ (s (late k) [trailing] none .none).trackDone 47 = false ∧
      ((s (late k) [trailing] none .none).track 47).queue = [late k, trailing] ∧ (late k).entry.late = true ∧
      (late k).trailing = false ∧ (late k).length ≤ ((s (late k) [trailing] none .none).track 47).block + 1 ∧
      ((s (late k) [trailing] none .none).track 47).playRemains (late k) = false) ∧
      ((s (late .ret) [trailing] (some 9) .none).track 47).link = some 9 ∧
      ((s trailing [behind .good] none (.go 6)).track 47).queue = [trailing, behind .good] ∧ trailing.trailing = true ∧
      ((s trailing [behind .good] none (.go 6)).track 47).decision ≠ .noLink ∧
      ((s trailing [] none .noLink).track 47).decision = .noLink ∧
      ((s trailing [] none .noLink).track 47).playRemains trailing = false ∧ one.entry.late = false ∧
      one.entry.next = .ifSet ∧ (behind .good).path = .main := by decide +kernel

/-- A track stopped in its walk whose queue is `c` and the copy it leads to follows its program. -/
theorem follows_pair (x : Track) (c d : Copy) (q : x.queue = [c, d]) (m : c.path = .main ∧ d.path = .main)
    (w : x.walk.phase = .stopped) (h : x.state ≠ .holding)
    (leads : c.leadsTo { link := x.link, decision := x.decision } d.index d.trailing) : x.followsProgram := by
  refine ⟨⟨[c, d], [], by rw [q]; rfl, ?_, ⟨leads, trivial⟩, .inl rfl⟩, ?_, fun _ e => absurd e h⟩
  · simp [m.1, m.2]
  · unfold Track.walkFollows
    rw [w]
    trivial

/-- Queues that follow their program: behind a RETURN the entry of the link, behind a trailing entry the decided one,
behind a late branch its trailing entry, behind a GOTO its target, behind NEXT and an IF of one successor the next. -/
theorem witness_successors_follow :
    let s (c d : Copy) (link : Option CueIndex) (decision : Decision) : Track :=
      { atEnd CueEntry.empty [] with queue := [c, d], link := link, decision := decision }
    let plain (k : NextKind) : Copy := copyOf { CueEntry.empty with next := k, target := .far 6 }
    let late : Copy := copyOf { CueEntry.empty with next := .goto, late := true }
    let trailing : Copy := { behind .good with trailing := true }
    (s (plain .ret) (behind .good) (some 6) .none).followsProgram ∧
      (s { plain .ret with trailing := true } (behind .good) none (.go 6)).followsProgram ∧
      (s late trailing none .none).followsProgram ∧ late.entry.isLateBranch = true ∧
      (s (plain .goto) (behind .good) none .none).followsProgram ∧
      (s (plain .next) (behind .good) none .none).followsProgram ∧
      (s (plain .ifSet) (behind .good) none .none).followsProgram :=
  ⟨follows_pair _ _ _ rfl ⟨rfl, rfl⟩ rfl (by decide) ⟨rfl, rfl⟩, follows_pair _ _ _ rfl ⟨rfl, rfl⟩ rfl (by decide) ⟨rfl, rfl⟩,
    follows_pair _ _ _ rfl ⟨rfl, rfl⟩ rfl (by decide) ⟨rfl, rfl⟩, by decide,
    follows_pair _ _ _ rfl ⟨rfl, rfl⟩ rfl (by decide) ⟨rfl, rfl⟩, follows_pair _ _ _ rfl ⟨rfl, rfl⟩ rfl (by decide) ⟨rfl, rfl⟩,
    follows_pair _ _ _ rfl ⟨rfl, rfl⟩ rfl (by decide) ⟨rfl, rfl, rfl⟩⟩

/-- A split that follows its program: the IF at index 5 with target 4095, and its two paths behind it. -/
theorem witness_split_follows :
    let c : Copy := copyOf { CueEntry.empty with next := .ifSet, target := .far 4095 }
    let d : Copy := { behind .good with index := 4095, path := .taken }
    let e : Copy := { behind .badClip with path := .fall }
    let x : Track :=
      { atEnd CueEntry.empty [] with queue := [c, d, e], walk := { Walk.stopped with phase := .split }, link := none }
    x.followsProgram ∧ c.splits ∧ d.path = .taken := by
  refine ⟨⟨⟨[_], [_, _], rfl, by decide, trivial,
    .inr ⟨[], _, _, _, rfl, rfl, ⟨by decide, by decide, .inl rfl, by decide⟩, rfl, rfl, rfl, rfl, rfl, rfl, rfl, rfl, rfl⟩⟩,
    trivial, fun _ e => nomatch e⟩, ⟨by decide, by decide, .inl rfl, by decide⟩, rfl⟩

/-- A holder and a start that waits at flag 15, set and clear; a broken hold; the boundary before a hold. -/
theorem witness_HoldersAreReleased :
    let hold : CueEntry := { CueEntry.empty with next := .hold, testFlag := 15, consume := true }
    let holding := { atEnd hold [behind .good] with state := .holding }
    let waiting := { atEnd CueEntry.empty [] with state := .starting, block := 0, start := .flag 15 true }
    let s (x : Track) : State := { tracked x with flags := 0x8000 }
    (s holding).held = false ∧ (s holding).trackDone 47 = false ∧ (s holding).work.flags = false ∧
      ((s holding).track 47).queue = [copyOf hold, behind .good] ∧ ((s holding).track 47).breakPending = false ∧
      ((s holding).track 47).stop ≠ .now ∧ (s holding).flagSet 15 = true ∧
      (∀ j < (47 : TrackId), (s holding).holderOf j ≠ some (15, true)) ∧
      (s holding).holderOf 47 = some (15, true) ∧ ((s waiting).track 47).start = .flag 15 true ∧
      (s waiting).holderOf 47 = some (15, true) ∧
      ((s { holding with breakPending := true }).track 47).breakPending = true ∧
      (tracked holding).flagSet 15 = false ∧ (tracked holding).isReleased 47 = false ∧
      ((tracked holding).track 47).nowMark = false ∧ ((tracked (atEnd hold [behind .good])).track 47).state = .playing ∧
      ((tracked (atEnd hold [behind .good])).track 47).playRemains (copyOf hold) = false := by decide +kernel

/-- A hold at the end of its play with its flag set, in front of a GOOD copy with a pulse, a flag action and a note, and
of a BAD one; a broken hold and a start that waits at the flag in front of each. -/
theorem witness_release_at_the_boundary :
    let hold : CueEntry := { CueEntry.empty with next := .hold, testFlag := 15, consume := true }
    let marked : Copy :=
      { behind .good with entry := { CueEntry.empty with markers := 8, note := true, action := .clear, actionFlag := 15 } }
    let pulse : MarkerLine := { MarkerLine.reset with mode := .pulse, width := 255 }
    let s (d : Copy) : State := ({ tracked (atEnd hold [d]) with flags := 0x8000 }).setMarker 3 pulse
    let x := (s marked).track 47
    x.state = .playing ∧ x.stop = .none ∧ x.queue = [copyOf hold, marked] ∧ (copyOf hold).length ≤ x.block + 1 ∧
      x.playRemains (copyOf hold) = false ∧ (copyOf hold).trailing = false ∧ hold.next = .hold ∧
      (s marked).work.flags = false ∧ (s marked).flagSet 15 = true ∧
      (∀ j < (47 : TrackId), (s marked).holderOf j ≠ some (15, true)) ∧ ((s marked).marker 3).mode = .pulse ∧
      marked.entry.markers.getLsbD 3 = true ∧ marked.status = .good ∧
      (((s marked).after (.boundary 47)).marker 3).remaining = 255 ∧
      ((((s marked).after (.boundary 47)).notice (trackSource 47)).map fun n => n.causes.getLsbD 10) = some true ∧
      ((s marked).after (.boundary 47)).flags = 0 ∧
      (((s (behind .badClip)).after (.boundary 47)).track 47).faultReason = .badClip ∧
      (((s (behind .badRange)).after .flagRelease).track 47).faultReason = .badRange := by decide +kernel

/-- Starts that are due and not; an AT time the coming count meets, one it has passed and one ahead of it. -/
theorem witness_TracksStartAtTheirTick :
    let x (start : StartCond) (due : Bool) : Track :=
      { atEnd CueEntry.empty [] with state := .starting, block := 0, start := start, startDue := due }
    let s (start : StartCond) (due : Bool) : State := tracked (x start due)
    (s .next true).held = false ∧ (s .next true).trackDone 47 = false ∧ ((s .next true).track 47).state = .starting ∧
      ((s .next true).track 47).queue = [copyOf CueEntry.empty] ∧ ((s .next true).track 47).startDue = true ∧
      (copyOf CueEntry.empty).status = .good ∧ (behind .badClip).status ≠ .good ∧
      ((s .next true).track 47).stagedPending = false ∧ (timelineTick (s (.atTime 1) false)).timeline.count = 1 ∧
      ((s (.atTime 0) false).track 47).startDue = false ∧ ahead 0 1 = false ∧ ahead 2 1 = true ∧ (0 : Count) ≠ 1 ∧
      (2 : Count) ≠ 1 ∧ ((s (.atTime 2) false).track 47).nowMark = false ∧ (behind .badRange).status ≠ .good := by
  decide +kernel

/-- A start with a set that waits: in mode EVERY, at an entry with apply, under NOW, and none of them. -/
theorem witness_transfer_at_a_start :
    let x (mode : TransferMode) (now : Bool) : Track :=
      { atEnd CueEntry.empty [] with
        state := .starting, block := 0, start := .next, startDue := true, stagedPending := true, nowMark := now
        active := { LiveParams.default with mode := mode } }
    let moved (y : Track) (e : CueEntry) : Prop :=
      y.stagedPending = true ∧ (y.nowMark = true ∨ y.active.mode = .every ∨ e.apply = true)
    (tracked (x .every false)).trackDone 47 = false ∧ moved (x .every false) CueEntry.empty ∧
      moved (x .marked false) { CueEntry.empty with apply := true } ∧ moved (x .marked true) CueEntry.empty ∧
      ¬ moved (x .marked false) CueEntry.empty := by decide +kernel

/-- A NOW stop, a fade that has reached its length and one that has not, an END stop and an END boundary. -/
theorem witness_StopsTakeTheTrackHome :
    let x (st : TrackState) (stop : StopMode) (j : Nat) : Track :=
      { atEnd CueEntry.empty [] with state := st, stop := stop, stopFade := j }
    let s (st : TrackState) (stop : StopMode) (j : Nat) : State := tracked (x st stop j)
    (s .playing .now 0).held = false ∧ (s .playing .now 0).trackDone 47 = false ∧
      ((s .playing .now 0).track 47).stop = .now ∧ ((s .stopping (.fade 2) 2).track 47).stop = .fade 2 ∧
      2 ≤ ((s .stopping (.fade 2) 2).track 47).stopFade ∧ ((s .stopping (.fade 2) 1).track 47).stopFade < 2 ∧
      ((s .stopping .atEnd 0).track 47).stop = .atEnd ∧
      ((s .stopping .atEnd 0).track 47).queue = [copyOf CueEntry.empty] ∧
      (copyOf CueEntry.empty).length ≤ ((s .stopping .atEnd 0).track 47).block + 1 ∧
      ((s .playing .none 0).track 47).playRemains (copyOf CueEntry.empty) = false ∧
      (copyOf CueEntry.empty).trailing = false ∧ CueEntry.empty.next = .finish := by decide +kernel

theorem witness_TransferAndGateAtATickStart :
    let gates : LiveParams := { LiveParams.default with gateOn := 1, gateOff := 1 }
    let play := { atEnd CueEntry.empty [] with block := 0, stagedPending := true, nowMark := true }
    let waits := { Track.reset with state := .starting, start := .trigger 3, stagedPending := true, nowMark := true }
    let gated := { atEnd CueEntry.empty [] with block := 0, active := gates }
    (tracked play).held = false ∧ (tracked play).trackDone 47 = false ∧ ((tracked play).track 47).state = .playing ∧
      ((tracked play).track 47).queue = [copyOf CueEntry.empty] ∧
      ((tracked play).track 47).block + 1 < (copyOf CueEntry.empty).length ∧
      ((tracked play).track 47).stagedPending = true ∧ ((tracked play).track 47).nowMark = true ∧
      ((tracked waits).track 47).start = .trigger 3 ∧ ((tracked waits).track 47).startDue = false ∧
      ((tracked gated).track 47).stagedPending = false ∧ ((tracked gated).track 47).active.gateOn ≠ 0 ∧
      ((tracked gated).track 47).active.gateOff ≠ 0 ∧
      ((tracked gated).track 47).active.gateOn ≤ ((tracked gated).track 47).gateCounter + 1 := by decide +kernel

/-- A holder with a NOW transfer; an entry start with no set, and with one in mode EVERY and in mode MARKED, without
apply and with it. -/
theorem witness_transfers_at_starts :
    let hold : CueEntry := { CueEntry.empty with next := .hold, testFlag := 15 }
    let holding := { atEnd hold [] with state := .holding, stagedPending := true, nowMark := true }
    let next : CueEntry := { CueEntry.empty with next := .next }
    let ends (mode : TransferMode) (pending : Bool) : Track :=
      { atEnd next [behind .good] with active := { LiveParams.default with mode := mode }, stagedPending := pending }
    let moved (x : Track) (apply : Bool) : Prop :=
      x.stagedPending = true ∧ (x.nowMark = true ∨ x.active.mode = .every ∨ apply = true)
    (tracked holding).held = false ∧ (tracked holding).trackDone 47 = false ∧
      ((tracked holding).track 47).state = .holding ∧ ((tracked holding).track 47).queue = [copyOf hold] ∧
      ((tracked holding).track 47).breakPending = false ∧ ((tracked holding).track 47).stop ≠ .now ∧
      (tracked holding).flagSet 15 = false ∧ (tracked holding).isReleased 47 = false ∧
      (tracked (ends .every true)).trackDone 47 = false ∧
      ((tracked (ends .every true)).track 47).queue = [copyOf next, behind .good] ∧
      (copyOf next).length ≤ ((tracked (ends .every true)).track 47).block + 1 ∧
      ((tracked (ends .every true)).track 47).playRemains (copyOf next) = false ∧ moved (ends .every true) false ∧
      moved (ends .marked true) true ∧ ¬ moved (ends .marked true) false ∧ ¬ moved (ends .every false) true := by
  decide +kernel

/-- A start and a released start at an entry with a pulse and a note; a FADE stop and an END stop with a NOW set. -/
theorem witness_start_actions_and_now_in_a_stop :
    let e : CueEntry := { CueEntry.empty with markers := 8, note := true }
    let starts := { atEnd e [] with state := .starting, block := 0, start := .next, startDue := true }
    let fading (stop : StopMode) : Track :=
      { atEnd CueEntry.empty [] with
        state := .stopping, block := 0, stop := stop, stopFade := 1, stagedPending := true, nowMark := true }
    (tracked starts).trackDone 47 = false ∧ (copyOf e).status = .good ∧ e.markers.getLsbD 3 = true ∧ e.note = true ∧
      (((tracked starts).after (.trackStart 47)).notice (trackSource 47)).map (fun n => n.causes.getLsbD 10) = some true ∧
      (fading (.fade 2)).goesOn ∧ ((fading .atEnd).state = .stopping ∧ (fading .atEnd).stop = .atEnd) ∧
      (fading .atEnd).block + 1 < (copyOf CueEntry.empty).length ∧
      (((tracked (fading .atEnd)).after (.transfer 47)).track 47).stagedPending = false :=
  ⟨by decide +kernel, by decide, by decide, by decide, by decide +kernel, .inr ⟨rfl, 2, rfl, by decide⟩, ⟨rfl, rfl⟩,
    by decide, by decide +kernel⟩

/-! ### Witnesses: the scene store and bank service -/

/-- A clip of bank 1 at decimation 128, one sector long, in the state given. -/
def record (st : ClipState) : ClipRecord :=
  { ClipRecord.empty with state := st, bank := 1, sectors := 1, decimation := 128 }

/-- The part with clip 1023 as given. -/
def clipped (r : ClipRecord) : State := up.setClip 1023 r

theorem serves_clipped (r : ClipRecord) (q : Request) : (clipped r).serves q := serves_empty _ _ rfl rfl rfl

/-- Clip 1023, D 128, reference −120 hd and a label of 24 characters; the whole bank, which is not FREE; just outside.
-/
theorem witness_ClipOpenTakesTheLowestRun :
    let label : List Byte := List.replicate 24 0x7E
    let full := up.setSector 3 0 .allocated
    label.length = 24 ∧
      up.serves { tag := 1, code := 0x50, payload := [0xFF, 3, 3, 128, 1, 0, 0x88, 0xFF, 24] ++ label } ∧
      full.serves { tag := 1, code := 0x50, payload := [0xFF, 3, 3, 128, 0, 0x20, 0x88, 0xFF, 24] ++ label } ∧
      ((3 : Byte) ++ (0xFF : Byte)).toNat < 1024 ∧ (128 : Byte).toNat ∈ [1, 2, 4, 8, 16, 32, 64, 128] ∧
      ((0x20 : Byte) ++ (0 : Byte)).toNat = 8192 ∧ ((0xFF : Byte) ++ (0x88 : Byte)).toInt = -120 ∧
      (∀ x ∈ label.take (24 : Byte).toNat, 0x20 ≤ x.toNat ∧ x.toNat ≤ 0x7E) ∧
      (∀ x ∈ label.drop (24 : Byte).toNat, x = 0) ∧ up.store.scanning = false ∧ (up.clip 1023).state = .empty ∧
      ((clipped (record .opened)).clip 1023).state ≠ .empty ∧ State.reset.store.scanning = true ∧
      (0 + 1 ≤ 8192 ∧ ∀ i < 1, up.sector 3 (0 + i) = .free) ∧ (∀ j < 0, ¬ (j + 1 ≤ 8192)) ∧
      (∀ k, ¬ (k + 8192 ≤ 8192 ∧ ∀ i < 8192, full.sector 3 (k + i) = .free)) ∧
      ¬ ((4 : Byte).toNat < 4) ∧ ((0xFF : Byte) ++ (0x87 : Byte)).toInt < -120 := by
  refine ⟨by decide, serves_up _, serves_empty _ _ rfl rfl rfl, by decide, by decide, by decide, by decide, by decide,
    by decide, by decide, by decide, by decide +kernel, by decide, by decide +kernel, by decide, ?_, by decide, by decide⟩
  rintro k ⟨h, f⟩
  have e : k = 0 := by omega
  subst e
  exact absurd (f 0 (by omega)) (by decide +kernel)

/-- One block of 128 bytes; each refusal in the order of R123; two pages in queue. -/
theorem witness_ClipDataJoinsTheProgramQueue :
    let page : Page := { clip := 1023, index := 0, data := [] }
    let s := clipped (record .opened)
    (∀ data : List Byte, s.serves { tag := 1, code := 0x51, payload := [0xFF, 3, 0, 0, 0, 0] ++ data }) ∧
      ((3 : Byte) ++ (0xFF : Byte)).toNat < 1024 ∧ ¬ ((4 : Byte) ++ (0 : Byte)).toNat < 1024 ∧
      s.store.scanning = false ∧ State.reset.store.scanning = true ∧ (s.clip 1023).state = .opened ∧
      (up.clip 1023).state ≠ .opened ∧ (s.clip 1023).ended = false ∧ (s.clip 1023).nextPage = 0 ∧
      ((0 : Byte) ++ (0 : Byte) ++ (0 : Byte) ++ (1 : Byte)).toNat ≠ (s.clip 1023).nextPage ∧
      ({ record .opened with nextPage := 256 } : ClipRecord).nextPage = (record .opened).sectors * 256 ∧
      (s.clip 1023).nextPage ≠ (s.clip 1023).sectors * 256 ∧
      (List.replicate 128 (0 : Byte)).length % (16384 / (s.clip 1023).decimation) = 0 ∧
      (List.replicate 127 (0 : Byte)).length % (16384 / (s.clip 1023).decimation) ≠ 0 ∧ ([] : List Byte).length = 0 ∧
      (s.bank 1).programQueue.length < 2 ∧
      2 ≤ ((s.setBank 1 { Bank.reset with programQueue := [page, page] }).bank 1).programQueue.length ∧
      (s.bank 1).op = none ∧ (s.bank 1).inFlight = none ∧ (s.bank 1).fetch = [] ∧ (s.bank 1).programQueue = [] :=
  ⟨fun _ => serves_clipped _ _, by decide +kernel⟩

theorem witness_ClipCloseAndDrop :
    let page : Page := { clip := 1023, index := 0, data := [] }
    let s (r : ClipRecord) : State := clipped r
    let waits := (clipped (record .opened)).setBank 1 { Bank.reset with programQueue := [page] }
    let used := (clipped (record .ready)).setTrack 0 { Track.reset with
      queue := [copyOf { CueEntry.empty with clip := some 1023 }] }
    (∀ r q, (s r).serves q) ∧ waits.serves { tag := 1, code := 0x53, payload := [0xFF, 3] } ∧
      used.serves { tag := 1, code := 0x53, payload := [0xFF, 3] } ∧
      (((s { record .opened with blocks := 1 }).clip 1023).state = .opened ∧
      ((s { record .opened with blocks := 1 }).clip 1023).blocks ≠ 0 ∧
      ((s (record .opened)).clip 1023).blocks = 0 ∧ ((s (record .ready)).clip 1023).state ≠ .opened ∧
      (∃ p ∈ (waits.bank (waits.clip 1023).bank).programQueue, p.clip = 1023) ∧
      ¬ (∃ p ∈ ((s (record .opened)).bank ((s (record .opened)).clip 1023).bank).programQueue, p.clip = 1023) ∧
      (up.clip 1023).state = .empty ∧ (used.clip 1023).state = .ready ∧
      (∃ q ∈ (used.track 0).queue, q.status = .good ∧ q.entry.clip = some 1023) ∧
      (∀ t, (∀ x ∈ ((s (record .ready)).track t).ring, x.clip ≠ some 1023) ∧
        ∀ q ∈ ((s (record .ready)).track t).queue, ¬ (q.status = .good ∧ q.entry.clip = some 1023)) ∧
      ((s (record .ready)).clip 1023).first + ((s (record .ready)).clip 1023).sectors ≤ 8192 ∧
      tableWf SectorState.free (s (record .ready)).store.sectors = true ∧
      ¬ ((4 : Byte) ++ (0 : Byte)).toNat < 1024) :=
  ⟨serves_clipped, serves_empty _ _ rfl rfl rfl, serves_empty _ _ rfl rfl rfl, by decide +kernel⟩

/-- Bank 3 with an operation, its sub-state and its count as given, and a read waiting. -/
def banked (kind : OpKind) (sub : SubState) (count : Nat) (fetch : List FetchRequest) : State :=
  up.setBank 3 { Bank.reset with
    op := some { kind := kind, sub := sub, count := count, cap := false }
    fetch := fetch
    programQueue := [{ clip := 1023, index := 0, data := [1] }] }

/-- A read request of track 47 for slot 3. -/
def reading : FetchRequest := { track := 47, slot := 3, clip := 1023, block := 0 }

theorem serves_banked (k : OpKind) (u : SubState) (n : Nat) (f : List FetchRequest) (r : Request) :
    (banked k u n f).serves r := serves_empty _ _ rfl rfl rfl

theorem witness_BankRequestsActOnTheirBank :
    (∀ r, up.serves r) ∧ (∀ k u n f r, (banked k u n f).serves r) ∧
      (4 ≤ (4 : Byte).toNat ∧ 2 ≤ (2 : Byte).toNat ∧ (3 : Byte).toNat = (3 : BankId).1 ∧ (1 : Byte).toNat < 2 ∧
      State.reset.store.scanning = true ∧ up.store.scanning = false ∧
      tableWf SectorState.free up.store.sectors = true ∧ (up.bank 3).sweep = false ∧ (up.bank 3).op = none ∧
      (List.range 4).countP (fun m => up.sector 3 m = .dirty || up.sector 3 m = .unsettled) = 0 ∧
      (up.setSector 3 8191 .dirty).sector 3 8191 = .dirty ∧
      (banked (.program 1023 0) .running 15 [reading]).store.scanning = false ∧
      ((banked (.program 1023 0) .running 15 [reading]).bank 3).op =
        some { kind := .program 1023 0, sub := .running, count := 15, cap := false } ∧ 15 < 16 ∧
      ((banked (.erase 8191) .running 0 []).bank 3).op =
        some { kind := .erase 8191, sub := .running, count := 0, cap := false } ∧
      ((banked (.program 1023 0) .running 15 [reading]).bank 3).fetch ≠ [] ∧
      ((banked (.program 1023 0) .running 16 [reading]).bank 3).op =
        some { kind := .program 1023 0, sub := .running, count := 16, cap := false } ∧ 16 ≤ 16 ∧ (0 : Byte) = 0 ∧
      (1 : Byte) = 1) :=
  ⟨serves_up, fun _ _ _ _ _ => serves_banked _ _ _ _ _, by decide +kernel⟩

/-- A sweep with nothing left and none of the bank's 8192 sectors to erase. -/
theorem witness_sweep_with_nothing_left :
    (List.range 8192).countP (fun m => up.sector 3 m = .dirty || up.sector 3 m = .unsettled) = 0 :=
  List.countP_eq_zero.mpr fun _ _ => by simp [up, State.sector, State.reset, tableGet]

/-- A free bank that may settle, and one whose operation is SUSPENDED with a read waiting and with none. -/
theorem witness_banks_settle :
    let waits := banked (.erase 8191) .suspended 15 [reading]
    let resumes := banked (.erase 8191) .suspended 15 []
    (up.store.scanning = false ∧ (up.bank 3).inFlight = none ∧ (up.bank 3).mayRead ∧ (up.bank 3).fetch = []) ∧
      ((waits.bank 3).mayRead ∧ (waits.bank 3).fetch ≠ [] ∧ (waits.bank 3).inFlight = none) ∧
      ((resumes.bank 3).mayRead ∧ (resumes.bank 3).fetch = []) ∧
      ¬ ((banked (.erase 8191) .running 0 []).bank 3).mayRead := by
  refine ⟨⟨rfl, rfl, fun _ h => ?_, rfl⟩, ⟨fun _ h => ?_, by decide +kernel, rfl⟩, ⟨fun _ h => ?_, rfl⟩, fun h => ?_⟩
  · cases (show (none : Option Operation) = some _ from h)
  · cases h
    rfl
  · cases h
    rfl
  · exact absurd (h _ rfl) (by decide)

/-- A free bank whose one sector to erase is its last, and one with two: the sweep erases the lower one. -/
theorem witness_sweep_erases_the_lowest_sector :
    let one := up.setSector 3 8191 .dirty
    let two := one.setSector 3 8190 .unsettled
    (one.bank 3).sweep = false ∧ (one.bank 3).op = none ∧ (one.bank 3).inFlight = none ∧ (one.bank 3).fetch = [] ∧
      (one.bank 3).programQueue = [] ∧ (one.sector 3 8191 = .dirty ∧ 8191 < 8192) ∧
      ((one.after (.storeSweep 0 [3])).bank 3).op =
        some { kind := .erase 8191, sub := .running, count := 0, cap := false } ∧
      ((two.after (.storeSweep 0 [3])).bank 3).op =
        some { kind := .erase 8190, sub := .running, count := 0, cap := false } := by decide +kernel

theorem witness_sweep_has_work :
    (List.range 8192).countP (fun m => (up.setSector 3 8191 .dirty).sector 3 m = .dirty ||
      (up.setSector 3 8191 .dirty).sector 3 m = .unsettled) ≠ 0 :=
  Nat.ne_of_gt (List.countP_pos_iff.mpr ⟨8191, List.mem_range.mpr (by decide), by decide +kernel⟩)

/-- A halt with an erase, with a program and with none; the bank's own program of the page behind it starts. -/
theorem witness_halts :
    let page (c : ClipId) : Page := { clip := c, index := 0, data := [1] }
    let s := (banked (.program 1023 0) .running 0 []).setBank 3
      { (banked (.program 1023 0) .running 0 []).bank 3 with programQueue := [page 1023, page 7] }
    (s.bank 3).op = some { kind := .program 1023 0, sub := .running, count := 0, cap := false } ∧ s.store.scanning = false ∧
      ((s.after (.storeHalt 0 [3])).bank 3).op =
        some { kind := .program 7 0, sub := .running, count := 0, cap := false } ∧
      (((banked (.erase 8191) .suspended 0 []).after (.storeHalt 0 [3])).sector 3 8191) = .unsettled := by decide +kernel

/-- Track 47 in the state given, with a MAIN slot, a TAKEN one and a gated one in its ring. -/
def waitsIn (state : TrackState) (start : StartCond) (due : Bool) : State :=
  tracked
    { Track.reset with
      state := state
      start := start
      startDue := due
      ring := [{ slotOf .queued with id := 0 }, { slotOf .queued with id := 1, path := .taken },
        { slotOf .queued with id := 2, gated := true }] }

/-- A MAIN slot, a TAKEN one and a gated one; a track in each kind of state; AT times ahead of the count 0, that of the
coming tick and one passed; an ended part of a tick start. -/
theorem witness_DeadlinesOrderTheReads :
    let main : Slot := { slotOf .queued with id := 0 }
    let s := waitsIn .playing .none false
    let open_ : State := { s with work := { s.work with timeline := true } }
    (s.track 47).ring[0]? = some main ∧ main.path = .main ∧ main.gated = false ∧
      (((s.track 47).ring[1]?).map Slot.path) = some .taken ∧ (((s.track 47).ring[2]?).map Slot.gated) = some true ∧
      (s.track 47).state = .playing ∧ ((waitsIn .holding .none false).track 47).state = .holding ∧
      ((waitsIn .starting .next false).track 47).start = .next ∧
      ((waitsIn .starting (.trigger 3) false).track 47).start = .trigger 3 ∧
      ((waitsIn .starting (.flag 15 true) false).track 47).start = .flag 15 true ∧
      ((waitsIn .starting (.atTime 2) true).track 47).startDue = true ∧
      ahead 2 (waitsIn .starting (.atTime 2) false).timeline.count = true ∧
      ahead 0 (waitsIn .starting (.atTime 0) false).timeline.count = false ∧
      (0 : Count) ≠ (waitsIn .starting (.atTime 0) false).timeline.count + 1 ∧
      (open_.work.timeline = true ∧ open_.trackDone 47 = false) ∧ s.work.timeline = false := by decide +kernel

/-- Two requests of track 47, for ring places 0 and 1, the latter UNSCHEDULED; and one of track 46 for an equal
deadline. -/
theorem witness_urgencies :
    let s := (waitsIn .playing .none false).setTrack 46 ((waitsIn .playing .none false).track 47)
    let r (t : TrackId) (n : Nat) : FetchRequest := { track := t, slot := n, clip := 1, block := 0 }
    (s.track 47).slotPlace (r 47 0).slot = some 0 ∧ (s.track 47).slotPlace (r 47 1).slot = some 1 ∧
      (s.deadline 47 0).isSome = true ∧ s.deadline 47 1 = none ∧ s.deadline 46 0 = s.deadline 47 0 ∧
      (46 : TrackId) < 47 ∧ s.deadline 47 1 = s.deadline 47 2 ∧ 1 < 2 := by decide +kernel

/-- Deadlines one and two ticks ahead; a bank with a read waiting and one with a slot that wants a place. -/
theorem witness_places :
    let two : Track :=
      { Track.reset with state := .playing, ring := [{ slotOf .wanted with id := 0 }, { slotOf .wanted with id := 1 }] }
    let s := tracked two
    (s.deadline 47 0 = some 1 ∧ s.deadline 47 1 = some 2) ∧
      (((1 : Count) - s.timeline.count).toNat < ((2 : Count) - s.timeline.count).toNat) ∧
      ((banked (.erase 0) .running 0 [reading]).bank 3).fetch ≠ [] ∧
      ((tracked { Track.reset with ring := [slotOf .queued] }).track reading.track).ring = [slotOf .queued] ∧
      (slotOf .queued).id = reading.slot ∧
      (s.setClip 1 { ClipRecord.empty with state := .ready, bank := 3 }).wanting 3 ≠ [] ∧
      (s.bank 3).fetch.length < 64 := by decide +kernel

/-- The ring of an unresolved split: a slot on each path. -/
theorem witness_split :
    let ring : List Slot := [{ slotOf .filled with id := 0 }, { slotOf .wanted with id := 1, path := .taken },
      { slotOf .wanted with id := 2, path := .fall }]
    PathTag.taken ≠ .main ∧ PathTag.fall ≠ .taken ∧ (((tracked { Track.reset with ring := ring }).track 47).ring.map
      Slot.id).Nodup := by decide +kernel

/-- A request that joins under a RUNNING operation at 15 and 16 suspensions, and where no operation runs. -/
theorem witness_joins :
    ((banked (.erase 0) .running 15 []).bank 3).op = some { kind := .erase 0, sub := .running, count := 15, cap := false } ∧
      ((banked (.erase 0) .running 15 []).bank 3).policy = .allow ∧ 15 < 16 ∧ 16 ≤ 16 ∧
      ((banked (.erase 0) .running 16 []).bank 3).op = some { kind := .erase 0, sub := .running, count := 16, cap := false } ∧
      (up.bank 3).op = none ∧
      slotOf .wanted ∈ ((tracked { Track.reset with ring := [slotOf .wanted] }).track reading.track).ring ∧
      (slotOf .wanted).id = reading.slot := by decide +kernel

/-- A track not yet primed with three slots FILLED and the fourth in flight, and with one slot and its walk at an END;
the fetch queue holds the request of another slot, which is QUEUED. -/
theorem witness_priming :
    let filled (n : Nat) : Slot := { slotOf .filled with id := n }
    let x (state : TrackState) : Track :=
      { Track.reset with
        state := state
        ring := [filled 0, filled 1, filled 2, slotOf .reading, { slotOf .queued with id := 4 }]
        walk := { Walk.stopped with phase := .done .finish } }
    let s (state : TrackState) : State := (tracked (x state)).setBank 3
      { Bank.reset with inFlight := some reading, fetch := [{ reading with slot := 4 }] }
    ((s .priming).bank 3).inFlight = some reading ∧ ((s .priming).track reading.track).primed = false ∧
      ((s .priming).track reading.track).state = .priming ∧ ((s .starting).track reading.track).state = .starting ∧
      (((s .priming).track reading.track).ring.map Slot.id).Nodup ∧
      (∀ f ∈ ((s .priming).bank 3).fetch, f.slot ≠ reading.slot ∧
        ∀ y ∈ ((s .priming).track reading.track).ring, y.id = f.slot → y.state = .queued) ∧
      (((s .priming).after (.blockReadCompletion 3 true)).track 47).state = .ready ∧
      (((s .priming).after (.blockReadCompletion 3 false)).track 47).state = .priming := by decide +kernel

/-- A read in flight whose slot stands in the ring, one whose slot has left it; a suspension with and without reads. -/
theorem witness_ReadsAndSuspendsComplete :
    let flight := (tracked { Track.reset with ring := [slotOf .reading] }).setBank 3
      { Bank.reset with inFlight := some reading }
    let gone := up.setBank 3 { Bank.reset with inFlight := some reading }
    (up.bank 3).inFlight = none ∧ flight.held = false ∧ (flight.bank 3).inFlight = some reading ∧
      slotOf .reading ∈ (flight.track reading.track).ring ∧ (slotOf .reading).id = reading.slot ∧
      ((flight.track reading.track).ring.map Slot.id).Nodup ∧
      (∀ f ∈ (flight.bank 3).fetch, f.track = reading.track → f.slot ≠ reading.slot) ∧
      (∀ y ∈ (gone.track reading.track).ring, y.id ≠ reading.slot) ∧ (∀ op, (up.bank 3).op = some op → False) ∧
      ((banked (.erase 0) .suspending 0 []).bank 3).fetch = [] ∧
      ((banked (.erase 0) .suspending 0 [reading]).bank 3).fetch ≠ [] ∧
      ((banked (.erase 0) .suspending 0 []).bank 3).inFlight = none ∧
      (banked (.erase 0) .suspending 0 []).store.scanning = false ∧
      ((banked (.erase 0) .suspending 0 []).bank 3).op =
        some { kind := .erase 0, sub := .suspending, count := 0, cap := false } := by
  refine ⟨by decide, by decide +kernel, by decide +kernel, by decide +kernel, by decide +kernel, by decide +kernel,
    by decide +kernel, by decide +kernel, ?_, by decide +kernel, by decide +kernel, by decide +kernel, by decide +kernel,
    by decide +kernel⟩
  rintro op h
  have e : (up.bank 3).op = none := by decide
  rw [e] at h
  cases h

/-- A page behind the one in progress, without a read waiting; and no page with a sector to erase. -/
theorem witness_ended_operations :
    let page (c : ClipId) : Page := { clip := c, index := 0, data := [1] }
    let two (kind : OpKind) : State := (banked kind .running 0 []).setBank 3
      { (banked kind .running 0 []).bank 3 with programQueue := [page 1023, page 7] }
    ((two (.program 1023 0)).bank 3).inFlight = none ∧ (two (.program 1023 0)).store.scanning = false ∧
      ((two (.program 1023 0)).bank 3).fetch = [] ∧ ((two (.program 1023 0)).bank 3).programQueue = [page 1023, page 7] ∧
      (((two (.program 1023 0)).after (.programCompletion 3 true)).bank 3).op =
        some { kind := .program 7 0, sub := .running, count := 0, cap := false } ∧
      (((two (.erase 0)).after (.eraseCompletion 3 true)).bank 3).op =
        some { kind := .program 1023 0, sub := .running, count := 0, cap := false } ∧
      (((up.setSector 3 8191 .dirty).setBank 3
        { Bank.reset with op := some { kind := .erase 0, sub := .running, count := 0, cap := false } }).after
          (.eraseCompletion 3 false)).sector 3 8191 = .erasing := by decide +kernel

theorem witness_StoreOperationsComplete :
    let s := banked (.program 1023 0) .running 0 []
    s.held = false ∧ (s.bank 3).op = some { kind := .program 1023 0, sub := .running, count := 0, cap := false } ∧
      (s.bank 3).programQueue = [{ clip := 1023, index := 0, data := [1] }] ∧
      ((banked (.erase 8191) .suspended 0 []).bank 3).op =
        some { kind := .erase 8191, sub := .suspended, count := 0, cap := false } ∧
      ((banked (.erase 8191) .running 0 []).bank 3).op =
        some { kind := .erase 8191, sub := .running, count := 0, cap := false } ∧
      State.reset.held = false ∧ State.reset.store.scanning = true ∧ up.store.scanning = false := by decide +kernel

/-- A full page at D = 128, its last block among them, and two pages at both sides of a sector's end. -/
theorem witness_ProgrammedPagesReadBackAsBlocks :
    (record .opened).decimation ∈ [1, 2, 4, 8, 16, 32, 64, 128] ∧ 128 ≤ (record .opened).decimation ∧
      (List.replicate 16384 (0 : Byte)).length = 128 * (16384 / (record .opened).decimation) ∧ 127 < 128 ∧
      (record .opened).pageAddress (128 / (record .opened).decimation) ≠ (record .opened).pageAddress 0 ∧
      (record .opened).first + 255 / 256 < 8192 ∧ (record .opened).first + 256 / 256 < 8192 := by
  rw [List.length_replicate]
  decide

/-! ### Witnesses: lines, reading, what every step keeps -/

/-- Line 3 as a trigger with flag 15 and as a marker of width 1, and each just outside. -/
theorem witness_LineRequests :
    up.serves { tag := 1, code := 0x60, payload := [0, 3, 3, 255, 1, 15] } ∧
      up.serves { tag := 1, code := 0x60, payload := [1, 3, 2, 15, 1, 1] } ∧
      up.serves { tag := 1, code := 0x60, payload := [0, 4, 0, 0, 0, 0] } ∧
      up.serves { tag := 1, code := 0x61, payload := [16] } ∧
      (3 : Byte).toNat < 4 ∧ (15 : Byte).toNat < 16 ∧ (1 : Byte) ≠ 0 ∧ ¬ (4 : Byte).toNat < 4 ∧ ¬ (16 : Byte).toNat < 16 ∧
      (16 : Byte).toNat ≤ 16 ∧ ¬ (17 : Byte).toNat ≤ 16 :=
  ⟨serves_up _, serves_up _, serves_up _, serves_up _, by decide⟩

/-- Line 1 sees an edge (level 2 is that of line 1): turned away, accepted, and accepted with a full capture queue. -/
theorem witness_TriggerAndMarkerEvents :
    let rise : TriggerLine := { TriggerLine.reset with mode := .rise }
    let off := up
    let on := up.setTrigger 1 rise
    let full : State := { on with lines := { on.lines with
      captures := List.replicate 16 { line := 0, rising := true, count := 0, offset := 0 } } }
    let pulse := up.setMarker 3 { MarkerLine.reset with mode := .pulse, remaining := 1 }
    let hold := up.setTrigger 1 { rise with remaining := 1 }
    on.held = false ∧ (∀ m, m ≠ (1 : LineId) → (2 : BitVec 4).getLsbD m.1 = (on.trigger m).level) ∧
      (2 : BitVec 4).getLsbD 1 ≠ (on.trigger 1).level ∧ (0 : BitVec 4).getLsbD 1 = (on.trigger 1).level ∧
      (off.trigger 1).mode = .off ∧ (on.trigger 1).mode = .rise ∧ (on.trigger 1).remaining = 0 ∧
      (∀ m, m ≠ (1 : LineId) → (2 : BitVec 4).getLsbD m.1 = (full.trigger m).level) ∧
      16 ≤ full.lines.captures.length ∧ on.lines.captures = [] ∧ hold.work.triggers.getLsbD 1 = false ∧
      (hold.trigger 1).remaining = 1 ∧ pulse.work.markers.getLsbD 3 = false ∧ (pulse.marker 3).mode = .pulse ∧
      (pulse.marker 3).remaining = 1 := by decide +kernel

/-- Marker lines in each mode, with a pulse at its last tick and over, a flag set and clear, and each polarity. -/
theorem witness_marker_levels :
    let s (mode : MarkerMode) (remaining : Nat) (polarity : Polarity) : State :=
      { up.setMarker 3 { MarkerLine.reset with mode := mode, flag := 15, remaining := remaining, polarity := polarity } with
        flags := 0x8000 }
    ((s .off 0 .activeHigh).marker 3).mode = .off ∧ ((s .pulse 1 .activeHigh).marker 3).mode = .pulse ∧
      0 < ((s .pulse 1 .activeHigh).marker 3).remaining ∧ ¬ 0 < ((s .pulse 0 .activeHigh).marker 3).remaining ∧
      ((s .follow 0 .activeLow).marker 3).mode = .follow ∧ (s .follow 0 .activeLow).flags.getLsbD 15 = true ∧
      (s .pulse 1 .activeHigh).markerLevel 3 = true ∧ (s .pulse 0 .activeLow).markerLevel 3 = true ∧
      (s .follow 0 .activeLow).markerLevel 3 = false := by decide +kernel

/-- R173: rises of lines 0 and 2 in one port sample make two records, the lower line first. -/
theorem test_edges_in_one_sample :
    let s := (up.setTrigger 0 { TriggerLine.reset with mode := .rise }).setTrigger 2
      { TriggerLine.reset with mode := .both }
    (s.after (.triggerEdge 5 9)).lines.captures =
      [{ line := 0, rising := true, count := 0, offset := 9 }, { line := 2, rising := true, count := 0, offset := 9 }] := by
  decide +kernel

/-- A holdoff of 2 ticks, a pulse of 255, and tracks that play nothing. -/
theorem witness_lines_fall :
    let s := (up.setTrigger 3 { TriggerLine.reset with remaining := 2 }).setMarker 3
      { MarkerLine.reset with mode := .pulse, remaining := 255 }
    s.held = false ∧ s.work.triggers.getLsbD 3 = false ∧ s.work.markers.getLsbD 3 = false ∧ (s.trigger 3).remaining = 2 ∧
      (s.marker 3).remaining = 255 ∧ ∀ t, (s.track t).state = .idle := by decide +kernel

theorem witness_ReadingChangesNothing :
    (∀ r, up.serves r) ∧ (∀ r, State.reset.serves r) ∧ State.reset.store.scanning = true ∧ up.store.scanning = false ∧
      (3 : Byte).toNat = (3 : PortId).1 ∧ 4 ≤ (4 : Byte).toNat ∧ (47 : Byte).toNat = (47 : TrackId).1 ∧
      48 ≤ (48 : Byte).toNat ∧ ((3 : Byte) ++ (0xFF : Byte)).toNat = (1023 : ClipId).1 ∧
      1024 ≤ ((4 : Byte) ++ (0 : Byte)).toNat ∧ (up.port 3).pending = none ∧ (up.track 47).queue.length ≤ 4 ∧
      (up.track 47).ring.length ≤ 8 ∧ (up.track 47).active.feeds.length ≤ 4 ∧
      (up.track 47).staged.feeds.length ≤ 4 ∧ (up.clip 1023).label.length ≤ 24 :=
  ⟨serves_up, serves_reset, by decide +kernel⟩

/-- A port with a pending set; a playing track with a copy, a slot and a feed; an AT start, a flag start with consume
and a FADE stop; a program and an erase in progress. -/
theorem witness_status_fields :
    let v : PortSet := { state := .live, fs := -120, x := 240, guard := .backoff, limit := 4096, restore := true }
    let x : Track :=
      { atEnd CueEntry.empty [] with
        stop := .fade 255
        ring := [slotOf .queued]
        active := { LiveParams.default with feeds := [{ port := 3, offset := 120, phase := 0xFFFF }] } }
    let s := (tracked x).setPort 3 { Port.reset with pending := some v }
    (s.port 3).pending = some v ∧ (s.track 47).state = .playing ∧ (s.track 47).queue[0]? = some (copyOf CueEntry.empty) ∧
      (s.track 47).ring[0]? = some (slotOf .queued) ∧ 4 * (s.track 47).queue.length ≤ 15 ∧
      12 * (s.track 47).ring.length ≤ 95 ∧ ((s.track 47).active.feeds[0]?).isSome = true ∧
      4 * (s.track 47).active.feeds.length ≤ 15 ∧ (s.track 47).stop = .fade 255 ∧
      ((tracked { x with start := .atTime 7 }).track 47).start = .atTime 7 ∧
      ((tracked { x with start := .flag 15 true }).track 47).start = .flag 15 true ∧
      ((tracked { x with start := .trigger 3 }).track 47).start = .trigger 3 ∧
      tableWf SectorState.free up.store.sectors = true ∧
      (((banked (.program 1023 65535) .running 0 []).bank 3).op.map Operation.kind) = some (.program 1023 65535) ∧
      (((banked (.erase 8191) .running 0 []).bank 3).op.map Operation.kind) = some (.erase 8191) := by decide +kernel

/-- The part after its scan, with a tick start in front of its queue. -/
def waiting : State := { up with pending := [.tickStart] }

/-- The step from which the invariants below are kept. -/
theorem witness_steps : step waiting = .next (up.after .tickStart) := rfl

theorem witness_bounds_hold : waiting.linkOk ∧ waiting.capturesOk ∧ waiting.noticesOk ∧ waiting.portsOk ∧ waiting.paramsOk := by
  refine ⟨by unfold State.linkOk; decide, by unfold State.capturesOk; decide, ?_, ?_, ?_⟩
  · intro n r h
    have e : ∀ n, waiting.notice n = none := by decide +kernel
    rw [e n] at h
    cases h
  · unfold State.portsOk
    decide +kernel
  · have e : ∀ t, waiting.track t = Track.reset := by decide +kernel
    refine ⟨fun t => ?_, fun i => ?_⟩
    · rw [e t]
      unfold LiveParams.ok
      exact ⟨by decide, by decide, fun _ h => nomatch h⟩
    · have c : waiting.cueEntry i = CueEntry.empty := rfl
      rw [c]
      unfold CueEntry.freqOk
      decide

theorem witness_queues_and_tables_hold : waiting.banksOk ∧ waiting.tracksOk ∧ waiting.tablesOk := by
  refine ⟨?_, by unfold State.tracksOk; decide +kernel, by unfold State.tablesOk; decide +kernel⟩
  intro b
  have e : ∀ b, waiting.bank b = Bank.reset := by decide
  rw [e b]
  exact ⟨by decide, by decide, fun _ h => nomatch h⟩

theorem witness_store_invariants_hold :
    waiting.referencesReady ∧ waiting.pagesOpen ∧ waiting.runsOk ∧ waiting.banksWork := by
  have e : ∀ b, waiting.bank b = Bank.reset := by decide
  have k : ∀ t, waiting.track t = Track.reset := by decide +kernel
  have c : ∀ i, waiting.clip i = ClipRecord.empty := fun _ => rfl
  refine ⟨fun t => ?_, fun b => ?_, ⟨fun i => ?_, fun b op n h => ?_⟩, up_banksWork⟩
  · rw [k t]
    simp [Track.reset]
  · rw [e b]
    simp [Bank.reset]
  · rw [c i]
    decide
  · rw [e b] at h
    cases h

theorem witness_QueuesFollowTheirPrograms : waiting.programsFollowed := by
  have k : ∀ t, waiting.track t = Track.reset := by decide +kernel
  intro t
  rw [k t]
  refine ⟨⟨[], [], ?_⟩, ?_⟩ <;> simp [Track.reset, Walk.stopped, copiesLead, Track.walkFollows]

end Sys2Proof.Tests
end

