-- ==== Sys2Proof/Proofs/CuePrograms.lean ====
section
/-! PROOFS. Reading cue memory and the cue flags over the link (chapter 01): O26 and O27. First the payload fields,
then one equation for each handler, then the statements. -/

namespace Sys2Proof.Machine

/-! ### Two-byte fields (section 11) -/

/-- A two-byte field is its bytes side by side, the later byte being the high one. -/
theorem word16_eq_toNat_append (p : List Byte) (i : Nat) :
    word16 p i = (p.getD (i + 1) 0 ++ p.getD i 0).toNat := by
  have hlow : (p.getD i 0).toNat < 2 ^ 8 := (p.getD i 0).isLt
  rw [BitVec.toNat_append, ← Nat.shiftLeft_add_eq_or_of_lt hlow, Nat.shiftLeft_eq]
  unfold word16 byteAt
  omega

/-- A two-byte field taken as a word of 16 bits. -/
theorem ofNat_word16 (p : List Byte) (i : Nat) : BitVec.ofNat 16 (word16 p i) = p.getD (i + 1) 0 ++ p.getD i 0 := by
  rw [word16_eq_toNat_append, BitVec.ofNat_toNat, BitVec.setWidth_eq]

/-- A 16-bit value goes out low byte first. -/
theorem le16_toNat (v : BitVec 16) : le16 v.toNat = [v.extractLsb' 0 8, v.extractLsb' 8 8] := by
  have hhigh : BitVec.ofNat 8 (v.toNat / 256) = v.extractLsb' 8 8 := by
    rw [BitVec.extractLsb', Nat.shiftRight_eq_div_pow]
  have hlow : BitVec.ofNat 8 v.toNat = v.extractLsb' 0 8 := by
    rw [BitVec.extractLsb', Nat.shiftRight_zero]
  rw [le16, hlow, hhigh]

/-! ### The entries CUE GET answers with (R24) -/

/-- The entries from an index on are those at the index plus 0, 1, 2 and so on, the sum wrapping from 4095 to 0. -/
theorem State.entryBytes_eq_flatMap (s : State) (i : CueIndex) (n : Nat) :
    s.entryBytes i n = (List.range n).flatMap fun k => (s.cueEntry (i + BitVec.ofNat 12 k)).bytes := by
  induction n generalizing i with
  | zero => rfl
  | succ n ih =>
    have hnext (k : Nat) : i + 1 + BitVec.ofNat 12 k = i + BitVec.ofNat 12 (k + 1) := by
      rw [BitVec.add_assoc, BitVec.add_comm 1, BitVec.ofNat_add]
      rfl
    have hfirst : i + BitVec.ofNat 12 0 = i := BitVec.add_zero i
    rw [State.entryBytes, ih, List.range_succ_eq_map, List.flatMap_cons, List.flatMap_map]
    simp only [hnext, hfirst]

/-- Meeting a request leaves the bytes of cue memory as they stand. -/
@[simp] theorem State.met_entryBytes (s : State) (r : Request) (i : CueIndex) (n : Nat) :
    (s.met r).entryBytes i n = s.entryBytes i n := by
  simp [State.entryBytes_eq_flatMap]

theorem handleCueGet_of_length_ne {p : List Byte} (s : State) (h : p.length ≠ 3) :
    handleCueGet p s = .error .length := by
  simp [handleCueGet, h]

/-- CUE GET on a payload of its size: the two ranges, and the entries where both hold. -/
theorem handleCueGet_eq (s : State) (i0 i1 n : Byte) :
    handleCueGet [i0, i1, n] s =
      if (i1 ++ i0).toNat < 4096 ∧ 1 ≤ n.toNat ∧ n.toNat ≤ 16 then
        .done (s.entryBytes ((i1 ++ i0).setWidth 12) n.toNat) s
      else .error .range := by
  have hindex : word16 [i0, i1, n] 0 = (i1 ++ i0).toNat := word16_eq_toNat_append _ 0
  have hcount : byteAt [i0, i1, n] 2 = n.toNat := rfl
  have hsize : ¬ [i0, i1, n].length ≠ 3 := by simp
  simp only [handleCueGet, hindex, hcount, if_neg hsize, readIndex]
  by_cases hn : n.toNat < 1 ∨ 16 < n.toNat
  · rw [if_pos hn, if_neg (by omega)]
  · rw [if_neg hn]
    by_cases hi : (i1 ++ i0).toNat < 4096
    · rw [if_pos hi, if_pos (by omega)]
      rfl
    · rw [if_neg hi, if_neg (by omega)]

/-! ### Writing and reading the flags (R15, R16) -/

/-- With no flag in both masks, each flag is set by the set mask, cleared by the clear mask, or stays. -/
theorem writeFlags_getLsbD {flags set clear : BitVec 16} (h : set &&& clear = 0#16) {f : Nat} (hf : f < 16) :
    (writeFlags flags set clear).getLsbD f =
      if set.getLsbD f then true else if clear.getLsbD f then false else flags.getLsbD f := by
  have hboth : (set.getLsbD f && clear.getLsbD f) = false := by
    rw [← BitVec.getLsbD_and, h, BitVec.getLsbD_zero]
  simp only [writeFlags, BitVec.getLsbD_and, BitVec.getLsbD_or, BitVec.getLsbD_not, hf, decide_true, Bool.true_and]
  cases hset : set.getLsbD f with
  | false => cases clear.getLsbD f <;> simp
  | true =>
    have hclear : clear.getLsbD f = false := by simpa [hset] using hboth
    simp [hclear]

/-- FLAG WRITE on a payload of its size: the masks must share no flag. -/
theorem handleFlagWrite_eq (s : State) (s0 s1 c0 c1 : Byte) :
    handleFlagWrite [s0, s1, c0, c1] s =
      if (s1 ++ s0) &&& (c1 ++ c0) ≠ 0#16 then .error .range
      else .done (le16 (writeFlags s.flags (s1 ++ s0) (c1 ++ c0)).toNat)
        { s with flags := writeFlags s.flags (s1 ++ s0) (c1 ++ c0) } := by
  have hset : BitVec.ofNat 16 (word16 [s0, s1, c0, c1] 0) = s1 ++ s0 := ofNat_word16 _ 0
  have hclear : BitVec.ofNat 16 (word16 [s0, s1, c0, c1] 2) = c1 ++ c0 := ofNat_word16 _ 2
  have hsize : ¬ [s0, s1, c0, c1].length ≠ 4 := by simp
  simp only [handleFlagWrite, hset, hclear, if_neg hsize]
  rfl

theorem handleFlagRead_nil (s : State) : handleFlagRead [] s = .done (le16 s.flags.toNat) s := rfl

/-- New flags beside the link: what the state is without its link takes them too. -/
theorem State.sansLink_withFlags {s t : State} (h : s.sansLink = t.sansLink) (flags : BitVec 16) :
    { s with flags := flags }.sansLink = { t with flags := flags }.sansLink :=
  congrArg (fun u : State => { u with flags := flags }) h

end Sys2Proof.Machine

namespace Sys2Proof.Proofs.CuePrograms
open Sys2Proof Sys2Proof.Machine

theorem exec_cueGet (tag : Byte) (p : List Byte) (s : State) :
    exec (.cueGet tag p) s = .next (s.event (serve handleCueGet { tag := tag, code := 0x31, payload := p })) := rfl

theorem exec_flagWrite (tag : Byte) (p : List Byte) (s : State) :
    exec (.flagWrite tag p) s = .next (s.event (serve handleFlagWrite { tag := tag, code := 0x32, payload := p })) :=
  rfl

theorem exec_flagRead (tag : Byte) (p : List Byte) (s : State) :
    exec (.flagRead tag p) s = .next (s.event (serve handleFlagRead { tag := tag, code := 0x33, payload := p })) := rfl

/-- Settles O26: the handler's equation in the state the request is met in, whose cue memory is that of `s`. -/
theorem cueGetReturnsEntries : Obligations.CueGetReturnsEntries := by
  unfold Obligations.CueGetReturnsEntries
  refine ⟨fun s tag p h hp => ?_, fun s tag i0 i1 n h => ?_⟩
  · exact refuses_of (exec_cueGet tag p s) h (handleCueGet_of_length_ne _ hp)
  · have hreply := handleCueGet_eq (s.met { tag := tag, code := 0x31, payload := [i0, i1, n] }) i0 i1 n
    split
    next hrange =>
      rw [if_pos hrange, State.met_entryBytes, State.entryBytes_eq_flatMap] at hreply
      exact completes_of (exec_cueGet ..) h hreply rfl (s.met_sansLink _)
    next hrange =>
      rw [if_neg hrange] at hreply
      exact refuses_of (exec_cueGet ..) h hreply

/-- Settles O27: FLAG WRITE changes the flags by `writeFlags`, which the disjoint masks make a choice flag by flag. -/
theorem flagRequests : Obligations.FlagRequests := by
  unfold Obligations.FlagRequests
  refine ⟨fun s tag s0 s1 c0 c1 h => ?_, fun s tag h => ?_⟩
  · have hreply :=
      handleFlagWrite_eq (s.met { tag := tag, code := 0x32, payload := [s0, s1, c0, c1] }) s0 s1 c0 c1
    split
    next hboth =>
      rw [if_pos hboth] at hreply
      exact refuses_of (exec_flagWrite ..) h hreply
    next hboth =>
      rw [if_neg hboth, State.met_flags, le16_toNat] at hreply
      exact ⟨_, fun f hf => writeFlags_getLsbD (not_not.mp hboth) hf,
        completes_of (exec_flagWrite ..) h hreply rfl (State.sansLink_withFlags (s.met_sansLink _) _)⟩
  · have hreply := handleFlagRead_nil (s.met { tag := tag, code := 0x33, payload := [] })
    rw [State.met_flags, le16_toNat] at hreply
    exact completes_of (exec_flagRead ..) h hreply rfl (s.met_sansLink _)

end Sys2Proof.Proofs.CuePrograms
end

section
/-! PROOFS. PORT SET over the link (chapter 05, R109): O20. First the payload fields, then one equation for the reader
of the payload and one for the handler, then the statement. -/

namespace Sys2Proof.Machine

/-! ### Fields of one and two bytes (section 11) -/

/-- A signed two-byte field is the two's complement of its bytes side by side, the later byte being the high one. -/
theorem signed16_eq_toInt_append (p : List Byte) (i : Nat) :
    signed16 p i = (p.getD (i + 1) 0 ++ p.getD i 0).toInt := by
  rw [signed16, word16_eq_toNat_append, BitVec.toInt_eq_toNat_cond]
  unfold signed
  split <;> split <;> omega

/-- A byte is 0, 1 or a number above. -/
theorem byte_cases (b : Byte) : b = 0 ∨ b = 1 ∨ b = 2 ∨ 3 ≤ b.toNat := by
  bv_omega

theorem readBool_toNat (b : Byte) : readBool b.toNat = if b.toNat < 2 then some (decide (b = 1)) else none := by
  obtain rfl | rfl | rfl | habove := byte_cases b
  · rfl
  · rfl
  · rfl
  · rw [if_neg (by omega), readBool.eq_3] <;> omega

theorem readPortState_toNat (b : Byte) :
    readPortState b.toNat =
      if b.toNat < 3 then some (if b = 0 then .off else if b = 1 then .muted else .live) else none := by
  obtain rfl | rfl | rfl | habove := byte_cases b
  · rfl
  · rfl
  · rfl
  · rw [if_neg (by omega), readPortState.eq_4] <;> omega

theorem readGuard_toNat (b : Byte) :
    readGuard b.toNat =
      if b.toNat < 3 then some (if b = 0 then .off else if b = 1 then .count else .backoff) else none := by
  obtain rfl | rfl | rfl | habove := byte_cases b
  · rfl
  · rfl
  · rfl
  · rw [if_neg (by omega), readGuard.eq_4] <;> omega

/-! ### The payload of PORT SET (R109) -/

/-- The bytes of a PORT SET meet the ranges of R109. -/
def PortSetInRange (p st f0 f1 x0 x1 g l0 l1 r : Byte) : Prop :=
  p.toNat < 4 ∧ st.toNat < 3 ∧ -120 ≤ (f1 ++ f0).toInt ∧ (f1 ++ f0).toInt ≤ 40 ∧ (x1 ++ x0).toNat ≤ 240 ∧
    g.toNat < 3 ∧ (l1 ++ l0).toNat ≤ 4096 ∧ r.toNat < 2

/-- The values the bytes of a PORT SET carry. -/
def PortSet.ofBytes (st f0 f1 x0 x1 g l0 l1 r : Byte) : PortSet :=
  { state := if st = 0 then .off else if st = 1 then .muted else .live
    fs := (f1 ++ f0).toInt
    x := (x1 ++ x0).toNat
    guard := if g = 0 then .off else if g = 1 then .count else .backoff
    limit := (l1 ++ l0).toNat
    restore := r = 1 }

/-- The reader as its fields' tests in their order: the three named values and the port, then the numeric ranges. -/
theorem readPortSet_eq_bind (p st f0 f1 x0 x1 g l0 l1 r : Byte) :
    readPortSet [p, st, f0, f1, x0, x1, g, l0, l1, r] =
      (readFour p.toNat).bind fun q => (readPortState st.toNat).bind fun state =>
        (readGuard g.toNat).bind fun guard => (readBool r.toNat).bind fun restore =>
          if inRange (-120) 40 (f1 ++ f0).toInt ∧ (x1 ++ x0).toNat ≤ 240 ∧ (l1 ++ l0).toNat ≤ 4096 then
            some (q, { state := state, fs := (f1 ++ f0).toInt, x := (x1 ++ x0).toNat, guard := guard
                       limit := (l1 ++ l0).toNat, restore := restore })
          else none := by
  have hfs : signed16 [p, st, f0, f1, x0, x1, g, l0, l1, r] 2 = (f1 ++ f0).toInt := signed16_eq_toInt_append _ 2
  have hx : word16 [p, st, f0, f1, x0, x1, g, l0, l1, r] 4 = (x1 ++ x0).toNat := word16_eq_toNat_append _ 4
  have hlimit : word16 [p, st, f0, f1, x0, x1, g, l0, l1, r] 7 = (l1 ++ l0).toNat := word16_eq_toNat_append _ 7
  rw [readPortSet, hfs, hx, hlimit]
  rfl

/-- The payload of a PORT SET is read where all its fields are in range, and then as the values it carries. -/
theorem readPortSet_of_inRange {p st f0 f1 x0 x1 g l0 l1 r : Byte} (h : PortSetInRange p st f0 f1 x0 x1 g l0 l1 r) :
    readPortSet [p, st, f0, f1, x0, x1, g, l0, l1, r] =
      some (⟨p.toNat, h.1⟩, PortSet.ofBytes st f0 f1 x0 x1 g l0 l1 r) := by
  obtain ⟨hport, hstate, hlow, hhigh, hx, hguard, hlimit, hrestore⟩ := h
  have hfs : inRange (-120) 40 (f1 ++ f0).toInt = true := by simp [inRange, hlow, hhigh]
  rw [readPortSet_eq_bind, readFour, dif_pos hport, readPortState_toNat, if_pos hstate, readGuard_toNat,
    if_pos hguard, readBool_toNat, if_pos hrestore]
  exact if_pos ⟨hfs, hx, hlimit⟩

/-- A payload that is read has all its fields in range. -/
theorem inRange_of_readPortSet {p st f0 f1 x0 x1 g l0 l1 r : Byte} {v : PortId × PortSet}
    (h : readPortSet [p, st, f0, f1, x0, x1, g, l0, l1, r] = some v) : PortSetInRange p st f0 f1 x0 x1 g l0 l1 r := by
  rw [readPortSet_eq_bind, readFour, readPortState_toNat, readGuard_toNat, readBool_toNat] at h
  simp only [Option.bind_eq_some_iff, Option.dite_none_right_eq_some, Option.ite_none_right_eq_some] at h
  obtain ⟨_, ⟨hport, _⟩, _, ⟨hstate, _⟩, _, ⟨hguard, _⟩, _, ⟨hrestore, _⟩, ⟨hfs, hx, hlimit⟩, _⟩ := h
  simp only [inRange, Bool.and_eq_true, decide_eq_true_eq] at hfs
  exact ⟨hport, hstate, hfs.1, hfs.2, hx, hguard, hlimit, hrestore⟩

/-! ### The handler -/

theorem handlePortSet_of_length_ne {p : List Byte} (s : State) (h : p.length ≠ 10) :
    handlePortSet p s = .error .length := by
  rw [handlePortSet, if_pos h]

theorem handlePortSet_of_inRange {p st f0 f1 x0 x1 g l0 l1 r : Byte} (s : State)
    (h : PortSetInRange p st f0 f1 x0 x1 g l0 l1 r) :
    handlePortSet [p, st, f0, f1, x0, x1, g, l0, l1, r] s =
      .done [] ((s.modPort ⟨p.toNat, h.1⟩ fun x => x.withPending (PortSet.ofBytes st f0 f1 x0 x1 g l0 l1 r)).setNotice
        (portSource ⟨p.toNat, h.1⟩) none) := by
  rw [handlePortSet, if_neg (by simp), readPortSet_of_inRange h]

theorem handlePortSet_of_not_inRange {p st f0 f1 x0 x1 g l0 l1 r : Byte} (s : State)
    (h : ¬ PortSetInRange p st f0 f1 x0 x1 g l0 l1 r) :
    handlePortSet [p, st, f0, f1, x0, x1, g, l0, l1, r] s = .error .range := by
  have hnone : readPortSet [p, st, f0, f1, x0, x1, g, l0, l1, r] = none :=
    Option.eq_none_iff_forall_ne_some.mpr fun _ hread => h (inRange_of_readPortSet hread)
  rw [handlePortSet, if_neg (by simp), hnone]

/-! ### Port and notice updates beside the link -/

theorem State.setPort_sansLink (s : State) (p : PortId) (x : Port) :
    (s.setPort p x).sansLink = s.sansLink.setPort p x := rfl

theorem State.setNotice_sansLink (s : State) (n : SourceId) (r : Option Notice) :
    (s.setNotice n r).sansLink = s.sansLink.setNotice n r := rfl

/-- Meeting a request does not show in what PORT SET makes of the ports and the notice table. -/
theorem State.met_portSet_sansLink (s : State) (r : Request) (p : PortId) (f : Port → Port) (n : SourceId) :
    (((s.met r).modPort p f).setNotice n none).sansLink = ((s.modPort p f).setNotice n none).sansLink := by
  simp only [State.modPort, State.met_port, State.setNotice_sansLink, State.setPort_sansLink, State.met_sansLink]

end Sys2Proof.Machine

namespace Sys2Proof.Proofs.OutputPorts
open Sys2Proof Sys2Proof.Machine

theorem exec_portSet (tag : Byte) (p : List Byte) (s : State) :
    exec (.portSet tag p) s = .next (s.event (serve handlePortSet { tag := tag, code := 0x20, payload := p })) := rfl

/-- Settles O20: the bytes are read exactly where they are in range, and `Port.withPending` keeps an old restore. -/
theorem portSetPends : Obligations.PortSetPends := by
  unfold Obligations.PortSetPends
  refine ⟨fun s tag p h hp => refuses_of (exec_portSet tag p s) h (handlePortSet_of_length_ne _ hp), ?_⟩
  intro s tag p st f0 f1 x0 x1 g l0 l1 r payload h
  split
  next hin =>
    have hreply := handlePortSet_of_inRange (s.met { tag := tag, code := 0x20, payload := payload }) hin
    refine completes_of (exec_portSet tag payload s) h hreply rfl ((s.met_portSet_sansLink _ _ _ _).trans ?_)
    simp only [State.modPort, Port.withPending]
    cases (s.port ⟨p.toNat, hin.1⟩).pending <;> rfl
  next hout => exact refuses_of (exec_portSet tag payload s) h (handlePortSet_of_not_inRange _ hout)

end Sys2Proof.Proofs.OutputPorts
end

section
/-! PROOFS. DEVICE INFO over the link (section 10.4, R195): O12. First the bytes of the capacity table and the handler's
equation, then the statement. -/

namespace Sys2Proof.Machine

/-- The bytes of DEVICE INFO (section 11.3): the family name; the part code, low byte first, and the revision; then the
capacities of R195's table, of which cue entries, clips, sectors per bank and largest payload take two bytes each. -/
theorem deviceInfoBytes_eq :
    deviceInfoBytes =
      [0x4B, 0x6F, 0x6C, 0x76, 0x61, 0x72, 0x61, 0x20] ++ [0x04, 0x48, 1] ++
        [48, 4, 4, 0x00, 0x10, 16, 4, 8, 4, 0x00, 0x04, 4, 0x00, 0x20, 2, 64, 16, 4, 4, 16, 4, 8, 0x10, 0x40, 59, 8] :=
  rfl

/-- DEVICE INFO without a payload answers its bytes and leaves the state as it is. -/
theorem handleDeviceInfo_nil (s : State) : handleDeviceInfo [] s = .done deviceInfoBytes s := by
  rw [handleDeviceInfo, if_neg (by simp)]

end Sys2Proof.Machine

namespace Sys2Proof.Proofs.DeviceInfo
open Sys2Proof Sys2Proof.Machine

theorem exec_deviceInfo (tag : Byte) (p : List Byte) (s : State) :
    exec (.deviceInfo tag p) s = .next (s.event (serve handleDeviceInfo { tag := tag, code := 0x01, payload := p })) :=
  rfl

/-- Settles O12: the handler answers the state in which the request is met unchanged, which differs from `s` in the link
alone. -/
theorem deviceInfoIsTheCapacityTable : Obligations.DeviceInfoIsTheCapacityTable := by
  unfold Obligations.DeviceInfoIsTheCapacityTable
  intro s tag h
  have hreply := handleDeviceInfo_nil (s.met { tag := tag, code := 0x01, payload := [] })
  rw [deviceInfoBytes_eq] at hreply
  exact completes_of (exec_deviceInfo tag [] s) h hreply rfl (s.met_sansLink _)

end Sys2Proof.Proofs.DeviceInfo
end

section
/-! PROOFS. What each request handler can answer with DONE (R187): one lemma for each handler, saying which state it then
leaves, so that no proof about a step unfolds a handler. -/

namespace Sys2Proof.Machine

theorem handleUnknown_ne_done (p : List Byte) (s : State) (a : List Byte × State) : handleUnknown p s ≠ .ok a := by
  simp [handleUnknown]

variable {p a : List Byte} {s u : State}

theorem handleDeviceInfo_done (h : handleDeviceInfo p s = .ok (a, u)) : u = s := by
  grind [handleDeviceInfo, Reply.done]

theorem handleDeviceReset_done (h : handleDeviceReset p s = .ok (a, u)) : u = warmReset s := by
  grind [handleDeviceReset, Reply.done]

theorem handleNoticeSet_done (h : handleNoticeSet p s = .ok (a, u)) :
    ∃ levels enable, u = { s with notices := { s.notices with levels := levels, enable := enable } } := by
  grind [handleNoticeSet, Reply.done]

theorem handleNoticeTake_done (h : handleNoticeTake p s = .ok (a, u)) :
    ∃ taken : List SourceId, u = forEach taken (fun s n => s.setNotice n none) s := by
  grind [handleNoticeTake, Reply.done]

theorem handleClockSet_done (h : handleClockSet p s = .ok (a, u)) : ∃ x, u = { s with timeline := x } := by
  grind [handleClockSet, Reply.done]

theorem handleClockStatus_done (h : handleClockStatus p s = .ok (a, u)) : u = s := by
  grind [handleClockStatus, Reply.done]

theorem handleSyncSet_done (h : handleSyncSet p s = .ok (a, u)) : ∃ x, u = { s with timeline := x } := by
  grind [handleSyncSet, Reply.done]

theorem handlePortSet_done (h : handlePortSet p s = .ok (a, u)) :
    ∃ q v, u = (s.modPort q fun x => x.withPending v).setNotice (portSource q) none := by
  simp only [handlePortSet, Reply.done] at h
  split at h
  · cases h
  · split at h
    · cases h
    · cases h
      exact ⟨_, _, rfl⟩

theorem handlePortStatus_done (h : handlePortStatus p s = .ok (a, u)) : u = s := by
  grind [handlePortStatus, Reply.done]

theorem handleCuePut_done (h : handleCuePut p s = .ok (a, u)) :
    ∃ i n q es, readEntries n q = some es ∧ u = putEntries i es s := by
  grind [handleCuePut, Reply.done]

theorem handleCueGet_done (h : handleCueGet p s = .ok (a, u)) : u = s := by
  grind [handleCueGet, Reply.done]

theorem handleFlagWrite_done (h : handleFlagWrite p s = .ok (a, u)) : ∃ flags, u = { s with flags := flags } := by
  grind [handleFlagWrite, Reply.done]

theorem handleFlagRead_done (h : handleFlagRead p s = .ok (a, u)) : u = s := by
  grind [handleFlagRead, Reply.done]

theorem handleTrackArm_done (h : handleTrackArm p s = .ok (a, u)) :
    ∃ t home, s.store.scanning = false ∧ armRefusal (s.track t).state = none ∧ u = armTrack t home s := by
  grind [handleTrackArm, Reply.done]

theorem handleTrackGo_done (h : handleTrackGo p s = .ok (a, u)) :
    ∃ t c, goRefusal (s.track t).state = none ∧ u = goTrack t c s := by
  grind [handleTrackGo, Reply.done]

theorem handleTrackStop_done (h : handleTrackStop p s = .ok (a, u)) :
    ∃ t m tr, (s.track t).stopRequest m = .ok tr ∧ u = s.setTrack t tr := by
  grind [handleTrackStop, Reply.done]

theorem handleTrackBreak_done (h : handleTrackBreak p s = .ok (a, u)) :
    ∃ t, (∃ c r, (s.track t).state = .playing ∧ (s.track t).queue = c :: r ∧ (s.track t).playRemains c = true ∧
        u = breakPlay t s) ∨
      u = s ∨ ((s.track t).state = .holding ∧ u = s.setTrack t { s.track t with breakPending := true }) := by
  simp only [handleTrackBreak, Reply.done] at h
  split at h
  · cases h
  · split at h
    · cases h
    next t _ =>
      refine ⟨t, ?_⟩
      split at h
      next c r hstate hqueue =>
        split at h
        next hremains =>
          cases h
          exact .inl ⟨c, r, hstate, hqueue, hremains, rfl⟩
        next => cases h
      next hstate =>
        cases h
        split
        next => exact .inr (.inl rfl)
        next => exact .inr (.inr ⟨hstate, rfl⟩)
      next => cases h

theorem handleTrackTune_done (h : handleTrackTune p s = .ok (a, u)) :
    ∃ t v, readTune p = some v ∧ u = s.modTrack t fun tr => tr.tune v := by
  simp only [handleTrackTune, Reply.done] at h
  split at h
  · cases h
  · split at h
    next t v _ hread =>
      cases h
      exact ⟨t, v, hread, rfl⟩
    next => cases h

theorem handleTrackFeed_done (h : handleTrackFeed p s = .ok (a, u)) :
    ∃ t now fs, readFeedList p = some (now, fs) ∧ u = s.modTrack t fun tr => tr.feed now fs := by
  simp only [handleTrackFeed, Reply.done] at h
  split at h
  · cases h
  · split at h
    next t now fs _ hread =>
      cases h
      exact ⟨t, now, fs, hread, rfl⟩
    next => cases h

theorem handleTrackStatus_done (h : handleTrackStatus p s = .ok (a, u)) : u = s := by
  grind [handleTrackStatus, Reply.done]

theorem handleTrackClear_done (h : handleTrackClear p s = .ok (a, u)) : ∃ t, u = clearTrack t s := by
  grind [handleTrackClear, Reply.done]

theorem handleClipOpen_done (h : handleClipOpen p s = .ok (a, u)) :
    ∃ v first, readOpen p = some v ∧ s.store.scanning = false ∧ (s.clip v.id).state = .empty ∧
      s.freeRun v.bank v.sectors = some first ∧ u = openClip v first s := by
  grind [handleClipOpen, Reply.done]

theorem handleClipData_done (h : handleClipData p s = .ok (a, u)) :
    ∃ c data, s.store.scanning = false ∧ (s.clip c).state = .opened ∧
      (s.bank (s.clip c).bank).programQueue.length < Config.programQueue ∧ u = acceptPage c data s := by
  grind [handleClipData, Reply.done]

theorem handleClipClose_done (h : handleClipClose p s = .ok (a, u)) :
    ∃ c, s.store.scanning = false ∧ (s.clip c).state = .opened ∧ s.pagesInQueue c = 0 ∧
      u = s.setClip c { s.clip c with state := .ready } := by
  grind [handleClipClose, Reply.done]

theorem handleClipDrop_done (h : handleClipDrop p s = .ok (a, u)) :
    ∃ c, s.store.scanning = false ∧ s.useCount c = 0 ∧ s.pagesInQueue c = 0 ∧ u = dropClip c s := by
  grind [handleClipDrop, Reply.done]

theorem handleClipInfo_done (h : handleClipInfo p s = .ok (a, u)) : u = s := by
  grind [handleClipInfo, Reply.done]

theorem handleStoreStatus_done (h : handleStoreStatus p s = .ok (a, u)) : u = s := by
  grind [handleStoreStatus, Reply.done]

theorem handleStoreSweep_done (h : handleStoreSweep p s = .ok (a, u)) :
    ∃ b, s.store.scanning = false ∧ u = sweepBank b s := by
  grind [handleStoreSweep, Reply.done]

theorem handleStoreHalt_done (h : handleStoreHalt p s = .ok (a, u)) :
    ∃ b, s.store.scanning = false ∧ u = haltBank b s := by
  grind [handleStoreHalt, Reply.done]

theorem handleStorePolicy_done (h : handleStorePolicy p s = .ok (a, u)) :
    ∃ b policy auto, s.store.scanning = false ∧ u = setPolicy b policy auto s := by
  grind [handleStorePolicy, Reply.done]

theorem handleLineSet_done (h : handleLineSet p s = .ok (a, u)) :
    (∃ n x, u = s.setTrigger n x) ∨ ∃ m x, u = s.setMarker m x := by
  grind [handleLineSet, Reply.done]

theorem handleCaptureRead_done (h : handleCaptureRead p s = .ok (a, u)) :
    ∃ n, u = { s with lines := { s.lines with captures := s.lines.captures.drop n, overrun := false } } := by
  grind [handleCaptureRead, Reply.done]

end Sys2Proof.Machine
end

section
/-! PROOFS. What a step does, said once for all commands (R187, R188): a request meets its handler, an event takes its
effect, and the two ends of a hard reset stand apart. -/

namespace Sys2Proof.Machine

/-! ### What each command does -/

/-- The handler that answers the request a command stands for. -/
def handlerOf : Instr → List Byte → State → Reply
  | .deviceInfo _ _ => handleDeviceInfo
  | .deviceReset _ _ => handleDeviceReset
  | .noticeSet _ _ => handleNoticeSet
  | .noticeTake _ _ => handleNoticeTake
  | .clockSet _ _ => handleClockSet
  | .clockStatus _ _ => handleClockStatus
  | .syncSet _ _ => handleSyncSet
  | .portSet _ _ => handlePortSet
  | .portStatus _ _ => handlePortStatus
  | .cuePut _ _ => handleCuePut
  | .cueGet _ _ => handleCueGet
  | .flagWrite _ _ => handleFlagWrite
  | .flagRead _ _ => handleFlagRead
  | .trackArm _ _ => handleTrackArm
  | .trackGo _ _ => handleTrackGo
  | .trackStop _ _ => handleTrackStop
  | .trackBreak _ _ => handleTrackBreak
  | .trackTune _ _ => handleTrackTune
  | .trackFeed _ _ => handleTrackFeed
  | .trackStatus _ _ => handleTrackStatus
  | .trackClear _ _ => handleTrackClear
  | .clipOpen _ _ => handleClipOpen
  | .clipData _ _ => handleClipData
  | .clipClose _ _ => handleClipClose
  | .clipDrop _ _ => handleClipDrop
  | .clipInfo _ _ => handleClipInfo
  | .storeStatus _ _ => handleStoreStatus
  | .storeSweep _ _ => handleStoreSweep
  | .storeHalt _ _ => handleStoreHalt
  | .storePolicy _ _ => handleStorePolicy
  | .lineSet _ _ => handleLineSet
  | .captureRead _ _ => handleCaptureRead
  | _ => handleUnknown

/-- What the event a command stands for does before the arbiter's choice. -/
def effectOf : Instr → State → State
  | .linkByte b => receive b
  | .gapExpiry => gapExpires
  | .frameCompletion => completeFrame
  | .tickStart => Machine.tickStart
  | .boundary t => boundaryPart t
  | .flagRelease => flagReleasePart
  | .breakRelease t => breakReleasePart t
  | .trackStart t => trackStartPart t
  | .stopCompletion t => stopPart t
  | .stopFadeEnd t => fadeEndPart t
  | .transfer t => transferPart t
  | .gatePhaseChange t => gatePart t
  | .portSetApply p => portSetPart p
  | .clockSetApply => clockSetPart
  | .markerAdoption => adoptionPart
  | .markerLossExpiry => markerLossPart
  | .contentionExpiry => contentionPart
  | .holdoffExpiry n => holdoffPart n
  | .pulseEnd m => pulseEndPart m
  | .markerSend => sendMarker
  | .markerHeard id count checkGood => fun s => if checkGood then hearMarker { id := id, count := count } s else s
  | .triggerEdge levels offset => Machine.triggerEdge levels offset
  | .blockReadCompletion b correct => completeRead b correct
  | .programCompletion b success => completeProgram b success
  | .eraseCompletion b success => completeErase b success
  | .suspendCompletion b => completeSuspend b
  | .scanCompletion => completeScan
  | _ => id

/-- A command is neither a request nor an end of a hard reset. -/
def IsEvent (c : Instr) : Prop := requestOf c = none ∧ c ≠ .hardReset ∧ ∀ levels, c ≠ .resetRelease levels

theorem exec_request {c : Instr} {r : Request} (hr : requestOf c = some r) (hw : WellFormed c = true) (s : State) :
    exec c s = .next (s.event (serve (handlerOf c) r)) := by
  cases c <;> simp only [requestOf, reduceCtorEq, Option.some.injEq] at hr <;> subst hr
  case unknownRequest tag code payload =>
    simp only [WellFormed, Bool.and_eq_true, Bool.not_eq_true'] at hw
    exact if_neg (by simp only [hw.1, Bool.false_eq_true, not_false_eq_true])
  all_goals rfl

/-- A request either meets its handler or, with a code of the catalogue under UNKNOWN_REQUEST, is no event. -/
theorem exec_request_cases {c : Instr} {r : Request} (hr : requestOf c = some r) (s : State) :
    exec c s = .next s ∨ exec c s = .next (s.event (serve (handlerOf c) r)) := by
  cases c <;> simp only [requestOf, reduceCtorEq, Option.some.injEq] at hr <;> subst hr
  case unknownRequest tag code payload =>
    by_cases hc : catalogueCodes.contains code = true
    · exact .inl (if_pos hc)
    · exact .inr (if_neg hc)
  all_goals exact .inr rfl

theorem exec_event {c : Instr} (hc : IsEvent c) (s : State) : exec c s = .next (s.event (effectOf c)) := by
  obtain ⟨hrequest, hreset, hrelease⟩ := hc
  cases c <;> simp only [requestOf, reduceCtorEq] at hrequest
  case hardReset => exact absurd rfl hreset
  case resetRelease levels => exact absurd rfl (hrelease levels)
  all_goals rfl

/-- Every command is a request, an event or an end of a hard reset. -/
theorem command_kinds (c : Instr) :
    (∃ r, requestOf c = some r) ∨ IsEvent c ∨ c = .hardReset ∨ ∃ levels, c = .resetRelease levels := by
  by_cases hreset : c = .hardReset
  · exact .inr (.inr (.inl hreset))
  · by_cases hrelease : ∃ levels, c = .resetRelease levels
    · exact .inr (.inr (.inr hrelease))
    · cases hrequest : requestOf c with
      | some r => exact .inl ⟨r, rfl⟩
      | none => exact .inr (.inl ⟨hrequest, hreset, fun levels h => hrelease ⟨levels, h⟩⟩)

end Sys2Proof.Machine
end

section
/-! PROOFS. What every step keeps, unit by unit: a property that each unit's operations keep is kept by every command.
A property of cue memory, tracks, store and banks alone need only be followed through the operations that touch those. -/

namespace Sys2Proof.Machine

/-- A property that the operations of the part keep, unit by unit. -/
structure KeptByUnits (P : State → Prop) : Prop where
  serve : ∀ c r s, P s → P (serve (handlerOf c) r s)
  arbitrate : ∀ s, P s → P (arbitrate s)
  receive : ∀ b s, P s → P (receive b s)
  completeFrame : ∀ s, P s → P (completeFrame s)
  timelineTick : ∀ s, P s → P (timelineTick s)
  portTick : ∀ p s, P s → P (portTick s p)
  triggerFall : ∀ n s, P s → P (triggerFall s n)
  markerFall : ∀ m s, P s → P (markerFall s m)
  gapTick : ∀ s, P s → P (gapTick s)
  judgeFlags : ∀ s, P s → P (judgeFlags s)
  trackTick : ∀ t s, P s → P (trackTick t s)
  endTick : ∀ s, P s → P { s with work := TickWork.none }
  sendMarker : ∀ s, P s → P (sendMarker s)
  hearMarker : ∀ m s, P s → P (hearMarker m s)
  triggerEdge : ∀ levels offset s, P s → P (triggerEdge levels offset s)
  completeRead : ∀ b correct s, P s → P (completeRead b correct s)
  completeProgram : ∀ b success s, P s → P (completeProgram b success s)
  completeErase : ∀ b success s, P s → P (completeErase b success s)
  completeSuspend : ∀ b s, P s → P (completeSuspend b s)
  completeScan : ∀ s, P s → P (completeScan s)
  hardReset : ∀ s, P s → P (hardReset s)
  releaseReset : ∀ levels s, P s → P (releaseReset levels s)

namespace KeptByUnits

variable {P : State → Prop}

theorem openTick (h : KeptByUnits P) (s : State) (hs : P s) : P (openTick s) := by
  have hports := forEach_inv allFour _ P (fun s p => h.portTick p s) _ (h.timelineTick s hs)
  have htriggers := forEach_inv allFour _ P (fun s n => h.triggerFall n s) _ hports
  exact h.gapTick _ (forEach_inv allFour _ P (fun s m => h.markerFall m s) _ htriggers)

theorem flagPart (h : KeptByUnits P) (s : State) (hs : P s) : P (flagPart s) := by
  unfold Machine.flagPart
  split
  · exact hs
  · exact forEach_inv _ _ P (fun s t => h.trackTick t s) _ (h.judgeFlags s hs)

theorem takeTrack (h : KeptByUnits P) (t : TrackId) (s : State) (hs : P s) : P (takeTrack t s) := by
  unfold Machine.takeTrack
  split
  · exact h.trackTick t _ (h.flagPart s hs)
  · exact h.trackTick t _ hs

theorem tickStart (h : KeptByUnits P) (s : State) (hs : P s) : P (tickStart s) :=
  h.endTick _ (forEach_inv _ _ P (fun s t => h.trackTick t s) _ (h.flagPart _ (h.openTick s hs)))

theorem takePart {due : Bool} {f : State → State} {s : State} (hs : P s) (hf : P (f s)) : P (takePart due f s) := by
  unfold Machine.takePart
  split
  · exact hf
  · exact hs

theorem effectOf (h : KeptByUnits P) (c : Instr) (s : State) (hs : P s) : P (effectOf c s) := by
  have htrack (t : TrackId) : P (Machine.takeTrack t (Machine.openTick s)) := h.takeTrack t _ (h.openTick s hs)
  cases c <;> dsimp only [Machine.effectOf, id_eq]
  case linkByte b => exact h.receive b s hs
  case gapExpiry =>
    refine takePart hs ?_
    exact h.gapTick _ (h.timelineTick s hs)
  case frameCompletion => exact h.completeFrame s hs
  case tickStart => exact h.tickStart s hs
  case transfer t | gatePhaseChange t =>
    simp only [transferPart, gatePart]
    refine takePart hs ?_
    exact htrack t
  case boundary t | breakRelease t | trackStart t | stopCompletion t | stopFadeEnd t =>
    refine takePart hs ?_
    exact htrack t
  case flagRelease =>
    refine takePart hs ?_
    exact h.flagPart _ (h.openTick s hs)
  case portSetApply p =>
    refine takePart hs ?_
    exact h.portTick p _ (h.timelineTick s hs)
  case clockSetApply | markerAdoption | markerLossExpiry | contentionExpiry =>
    refine takePart hs ?_
    exact h.timelineTick s hs
  case holdoffExpiry n =>
    refine takePart hs ?_
    exact h.triggerFall n _ (h.timelineTick s hs)
  case pulseEnd m =>
    refine takePart hs ?_
    exact h.markerFall m _ (h.timelineTick s hs)
  case markerSend => exact h.sendMarker s hs
  case markerHeard id count checkGood =>
    split
    · exact h.hearMarker _ s hs
    · exact hs
  case triggerEdge levels offset => exact h.triggerEdge levels offset s hs
  case blockReadCompletion b correct => exact h.completeRead b correct s hs
  case programCompletion b success => exact h.completeProgram b success s hs
  case eraseCompletion b success => exact h.completeErase b success s hs
  case suspendCompletion b => exact h.completeSuspend b s hs
  case scanCompletion => exact h.completeScan s hs
  all_goals exact hs

theorem event (h : KeptByUnits P) (s : State) (f : State → State) (hs : P s) (hf : P (f s)) : P (s.event f) := by
  unfold State.event
  split
  · exact hs
  · exact h.arbitrate _ hf

/-- Every command keeps what the units keep. -/
theorem exec (h : KeptByUnits P) {c : Instr} {s t : State} (he : exec c s = .next t) (hs : P s) : P t := by
  obtain ⟨r, hr⟩ | hc | rfl | ⟨levels, rfl⟩ := command_kinds c
  · obtain hsame | hserve := exec_request_cases hr s
    · cases hsame.symm.trans he
      exact hs
    · cases hserve.symm.trans he
      exact h.event s _ hs (h.serve c r s hs)
  · cases (exec_event hc s).symm.trans he
    exact h.event s _ hs (h.effectOf c s hs)
  · cases he
    exact h.hardReset s hs
  · cases he
    exact h.releaseReset levels s hs

/-- Every step keeps what the units keep, where the queue of waiting commands does not matter. -/
theorem step (h : KeptByUnits P) (hq : ∀ s q, P s → P { s with pending := q }) {s t : State}
    (he : step s = .next t) (hs : P s) : P t := by
  unfold Machine.step at he
  split at he
  · cases he
    exact hs
  · exact h.exec he (hq _ _ hs)

end KeptByUnits

/-! ### Properties of cue memory, tracks, store and banks -/

/-- The blocks that programs and their prefetch live in: cue memory, tracks, the scene store and its banks; with them
the commands that wait. -/
def State.core (s : State) : List (Nat × CueEntry) × Vector Track 48 × Store × Vector Bank 4 × List Instr :=
  (s.cue, s.tracks, s.store, s.banks, s.pending)

theorem core_eq_iff {s u : State} :
    s.core = u.core ↔
      s.cue = u.cue ∧ s.tracks = u.tracks ∧ s.store = u.store ∧ s.banks = u.banks ∧ s.pending = u.pending := by
  simp only [State.core, Prod.mk.injEq]

/-- `u` stands as `s` in the core, and the notice records and the backoffs are within their bounds as they were (R108,
R189). -/
structure State.Rests (s u : State) : Prop where
  core : s.core = u.core
  notices : s.noticesOk → u.noticesOk
  ports : s.portsOk → u.portsOk

/-- A property of the core that every operation that touches the core keeps. -/
structure KeptByCore (P : State → Prop) : Prop where
  congr : ∀ {s u : State}, P s → s.Rests u → P u
  trackTick : ∀ t s, P s → P (trackTick t s)
  putEntries : ∀ i n p es s, readEntries n p = some es → P s → P (putEntries i es s)
  armTrack : ∀ t home s, armRefusal (s.track t).state = none → P s → P (armTrack t home s)
  goTrack : ∀ t c s, goRefusal (s.track t).state = none → P s → P (goTrack t c s)
  stopTrack : ∀ t m tr s, (s.track t).stopRequest m = .ok tr → P s → P (s.setTrack t tr)
  breakPlay : ∀ t c r s, (s.track t).queue = c :: r → P s → P (breakPlay t s)
  breakHold : ∀ t s, P s → P (s.setTrack t { s.track t with breakPending := true })
  tuneTrack : ∀ t v p s, readTune p = some v → P s → P (s.modTrack t fun tr => tr.tune v)
  feedTrack : ∀ t now fs p s, readFeedList p = some (now, fs) → P s → P (s.modTrack t fun tr => tr.feed now fs)
  clearTrack : ∀ t s, P s → P (clearTrack t s)
  openClip : ∀ v first p s, readOpen p = some v → s.store.scanning = false → (s.clip v.id).state = .empty →
    s.freeRun v.bank v.sectors = some first → P s → P (openClip v first s)
  acceptPage : ∀ c data s, s.store.scanning = false → (s.clip c).state = .opened →
    (s.bank (s.clip c).bank).programQueue.length < Config.programQueue → P s → P (acceptPage c data s)
  closeClip : ∀ c s, s.store.scanning = false → (s.clip c).state = .opened → s.pagesInQueue c = 0 → P s →
    P (s.setClip c { s.clip c with state := .ready })
  dropClip : ∀ c s, s.store.scanning = false → s.useCount c = 0 → s.pagesInQueue c = 0 → P s → P (dropClip c s)
  sweepBank : ∀ b s, P s → P (sweepBank b s)
  haltBank : ∀ b s, P s → P (haltBank b s)
  setPolicy : ∀ b policy auto s, P s → P (setPolicy b policy auto s)
  warmReset : ∀ s, P s → P (warmReset s)
  meetTrigger : ∀ n s, P s → P (meetTrigger n s)
  completeRead : ∀ b correct s, P s → P (completeRead b correct s)
  completeProgram : ∀ b success s, P s → P (completeProgram b success s)
  completeErase : ∀ b success s, P s → P (completeErase b success s)
  completeSuspend : ∀ b s, P s → P (completeSuspend b s)
  completeScan : ∀ s, P s → P (completeScan s)
  hardReset : ∀ s, P s → P (hardReset s)

@[simp] theorem State.raise_core (s : State) (n : SourceId) (c : Cause) : (s.raise n c).core = s.core := rfl

@[simp] theorem State.raiseIf_core (s : State) (b : Bool) (n : SourceId) (c : Cause) :
    (s.raiseIf b n c).core = s.core := by
  unfold State.raiseIf
  split <;> rfl

/-! ### What leaves the core as it is -/

theorem noticesOk_of {s u : State} (hs : s.noticesOk) (h : ∀ n, u.notice n = s.notice n ∨ u.notice n = none) :
    u.noticesOk := by
  intro n r hr
  obtain hsame | hnone := h n
  · exact hs n r (hsame.symm.trans hr)
  · cases hnone.symm.trans hr

theorem noticesOk_raise {s : State} (hs : s.noticesOk) (n : SourceId) (c : Cause) : (s.raise n c).noticesOk := by
  intro k r hr
  rw [State.raise_notice] at hr
  split at hr
  next =>
    cases hr
    cases hold : s.notice n with
    | none => simp [mergeCause]
    | some old =>
      obtain ⟨hlow, hhigh⟩ := hs n old hold
      dsimp only [mergeCause]
      split <;> omega
  next => exact hs k r hr

theorem portsOk_of {s u : State} (hs : s.portsOk) (h : ∀ p, (u.port p).backoff = (s.port p).backoff) : u.portsOk := by
  intro p
  rw [h p]
  exact hs p

theorem portsOk_setPort {s : State} {p : PortId} {x : Port} (hs : s.portsOk) (hx : x.backoff % 12 = 0 ∧ x.backoff ≤ 96) :
    (s.setPort p x).portsOk := by
  intro q
  rw [State.setPort_port]
  split
  · exact hx
  · exact hs q

namespace State.Rests

theorem refl (s : State) : s.Rests s := ⟨rfl, id, id⟩

theorem trans {s u v : State} (h : s.Rests u) (k : u.Rests v) : s.Rests v :=
  ⟨h.core.trans k.core, fun hs => k.notices (h.notices hs), fun hs => k.ports (h.ports hs)⟩

theorem of_same {s u : State} (hcore : s.core = u.core) (hnotices : u.notices.records = s.notices.records)
    (hports : u.ports = s.ports) : s.Rests u :=
  ⟨hcore, fun hs => noticesOk_of hs fun n => .inl (by rw [State.notice, State.notice, hnotices]),
    fun hs => portsOk_of hs fun p => by rw [State.port, State.port, hports]⟩

theorem raise {s u : State} (h : s.Rests u) (n : SourceId) (c : Cause) : s.Rests (u.raise n c) :=
  ⟨h.core, fun hs => noticesOk_raise (h.notices hs) n c, h.ports⟩

theorem raiseIf {s u : State} (h : s.Rests u) (b : Bool) (n : SourceId) (c : Cause) : s.Rests (u.raiseIf b n c) := by
  unfold State.raiseIf
  split
  · exact h.raise n c
  · exact h

theorem withdraw {s u : State} (h : s.Rests u) (n : SourceId) : s.Rests (u.setNotice n none) := by
  refine ⟨h.core, fun hs => noticesOk_of (h.notices hs) fun k => ?_, h.ports⟩
  rw [State.setNotice_notice]
  split
  · exact .inr rfl
  · exact .inl rfl

theorem setPort {s u : State} (h : s.Rests u) (p : PortId) {x : Port}
    (hx : (u.port p).backoff % 12 = 0 ∧ (u.port p).backoff ≤ 96 → x.backoff % 12 = 0 ∧ x.backoff ≤ 96) :
    s.Rests (u.setPort p x) :=
  ⟨h.core, h.notices, fun hs => portsOk_setPort (h.ports hs) (hx (h.ports hs p))⟩

theorem setFlag {s u : State} (h : s.Rests u) (f : FlagId) : s.Rests (u.setFlag f) := ⟨h.core, h.notices, h.ports⟩

theorem arrive (r : Request) (s : State) : s.Rests (arrive r s) := by
  obtain ⟨-, hnotices, -, hcue, -, htracks, -, hports, hstore, hbanks, -, -, hpending⟩ :=
    fields_of_sansLink (arrive_sansLink r s)
  exact of_same (core_eq_iff.mpr ⟨hcue, htracks, hstore, hbanks, hpending⟩).symm (by rw [hnotices]) hports

theorem arbitrate (s : State) : s.Rests (arbitrate s) := by
  refine ⟨(core_eq_iff.mpr ⟨arbitrate_cue s, arbitrate_tracks s, arbitrate_store s, arbitrate_banks s,
    arbitrate_pending s⟩).symm, fun hs => noticesOk_of hs ?_, fun hs => portsOk_of hs fun p => by rw [arbitrate_port]⟩
  obtain ⟨-, -, -, -, -, -, hnotices, -⟩ := arbitrate_frame s
  exact hnotices

theorem timelineTick (s : State) : s.Rests (timelineTick s) := by
  simp only [Machine.timelineTick]
  split
  · exact refl s
  · refine .raiseIf (.raiseIf (.raiseIf ?_ _ _ _) _ _ _) _ _ _
    exact of_same rfl rfl rfl

theorem applyPending_backoff {x : Port} (h : x.backoff % 12 = 0 ∧ x.backoff ≤ 96) :
    x.applyPending.backoff % 12 = 0 ∧ x.applyPending.backoff ≤ 96 := by
  unfold Port.applyPending
  split
  · exact h
  · dsimp only
    split
    · decide
    · exact h

theorem judged_backoff {x : Port} (h : x.backoff % 12 = 0 ∧ x.backoff ≤ 96) :
    x.judged.backoff % 12 = 0 ∧ x.judged.backoff ≤ 96 := by
  simp only [Port.judged]
  split
  next hstep =>
    simp only [Bool.and_eq_true, decide_eq_true_eq] at hstep
    omega
  next => exact h

theorem portTick (p : PortId) (s : State) : s.Rests (portTick s p) := by
  simp only [Machine.portTick]
  split
  · exact refl s
  · split
    · split
      · refine .setPort ?_ p fun h => applyPending_backoff (judged_backoff h)
        exact of_same rfl rfl rfl
      · refine .raise ?_ _ _
        refine .setPort ?_ p fun h => applyPending_backoff (judged_backoff h)
        exact of_same rfl rfl rfl
    · refine .setPort ?_ p fun h => applyPending_backoff h
      exact of_same rfl rfl rfl

theorem triggerFall (n : LineId) (s : State) : s.Rests (triggerFall s n) := by
  unfold Machine.triggerFall
  split
  · exact refl s
  · exact of_same rfl rfl rfl

theorem markerFall (m : LineId) (s : State) : s.Rests (markerFall s m) := by
  unfold Machine.markerFall
  split
  · exact refl s
  · exact of_same rfl rfl rfl

theorem gapTick (s : State) : s.Rests (gapTick s) := by
  simp only [Machine.gapTick]
  split
  · exact refl s
  · split
    · split
      · refine .raise ?_ _ _
        exact of_same rfl rfl rfl
      · exact of_same rfl rfl rfl
    · exact of_same rfl rfl rfl

theorem judgeFlags (s : State) : s.Rests (judgeFlags s) :=
  of_same (judgeFlags_field State.core (fun _ _ => rfl) s).symm
    (judgeFlags_field (fun u => u.notices.records) (fun _ _ => rfl) s)
    (judgeFlags_field State.ports (fun _ _ => rfl) s)

theorem receive (b : Byte) (s : State) : s.Rests (receive b s) := by
  have hrx (rx : Receiver) : s.Rests (s.setRx rx) := of_same rfl rfl rfl
  unfold Machine.receive judgeHeader endFrame
  dsimp only
  repeat' split
  all_goals first
    | exact hrx _
    | exact (hrx _).raise _ _
    | exact (hrx _).trans (arrive _ _)

theorem hearMarker (m : Marker) (s : State) : s.Rests (hearMarker m s) := by
  have htimeline (x : Timeline) : s.Rests { s with timeline := x } := of_same rfl rfl rfl
  simp only [Machine.hearMarker]
  repeat' split
  all_goals first
    | exact refl s
    | exact htimeline _
    | exact (htimeline _).raise _ _
    | exact (htimeline _).raiseIf _ _ _

theorem offerCapture (c : Capture) (s : State) : s.Rests (offerCapture c s) := by
  have hlines (x : Lines) : s.Rests { s with lines := x } := of_same rfl rfl rfl
  simp only [Machine.offerCapture]
  split
  · exact (hlines _).raiseIf _ _ _
  · exact (hlines _).raise _ _

theorem releaseReset (levels : BitVec 4) (s : State) : s.Rests (releaseReset levels s) := by
  unfold Machine.releaseReset
  split
  · exact of_same rfl rfl rfl
  · exact refl s

end State.Rests

namespace KeptByCore

variable {P : State → Prop}

theorem sampleTrigger (h : KeptByCore P) (levels : BitVec 4) (offset : BitVec 12) (s : State) (n : LineId) (hs : P s) :
    P (sampleTrigger levels offset s n) := by
  simp only [Machine.sampleTrigger, acceptEdge]
  split
  · exact hs
  · split
    · refine h.meetTrigger n _ (h.congr hs ?_)
      have hoffer (c : Capture) (x y : TriggerLine) : s.Rests (offerCapture c ((s.setTrigger n x).setTrigger n y)) :=
        .trans (u := (s.setTrigger n x).setTrigger n y) (.of_same rfl rfl rfl) (.offerCapture c _)
      split
      · exact (hoffer _ _ _).setFlag _
      · exact hoffer _ _ _
    · exact h.congr hs (.of_same rfl rfl rfl)

theorem handler (h : KeptByCore P) (c : Instr) (p : List Byte) (s : State) (a : List Byte) (u : State)
    (hdone : handlerOf c p s = .ok (a, u)) (hs : P s) : P u := by
  cases c <;> dsimp only [handlerOf] at hdone
  case deviceInfo =>
    obtain rfl := handleDeviceInfo_done hdone
    exact hs
  case deviceReset =>
    obtain rfl := handleDeviceReset_done hdone
    exact h.warmReset s hs
  case noticeSet =>
    obtain ⟨levels, enable, hu⟩ := handleNoticeSet_done hdone
    rw [hu]
    exact h.congr hs (.of_same rfl rfl rfl)
  case noticeTake =>
    obtain ⟨taken, hu⟩ := handleNoticeTake_done hdone
    rw [hu]
    exact forEach_inv taken _ P (fun u n hu => h.congr hu (.withdraw (.refl u) n)) s hs
  case clockSet =>
    obtain ⟨x, hu⟩ := handleClockSet_done hdone
    rw [hu]
    exact h.congr hs (.of_same rfl rfl rfl)
  case clockStatus =>
    obtain rfl := handleClockStatus_done hdone
    exact hs
  case syncSet =>
    obtain ⟨x, hu⟩ := handleSyncSet_done hdone
    rw [hu]
    exact h.congr hs (.of_same rfl rfl rfl)
  case portSet =>
    obtain ⟨q, v, hu⟩ := handlePortSet_done hdone
    rw [hu]
    exact h.congr hs (.withdraw (.setPort (x := (s.port q).withPending v) (.refl s) q id) _)
  case portStatus =>
    obtain rfl := handlePortStatus_done hdone
    exact hs
  case cuePut =>
    obtain ⟨i, n, q, es, hread, hu⟩ := handleCuePut_done hdone
    rw [hu]
    exact h.putEntries i n q es s hread hs
  case cueGet =>
    obtain rfl := handleCueGet_done hdone
    exact hs
  case flagWrite =>
    obtain ⟨flags, hu⟩ := handleFlagWrite_done hdone
    rw [hu]
    exact h.congr hs (.of_same rfl rfl rfl)
  case flagRead =>
    obtain rfl := handleFlagRead_done hdone
    exact hs
  case trackArm =>
    obtain ⟨t, home, -, hstate, hu⟩ := handleTrackArm_done hdone
    rw [hu]
    exact h.armTrack t home s hstate hs
  case trackGo =>
    obtain ⟨t, c, hstate, hu⟩ := handleTrackGo_done hdone
    rw [hu]
    exact h.goTrack t c s hstate hs
  case trackStop =>
    obtain ⟨t, m, tr, htr, hu⟩ := handleTrackStop_done hdone
    rw [hu]
    exact h.stopTrack t m tr s htr hs
  case trackBreak =>
    obtain ⟨t, ⟨c, r, -, hqueue, -, hu⟩ | hu | ⟨-, hu⟩⟩ := handleTrackBreak_done hdone <;> rw [hu]
    · exact h.breakPlay t c r s hqueue hs
    · exact hs
    · exact h.breakHold t s hs
  case trackTune =>
    obtain ⟨t, v, hread, hu⟩ := handleTrackTune_done hdone
    rw [hu]
    exact h.tuneTrack t v p s hread hs
  case trackFeed =>
    obtain ⟨t, now, fs, hread, hu⟩ := handleTrackFeed_done hdone
    rw [hu]
    exact h.feedTrack t now fs p s hread hs
  case trackStatus =>
    obtain rfl := handleTrackStatus_done hdone
    exact hs
  case trackClear =>
    obtain ⟨t, hu⟩ := handleTrackClear_done hdone
    rw [hu]
    exact h.clearTrack t s hs
  case clipOpen =>
    obtain ⟨v, first, hread, hscan, hempty, hrun, hu⟩ := handleClipOpen_done hdone
    rw [hu]
    exact h.openClip v first p s hread hscan hempty hrun hs
  case clipData =>
    obtain ⟨c, data, hscan, hopen, hroom, hu⟩ := handleClipData_done hdone
    rw [hu]
    exact h.acceptPage c data s hscan hopen hroom hs
  case clipClose =>
    obtain ⟨c, hscan, hopen, hpages, hu⟩ := handleClipClose_done hdone
    rw [hu]
    exact h.closeClip c s hscan hopen hpages hs
  case clipDrop =>
    obtain ⟨c, hscan, huse, hpages, hu⟩ := handleClipDrop_done hdone
    rw [hu]
    exact h.dropClip c s hscan huse hpages hs
  case clipInfo =>
    obtain rfl := handleClipInfo_done hdone
    exact hs
  case storeStatus =>
    obtain rfl := handleStoreStatus_done hdone
    exact hs
  case storeSweep =>
    obtain ⟨b, -, hu⟩ := handleStoreSweep_done hdone
    rw [hu]
    exact h.sweepBank b s hs
  case storeHalt =>
    obtain ⟨b, -, hu⟩ := handleStoreHalt_done hdone
    rw [hu]
    exact h.haltBank b s hs
  case storePolicy =>
    obtain ⟨b, policy, auto, -, hu⟩ := handleStorePolicy_done hdone
    rw [hu]
    exact h.setPolicy b policy auto s hs
  case lineSet =>
    obtain ⟨n, x, rfl⟩ | ⟨m, x, rfl⟩ := handleLineSet_done hdone <;> exact h.congr hs (.of_same rfl rfl rfl)
  case captureRead =>
    obtain ⟨n, hu⟩ := handleCaptureRead_done hdone
    rw [hu]
    exact h.congr hs (.of_same rfl rfl rfl)
  all_goals exact absurd hdone (handleUnknown_ne_done p s _)

theorem met (h : KeptByCore P) (s : State) (r : Request) (hs : P s) : P (s.met r) := by
  unfold State.met
  split
  · exact hs
  · exact h.congr hs (.arrive r s)

theorem serve (h : KeptByCore P) (c : Instr) (r : Request) (s : State) (hs : P s) : P (serve (handlerOf c) r s) := by
  have hmet := h.met s r hs
  have hanswer (u : State) (tag : Byte) (code : AnswerCode) (payload : List Byte) (hu : P u) :
      P (u.answerFront tag code payload) := h.congr hu (.of_same rfl rfl rfl)
  simp only [Machine.serve, ← State.met.eq_1]
  split
  · cases hreply : handlerOf c r.payload (s.met r) with
    | error code => exact hanswer _ _ _ _ hmet
    | ok reply => exact hanswer _ _ _ _ (h.handler c _ _ _ _ hreply hmet)
  · exact hmet

/-- The operations that leave the core as it is keep a property of the core. -/
theorem units (h : KeptByCore P) : KeptByUnits P where
  serve := h.serve
  arbitrate s hs := h.congr hs (.arbitrate s)
  receive b s hs := h.congr hs (.receive b s)
  completeFrame _ hs := h.congr hs (.of_same rfl rfl rfl)
  timelineTick s hs := h.congr hs (.timelineTick s)
  portTick p s hs := h.congr hs (.portTick p s)
  triggerFall n s hs := h.congr hs (.triggerFall n s)
  markerFall m s hs := h.congr hs (.markerFall m s)
  gapTick s hs := h.congr hs (.gapTick s)
  judgeFlags s hs := h.congr hs (.judgeFlags s)
  trackTick := h.trackTick
  endTick _ hs := h.congr hs (.of_same rfl rfl rfl)
  sendMarker _ hs := h.congr hs (.of_same rfl rfl rfl)
  hearMarker m s hs := h.congr hs (.hearMarker m s)
  triggerEdge levels offset s hs := forEach_inv allFour _ P (fun s n => h.sampleTrigger levels offset s n) s hs
  completeRead := h.completeRead
  completeProgram := h.completeProgram
  completeErase := h.completeErase
  completeSuspend := h.completeSuspend
  completeScan := h.completeScan
  hardReset := h.hardReset
  releaseReset levels s hs := h.congr hs (.releaseReset levels s)

theorem step (h : KeptByCore P) (hq : ∀ s q, P s → P { s with pending := q }) {s t : State}
    (he : step s = .next t) (hs : P s) : P t :=
  h.units.step hq he hs

end KeptByCore

end Sys2Proof.Machine
end

section
/-! PROOFS. The block as a whole (O1, O2) and the request handler (O8, O9, O10, R186, R187). -/

namespace Sys2Proof.Machine

/-! ### What stands aside: the link, the captures and the commands that wait -/

/-- The parts that neither playback nor the scene store touches: the link, the captures and the commands that wait. -/
def State.aside (s : State) : Link × List Capture × Bool × List Instr :=
  (s.link, s.lines.captures, s.lines.overrun, s.pending)

theorem aside_eq_iff {s u : State} :
    s.aside = u.aside ↔ s.link = u.link ∧ s.lines.captures = u.lines.captures ∧ s.lines.overrun = u.lines.overrun ∧
      s.pending = u.pending := by
  simp only [State.aside, Prod.mk.injEq]

theorem Undisturbed.aside {s u : State} (h : Undisturbed s u) : u.aside = s.aside :=
  aside_eq_iff.mpr ⟨h.link, h.captures, h.overrun, h.pending⟩

@[simp] theorem State.modTrack_aside (s : State) (t : TrackId) (f : Track → Track) :
    (s.modTrack t f).aside = s.aside := rfl

@[simp] theorem State.setNotice_aside (s : State) (n : SourceId) (r : Option Notice) :
    (s.setNotice n r).aside = s.aside := rfl

@[simp] theorem State.raise_aside (s : State) (n : SourceId) (c : Cause) : (s.raise n c).aside = s.aside := rfl

@[simp] theorem State.modBank_aside (s : State) (b : BankId) (f : Bank → Bank) : (s.modBank b f).aside = s.aside := rfl

theorem trackTick_aside (t : TrackId) (s : State) : (trackTick t s).aside = s.aside :=
  (trackTick_work t s).toUndisturbed.aside

theorem bankSettle_aside (b : BankId) (s : State) : (bankSettle b s).aside = s.aside :=
  (bankSettle_work b s).toUndisturbed.aside

theorem putEntries_aside (i : CueIndex) (es : List CueEntry) (s : State) : (putEntries i es s).aside = s.aside := by
  induction es generalizing i s with
  | nil => rfl
  | cons e es ih =>
    rw [putEntries, ih]
    rfl

theorem armTrack_aside (t : TrackId) (home : CueIndex) (s : State) : (armTrack t home s).aside = s.aside := by
  simp only [armTrack]
  rw [(restartWalk_work t _).toUndisturbed.aside, State.setNotice_aside, State.modTrack_aside,
    (discardAll_work t s).toUndisturbed.aside]

theorem goTrack_aside (t : TrackId) (c : StartCond) (s : State) : (goTrack t c s).aside = s.aside := by
  unfold goTrack
  repeat' split
  all_goals rfl

theorem breakPlay_aside (t : TrackId) (s : State) : (breakPlay t s).aside = s.aside := by
  rw [breakPlay, (breakWalk_work t _).toUndisturbed.aside]
  rfl

theorem clearTrack_aside (t : TrackId) (s : State) : (clearTrack t s).aside = s.aside := by
  rw [clearTrack, State.modTrack_aside, (discardAll_work t s).toUndisturbed.aside]

theorem acceptPage_aside (c : ClipId) (data : List Byte) (s : State) : (acceptPage c data s).aside = s.aside := by
  simp only [acceptPage]
  rw [bankSettle_aside]
  rfl

theorem dropClip_aside (c : ClipId) (s : State) : (dropClip c s).aside = s.aside := by
  simp only [dropClip]
  rw [bankSettle_aside]
  rfl

theorem sweepBank_aside (b : BankId) (s : State) : (sweepBank b s).aside = s.aside := by
  simp only [sweepBank]
  split
  · rfl
  · split
    · rfl
    · rw [bankSettle_aside]
      rfl

theorem stopOperation_aside (b : BankId) (s : State) : (stopOperation b s).aside = s.aside := by
  simp only [stopOperation]
  repeat' split
  all_goals rfl

theorem haltBank_aside (b : BankId) (s : State) : (haltBank b s).aside = s.aside := by
  simp only [haltBank]
  rw [bankSettle_aside, ← stopOperation_aside b s]
  rfl

theorem setPolicy_aside (b : BankId) (policy : Policy) (auto : Bool) (s : State) :
    (setPolicy b policy auto s).aside = s.aside := by
  simp only [setPolicy]
  rw [bankSettle_aside, (suspendReact_work b _).toUndisturbed.aside]
  rfl

theorem meetTrigger_aside (n : LineId) (s : State) : (meetTrigger n s).aside = s.aside := by
  unfold meetTrigger
  exact forEach_keeps _ (fun s t => s.modTrack t _) State.aside (fun _ _ => rfl) s

theorem completeRead_aside (b : BankId) (correct : Bool) (s : State) : (completeRead b correct s).aside = s.aside := by
  unfold completeRead
  split
  · rfl
  · rw [bankSettle_aside, State.modBank_aside, (checkPriming_work _ _).toUndisturbed.aside]
    rfl

theorem completeProgram_aside (b : BankId) (success : Bool) (s : State) :
    (completeProgram b success s).aside = s.aside := by
  unfold completeProgram
  repeat' split
  all_goals first
    | rfl
    | rw [bankSettle_aside]
      rfl

theorem endErase_aside (b : BankId) (n : Nat) (success : Bool) (s : State) :
    (endErase b n success s).aside = s.aside := by
  unfold endErase
  split <;> rfl

theorem endOperation_aside (b : BankId) (s : State) : (endOperation b s).aside = s.aside := rfl

theorem endSweep_aside (b : BankId) (s : State) : (endSweep b s).aside = s.aside := by
  unfold endSweep
  split <;> rfl

theorem completeErase_aside (b : BankId) (success : Bool) (s : State) :
    (completeErase b success s).aside = s.aside := by
  unfold completeErase
  repeat' split
  all_goals first
    | rfl
    | rw [bankSettle_aside, endSweep_aside, endOperation_aside, endErase_aside]

theorem completeSuspend_aside (b : BankId) (s : State) : (completeSuspend b s).aside = s.aside := by
  unfold completeSuspend
  repeat' split
  all_goals first
    | rfl
    | rw [bankSettle_aside]
      rfl

theorem completeScan_aside (s : State) : (completeScan s).aside = s.aside := by
  unfold completeScan
  split
  · rw [forEach_keeps allFour _ State.aside (fun s b => bankSettle_aside b s),
      forEach_keeps allFour (fun s b => s.raise (bankSource b) .scanDone) State.aside (fun _ _ => rfl)]
    rfl
  · rfl

/-- The banks go on after a warm reset, which has left the rest of the part as it is now. -/
theorem warmReset_aside (s : State) :
    (warmReset s).aside = ({ s.link with requests := s.link.requests.take 1 }, [], false, s.pending) := by
  rw [warmReset, forEach_keeps allFour _ State.aside (fun s b => bankSettle_aside b s)]
  rfl

theorem pending_of_aside {s u : State} {q : List Instr} (h : u.aside = s.aside) (hs : s.pending = q) : u.pending = q :=
  (aside_eq_iff.mp h).2.2.2.trans hs

theorem pending_kept (q : List Instr) : KeptByCore fun s => s.pending = q where
  congr hs h := (core_eq_iff.mp h.core).2.2.2.2 ▸ hs
  trackTick t s := pending_of_aside (trackTick_aside t s)
  putEntries i _ _ es s _ := pending_of_aside (putEntries_aside i es s)
  armTrack t home s _ := pending_of_aside (armTrack_aside t home s)
  goTrack t c s _ := pending_of_aside (goTrack_aside t c s)
  stopTrack _ _ _ _ _ := id
  breakPlay t _ _ s _ := pending_of_aside (breakPlay_aside t s)
  breakHold _ _ := id
  tuneTrack _ _ _ _ _ := id
  feedTrack _ _ _ _ _ _ := id
  clearTrack t s := pending_of_aside (clearTrack_aside t s)
  openClip _ _ _ _ _ _ _ _ := id
  acceptPage c data s _ _ _ := pending_of_aside (acceptPage_aside c data s)
  closeClip _ _ _ _ _ := id
  dropClip c s _ _ _ := pending_of_aside (dropClip_aside c s)
  sweepBank b s := pending_of_aside (sweepBank_aside b s)
  haltBank b s := pending_of_aside (haltBank_aside b s)
  setPolicy b policy auto s := pending_of_aside (setPolicy_aside b policy auto s)
  warmReset s hs := (congrArg (·.2.2.2) (warmReset_aside s)).trans hs
  meetTrigger n s := pending_of_aside (meetTrigger_aside n s)
  completeRead b correct s := pending_of_aside (completeRead_aside b correct s)
  completeProgram b success s := pending_of_aside (completeProgram_aside b success s)
  completeErase b success s := pending_of_aside (completeErase_aside b success s)
  completeSuspend b s := pending_of_aside (completeSuspend_aside b s)
  completeScan s := pending_of_aside (completeScan_aside s)
  hardReset _ := id

/-- A request that is taken leaves the link, the captures and the waiting commands as they were, but for DEVICE RESET,
which discards the requests behind it and the captures, and CAPTURE READ, which takes captures. -/
theorem handlerOf_aside {c : Instr} {p a : List Byte} {s u : State} (hdone : handlerOf c p s = .ok (a, u)) :
    u.aside = s.aside ∨ u = warmReset s ∨
      ∃ n, u = { s with lines := { s.lines with captures := s.lines.captures.drop n, overrun := false } } := by
  cases c <;> dsimp only [handlerOf] at hdone
  case deviceReset => exact .inr (.inl (handleDeviceReset_done hdone))
  case captureRead => exact .inr (.inr (handleCaptureRead_done hdone))
  all_goals left
  case deviceInfo => rw [handleDeviceInfo_done hdone]
  case noticeSet =>
    obtain ⟨_, _, hu⟩ := handleNoticeSet_done hdone
    rw [hu]
    rfl
  case noticeTake =>
    obtain ⟨taken, hu⟩ := handleNoticeTake_done hdone
    rw [hu, forEach_keeps taken (fun s n => s.setNotice n none) State.aside (fun _ _ => rfl) s]
  case clockSet =>
    obtain ⟨_, hu⟩ := handleClockSet_done hdone
    rw [hu]
    rfl
  case clockStatus => rw [handleClockStatus_done hdone]
  case syncSet =>
    obtain ⟨_, hu⟩ := handleSyncSet_done hdone
    rw [hu]
    rfl
  case portSet =>
    obtain ⟨_, _, hu⟩ := handlePortSet_done hdone
    rw [hu]
    rfl
  case portStatus => rw [handlePortStatus_done hdone]
  case cuePut =>
    obtain ⟨i, _, _, es, -, hu⟩ := handleCuePut_done hdone
    rw [hu, putEntries_aside]
  case cueGet => rw [handleCueGet_done hdone]
  case flagWrite =>
    obtain ⟨_, hu⟩ := handleFlagWrite_done hdone
    rw [hu]
    rfl
  case flagRead => rw [handleFlagRead_done hdone]
  case trackArm =>
    obtain ⟨t, home, -, -, hu⟩ := handleTrackArm_done hdone
    rw [hu, armTrack_aside]
  case trackGo =>
    obtain ⟨t, c, -, hu⟩ := handleTrackGo_done hdone
    rw [hu, goTrack_aside]
  case trackStop =>
    obtain ⟨_, _, _, -, hu⟩ := handleTrackStop_done hdone
    rw [hu]
    rfl
  case trackBreak =>
    obtain ⟨t, ⟨_, _, -, -, -, hu⟩ | hu | ⟨-, hu⟩⟩ := handleTrackBreak_done hdone <;> rw [hu]
    · exact breakPlay_aside t s
    · rfl
  case trackTune =>
    obtain ⟨_, _, -, hu⟩ := handleTrackTune_done hdone
    rw [hu]
    rfl
  case trackFeed =>
    obtain ⟨_, _, _, -, hu⟩ := handleTrackFeed_done hdone
    rw [hu]
    rfl
  case trackStatus => rw [handleTrackStatus_done hdone]
  case trackClear =>
    obtain ⟨t, hu⟩ := handleTrackClear_done hdone
    rw [hu, clearTrack_aside]
  case clipOpen =>
    obtain ⟨_, _, -, -, -, -, hu⟩ := handleClipOpen_done hdone
    rw [hu]
    rfl
  case clipData =>
    obtain ⟨_, _, -, -, -, hu⟩ := handleClipData_done hdone
    rw [hu, acceptPage_aside]
  case clipClose =>
    obtain ⟨_, -, -, -, hu⟩ := handleClipClose_done hdone
    rw [hu]
    rfl
  case clipDrop =>
    obtain ⟨_, -, -, -, hu⟩ := handleClipDrop_done hdone
    rw [hu, dropClip_aside]
  case clipInfo => rw [handleClipInfo_done hdone]
  case storeStatus => rw [handleStoreStatus_done hdone]
  case storeSweep =>
    obtain ⟨_, -, hu⟩ := handleStoreSweep_done hdone
    rw [hu, sweepBank_aside]
  case storeHalt =>
    obtain ⟨_, -, hu⟩ := handleStoreHalt_done hdone
    rw [hu, haltBank_aside]
  case storePolicy =>
    obtain ⟨_, _, _, -, hu⟩ := handleStorePolicy_done hdone
    rw [hu, setPolicy_aside]
  case lineSet => obtain ⟨_, _, rfl⟩ | ⟨_, _, rfl⟩ := handleLineSet_done hdone <;> rfl
  all_goals exact absurd hdone (handleUnknown_ne_done p s _)

/-- A request that is taken changes nothing of the link but, in DEVICE RESET, the requests behind it. -/
theorem handlerOf_link {c : Instr} {p a : List Byte} {s u : State} (hdone : handlerOf c p s = .ok (a, u)) :
    u.link = s.link ∨ u.link = { s.link with requests := s.link.requests.take 1 } := by
  obtain h | h | ⟨n, h⟩ := handlerOf_aside hdone
  · exact .inl (congrArg (·.1) h)
  · rw [h]
    exact .inr (congrArg (·.1) (warmReset_aside s))
  · rw [h]
    exact .inl rfl

/-! ### Completion -/

theorem exec_completes (c : Instr) (s : State) : ∃ t, exec c s = .next t := by
  obtain ⟨r, hr⟩ | hc | rfl | ⟨levels, rfl⟩ := command_kinds c
  · obtain h | h := exec_request_cases hr s <;> exact ⟨_, h⟩
  · exact ⟨_, exec_event hc s⟩
  · exact ⟨_, rfl⟩
  · exact ⟨_, rfl⟩

/-! ### Requests that are not handled (R186) -/

/-- A request that cannot be handled is met, and nothing else happens. -/
theorem exec_of_not_canHandle {c : Instr} {r : Request} {s : State} (hr : requestOf c = some r)
    (hw : WellFormed c = true) (hheld : s.held = false) (h : (s.met r).canHandle r = false) : Acts c s (s.met r) := by
  have hserve : serve (handlerOf c) r s = s.met r := by
    simp only [serve, ← State.met.eq_1, h, Bool.false_eq_true, if_false]
  rw [Acts, exec_request hr hw, State.event, hheld, if_neg Bool.false_ne_true, hserve]

theorem met_of_other {q r : Request} {rest : List Request} {s : State} (hq : s.link.requests = q :: rest)
    (hne : q ≠ r) : s.met r = arrive r s := by
  rw [State.met, if_neg]
  simp [hq, hne]

theorem met_of_front {r : Request} {s : State} (h : s.link.requests.head? = some r) : s.met r = s := if_pos h

theorem arrive_of_room {r : Request} {s : State} (h : s.link.requests.length < 4) :
    arrive r s = s.modLink fun l => { l with requests := l.requests ++ [r] } := if_pos h

theorem arrive_of_full {r : Request} {s : State} (h : 4 ≤ s.link.requests.length) (ha : s.link.answers.length < 8) :
    arrive r s = s.modLink fun l =>
      { l with answers := l.answers ++ [{ tag := r.tag, code := .full, payload := [] }] } :=
  (if_neg (Nat.not_lt.mpr h)).trans (if_pos ha)

theorem arrive_of_no_place {r : Request} {s : State} (h : 4 ≤ s.link.requests.length)
    (ha : 8 ≤ s.link.answers.length) : arrive r s = s :=
  (if_neg (Nat.not_lt.mpr h)).trans (if_neg (Nat.not_lt.mpr ha))

/-- A request that is met in `u` and cannot be handled there. -/
theorem acts_of_met {c : Instr} {r : Request} {s u : State} (hr : requestOf c = some r) (hw : WellFormed c = true)
    (hheld : s.held = false) (hmet : s.met r = u) (h : u.canHandle r = false) : Acts c s u := by
  subst hmet
  exact exec_of_not_canHandle hr hw hheld h

/-- An answer made at the front by a handler that has discarded the requests behind it. -/
theorem answered_alone (s u : State) (r : Request) (code : AnswerCode) (payload : List Byte) (h : s.serves r)
    (hl : u.link = { (s.met r).link with requests := (s.met r).link.requests.take 1 }) :
    Answered s (arbitrate (u.answerFront r.tag code payload)) r.tag code payload ∧
      (arbitrate (u.answerFront r.tag code payload)).link.requests = [] ∧
      (arbitrate (u.answerFront r.tag code payload)).sansLink = u.sansLink := by
  have hserves : (s.modLink fun l => { l with requests := [] }).serves r := ⟨h.1, h.2.1, .inr rfl⟩
  refine answered (s.modLink fun l => { l with requests := [] }) u r code payload hserves ?_
  rw [hl, State.met_link s r h, State.met_link _ r hserves]
  rfl

/-- The answer to a refused request leaves every block but the link as it was. -/
theorem answered_refusal {c : Instr} {r : Request} {s : State} {code : AnswerCode} (hr : requestOf c = some r)
    (hw : WellFormed c = true) (h : s.serves r) (hreply : handlerOf c r.payload (s.met r) = .error code) :
    Refuses c s r.tag code := refuses_of (exec_request hr hw s) h hreply

/-! ### Payloads of the wrong size (R198) -/

theorem exec_fixedSize {c : Instr} {r : Request} {n : Nat} (hr : requestOf c = some r) (hn : fixedSize c = some n)
    (s : State) : exec c s = .next (s.event (serve (handlerOf c) r)) := by
  cases c <;> simp only [fixedSize, reduceCtorEq] at hn <;> simp only [requestOf, Option.some.injEq] at hr <;>
    subst hr <;> rfl

theorem handlerOf_of_size {c : Instr} {r : Request} {n : Nat} (hr : requestOf c = some r) (hn : fixedSize c = some n)
    (hlen : r.payload.length ≠ n) (s : State) : handlerOf c r.payload s = .error .length := by
  cases c <;> simp only [fixedSize, reduceCtorEq, Option.some.injEq] at hn <;>
    simp only [requestOf, Option.some.injEq] at hr <;> subst hr hn <;> dsimp only at hlen
  case clipClose | clipDrop | clipInfo =>
    simp [handlerOf, handleClipClose, handleClipDrop, handleClipInfo, readClipRequest, hlen]
  case storeSweep | storeHalt => simp [handlerOf, handleStoreSweep, handleStoreHalt, readBankRequest, hlen]
  all_goals exact if_pos hlen

end Sys2Proof.Machine

namespace Sys2Proof.Proofs.Block
open Sys2Proof Sys2Proof.Machine

/-- Settles O1: the two cases of the step's queue. -/
theorem stepTakesFrontCommand : Obligations.StepTakesFrontCommand := by
  unfold Obligations.StepTakesFrontCommand
  refine ⟨fun s c r h => ?_, fun s h => ?_⟩ <;> simp only [step, h]

/-- Settles O2: no unit touches the commands that wait. -/
theorem everyCommandCompletes : Obligations.EveryCommandCompletes := by
  unfold Obligations.EveryCommandCompletes
  intro c s
  obtain ⟨t, ht⟩ := exec_completes c s
  exact ⟨t, ht, (pending_kept s.pending).units.exec ht rfl⟩

/-- Settles O14: the distance to a time, modulo 2^32, and its complement, the distance back. -/
theorem aheadOrLate : Obligations.AheadOrLate := by
  unfold Obligations.AheadOrLate
  intro t n
  have hiff (a b : Count) : ahead a b = true ↔ 1 ≤ (a - b).toNat ∧ (a - b).toNat ≤ 2147483648 := by
    simp [ahead]
  refine ⟨?_, ?_, ?_, fun hne hhalf => ?_, hiff t n⟩
  · simp [ahead]
  · rw [hiff]
    bv_omega
  · rw [← Bool.not_eq_true, hiff]
    bv_omega
  · rw [Bool.eq_iff_iff, Bool.not_eq_true', ← Bool.not_eq_true, hiff, hiff]
    bv_omega

/-- Settles O8: each handler answers, and `handleFront` sends a refusal without a payload from the state as it was. -/
theorem everyHandledRequestIsAnswered : Obligations.EveryHandledRequestIsAnswered := by
  unfold Obligations.EveryHandledRequestIsAnswered
  refine ⟨rfl, fun c r s hr hw h => ?_⟩
  cases hreply : handlerOf c r.payload (s.met r) with
  | error code =>
    obtain ⟨t, ht, ha, hrequests, hsans⟩ := answered_refusal hr hw h hreply
    exact ⟨t, code, [], ht, ha, fun _ => ⟨rfl, hrequests, hsans⟩⟩
  | ok reply =>
    obtain ⟨payload, u⟩ := reply
    refine ⟨arbitrate (u.answerFront r.tag .done payload), .done, payload, ?_, ?_, fun hne => absurd rfl hne⟩
    · rw [exec_request hr hw, event_serve (handlerOf c) r s h, hreply]
      rfl
    · obtain hlink | hlink := handlerOf_link hreply
      · exact (answered s u r .done payload h hlink).1
      · exact (answered_alone s u r .done payload h hlink).1

/-- Settles O9: a request that is not handled is only met. -/
theorem unhandledRequestsWait : Obligations.UnhandledRequestsWait := by
  unfold Obligations.UnhandledRequestsWait
  intro c r s hr hw hheld
  refine ⟨fun q rest hq hne hroom => ?_, fun q rest hq hne hfull hanswers => ?_, fun q rest hq hne hfull hanswers => ?_,
    fun hfront hanswers => ?_, fun hempty hanswers => ?_⟩
  · refine acts_of_met hr hw hheld ((met_of_other hq hne).trans (arrive_of_room hroom)) ?_
    simp [State.canHandle, State.modLink, hq, hne]
  · refine acts_of_met hr hw hheld ((met_of_other hq hne).trans (arrive_of_full hfull hanswers)) ?_
    simp [State.canHandle, State.modLink, hq, hne]
  · refine acts_of_met hr hw hheld ((met_of_other hq hne).trans (arrive_of_no_place hfull hanswers)) ?_
    simp [State.canHandle, hq, hne]
  · refine acts_of_met hr hw hheld (met_of_front hfront) ?_
    simp [State.canHandle, Config.answerList, Nat.not_lt.mpr hanswers]
  · have hroom : s.link.requests.length < 4 := by simp [hempty]
    have hmet : s.met r = arrive r s := by simp [State.met, hempty]
    have hjoin : arrive r s = s.modLink fun l => { l with requests := [r] } := by
      rw [arrive_of_room hroom]
      simp [State.modLink, hempty]
    refine acts_of_met hr hw hheld (hmet.trans hjoin) ?_
    simp [State.canHandle, State.modLink, Config.answerList, Nat.not_lt.mpr hanswers]

/-- Settles O10: each handler judges the size of its payload first. -/
theorem unknownAndMissizedRequestsAreRefused : Obligations.UnknownAndMissizedRequestsAreRefused := by
  unfold Obligations.UnknownAndMissizedRequestsAreRefused
  refine ⟨fun s tag code payload hcode h => ?_, fun c r n s hr hn hlen h => ?_, fun s tag p h hlen => ?_,
    fun s tag p h hlen => ?_, fun s tag p h hlen => ?_⟩
  · have hexec : exec (.unknownRequest tag code payload) s =
        .next (s.event (serve handleUnknown { tag := tag, code := code, payload := payload })) :=
      if_neg (by rw [hcode]; exact Bool.false_ne_true)
    exact refuses_of hexec h rfl
  · exact refuses_of (exec_fixedSize hr hn s) h (handlerOf_of_size hr hn hlen _)
  · exact refuses_of (handler := handleCuePut) rfl h (if_pos hlen)
  · exact refuses_of (handler := handleTrackFeed) rfl h (if_pos hlen)
  · exact refuses_of (handler := handleClipData) rfl h (if_pos hlen)

end Sys2Proof.Proofs.Block
end

section
/-! PROOFS. What playback and the lookahead keep (chapters 02 and 03): a property of cue memory, tracks, store and banks
that stands under the few operations by which a track takes copies, makes and drops slots and moves its live parameters
stands under every track request and every tick start. -/

namespace Sys2Proof.Machine

/-! ### A track that holds no more than another -/

/-- What a copy plays: its entry, its status and its resolved length. -/
def Copy.plays (c : Copy) : CueEntry × CopyStatus × Nat := (c.entry, c.status, c.length)

/-- Track `b` prepares no more than track `a`: its copies play what copies of `a` play, its slots are for the clips of
slots of `a`, and its live parameters are copies of those of `a`. -/
structure Track.Within (a b : Track) : Prop where
  queue : (b.queue.map Copy.plays).Sublist (a.queue.map Copy.plays)
  ring : (b.ring.map Slot.clip).Sublist (a.ring.map Slot.clip)
  active : b.active = a.active ∨ b.active = a.staged
  staged : b.staged = a.staged

namespace Track.Within

theorem of_eq {a b : Track} (hq : b.queue = a.queue) (hr : b.ring = a.ring) (ha : b.active = a.active)
    (hs : b.staged = a.staged) : Track.Within a b :=
  ⟨hq ▸ List.Sublist.refl _, hr ▸ List.Sublist.refl _, .inl ha, hs⟩

theorem refl (a : Track) : Track.Within a a := of_eq rfl rfl rfl rfl

theorem trans {a b c : Track} (h : Track.Within a b) (k : Track.Within b c) : Track.Within a c where
  queue := k.queue.trans h.queue
  ring := k.ring.trans h.ring
  active := by
    obtain hc | hc := k.active
    · exact hc ▸ h.active
    · exact .inr (hc.trans h.staged)
  staged := k.staged.trans h.staged

theorem transfer {a b : Track} (h : Track.Within a b) : Track.Within a b.transfer := by
  refine h.trans ?_
  unfold Track.transfer
  split
  · dsimp only
    split <;> exact ⟨List.Sublist.refl _, List.Sublist.refl _, .inr rfl, rfl⟩
  · exact refl b

theorem silent {a b : Track} (h : Track.Within a b) : Track.Within a b.silent := h.trans (of_eq rfl rfl rfl rfl)

theorem idleTick {a b : Track} (h : Track.Within a b) : Track.Within a b.idleTick := by
  unfold Track.idleTick
  split
  · exact h.transfer.silent
  · exact h.silent

end Track.Within

/-! ### What the walk does to its own track -/

theorem Track.setPhase_eq (tr : Track) (p : WalkPhase) : tr.setPhase p = { tr with walk := (tr.setPhase p).walk } := rfl

theorem Track.walkOn_eq (tr : Track) (c : Copy) : tr.walkOn c = { tr with walk := (tr.walkOn c).walk } := by
  unfold Track.walkOn Track.afterTrailing Track.setPhase
  repeat' split
  all_goals rfl

theorem Track.Within.setWalk {a b : Track} (h : Track.Within a b) (w : Walk) : Track.Within a { b with walk := w } :=
  h.trans (.of_eq rfl rfl rfl rfl)

theorem Track.Within.setPhase {a b : Track} (h : Track.Within a b) (p : WalkPhase) : Track.Within a (b.setPhase p) :=
  h.setWalk _

theorem Track.Within.walkOn {a b : Track} (h : Track.Within a b) (c : Copy) : Track.Within a (b.walkOn c) := by
  rw [Track.walkOn_eq]
  exact h.setWalk _

theorem Track.endOfPlay_within {tr : Track} {c : Copy} (hc : tr.queue.getLast? = some c) :
    Track.Within tr (tr.endOfPlay c) := by
  have hqueue : tr.queue = tr.queue.dropLast ++ [c] := (List.dropLast_append_getLast? c hc).symm
  have hnext (n : Nat) : Track.Within tr { tr with queue := tr.queue.dropLast ++ [{ c with prepared := n }] } := by
    refine ⟨?_, List.Sublist.refl _, .inl rfl, rfl⟩
    conv_rhs => rw [hqueue]
    simp only [List.map_append, List.map_cons, List.map_nil, Copy.plays]
    exact List.Sublist.refl _
  unfold Track.endOfPlay
  dsimp only
  split
  · exact (Track.Within.refl tr).setPhase _
  · split
    · exact (hnext _).setPhase _
    · exact (hnext _).walkOn _

theorem Track.adoptPath_within (tr : Track) (chosen : PathTag) : Track.Within tr (tr.adoptPath chosen) := by
  refine ⟨?_, ?_, .inl rfl, rfl⟩
  · simp only [Track.adoptPath, List.map_map]
    exact List.Sublist.refl _
  · simp only [Track.adoptPath, List.map_map]
    rw [List.map_congr_left (g := Slot.clip) fun x _ => ?_]
    simp only [Function.comp_apply]
    split <;> rfl

theorem Track.releaseWalk_within (tr : Track) : Track.Within tr tr.releaseWalk := by
  have hring : Track.Within tr { tr with ring := tr.ring.map fun x => { x with gated := false } } := by
    refine ⟨List.Sublist.refl _, ?_, .inl rfl, rfl⟩
    simp only [List.map_map]
    exact List.Sublist.refl _
  unfold Track.releaseWalk
  dsimp only
  split
  · exact hring.setPhase _
  · exact hring

theorem Track.decide_within (tr : Track) (taken : Bool) (c : Copy) : Track.Within tr (tr.decide taken c) := by
  simp only [Track.decide, Track.handDecision]
  repeat' split
  all_goals exact .of_eq rfl rfl rfl rfl

theorem Track.stopRequest_within {tr u : Track} {m : StopMode} (h : tr.stopRequest m = .ok u) : Track.Within tr u := by
  simp only [Track.stopRequest, Track.cancelStart, Track.stopPlaying] at h
  split at h
  · cases h
    exact (Track.Within.refl tr).transfer.trans (.of_eq rfl rfl rfl rfl)
  · cases h
    repeat' split
    all_goals exact .of_eq rfl rfl rfl rfl
  · cases h
    exact .of_eq rfl rfl rfl rfl
  · split at h
    · cases h
      exact .of_eq rfl rfl rfl rfl
    · cases h
  all_goals cases h

/-! ### Properties that playback keeps -/

theorem State.core_track {s u : State} (h : s.core = u.core) (t : TrackId) : s.track t = u.track t := by
  simp only [State.track, (core_eq_iff.mp h).2.1]

/-- A property of the core that the operations of a track's lookahead and of the live parameters keep. -/
structure KeptByPlayback (P : State → Prop) : Prop where
  congr : ∀ {s u : State}, P s → s.Rests u → P u
  setTrack : ∀ t tr s, Track.Within (s.track t) tr → P s → P (s.setTrack t tr)
  takeCopy : ∀ t i trailing s, (s.track t).queue.length < Config.entryQueue → P s → P (takeCopy t i trailing s)
  formSplit : ∀ t c s, (s.track t).queue.length + 2 ≤ Config.entryQueue → P s → P (formSplit t c s)
  addSlot : ∀ t c id k gated s, c ∈ (s.track t).queue → c.status = .good ∨ k < c.length →
    (s.track t).ring.length < Config.ringSlots → P s → P (addSlot t (c.slot id k gated) s)
  dropSlots : ∀ t dead s, P s → P (dropSlots t dead s)
  clampTrack : ∀ t c s, c ∈ (s.track t).queue → P s → P (clampTrack t c.entry s)
  levelTick : ∀ t c data s, c ∈ (s.track t).queue → P s → P (levelTick t c data s)

namespace KeptByPlayback

variable {P : State → Prop}

theorem modTrack (h : KeptByPlayback P) {t : TrackId} {f : Track → Track} {s : State}
    (hf : Track.Within (s.track t) (f (s.track t))) (hs : P s) : P (s.modTrack t f) :=
  h.setTrack t _ s hf hs

theorem modAny (h : KeptByPlayback P) {t : TrackId} {f : Track → Track} {s : State}
    (hf : ∀ tr, Track.Within tr (f tr)) (hs : P s) : P (s.modTrack t f) :=
  h.setTrack t _ s (hf _) hs

theorem raise (h : KeptByPlayback P) {s : State} (n : SourceId) (c : Cause) (hs : P s) : P (s.raise n c) :=
  h.congr hs (.raise (.refl s) n c)

/-! #### The lookahead -/

theorem nextSplit_spec {tr : Track} {c : Copy} {k : Nat} (h : tr.nextSplit = some (c, k)) :
    c ∈ tr.queue ∧ c.status = .good := by
  have hgood {a : Copy} {n : Nat} (hn : n < a.splitSlots) : a.status = .good := by
    by_contra hbad
    simp [Copy.splitSlots, hbad] at hn
  simp only [Track.nextSplit] at h
  split at h
  next a b ha hb =>
    split at h
    next hmade =>
      cases h
      simp only [Bool.and_eq_true, decide_eq_true_eq] at hmade
      exact ⟨List.mem_of_find?_eq_some ha, hgood hmade.1⟩
    next =>
      split at h
      next hfell =>
        cases h
        exact ⟨List.mem_of_find?_eq_some hb, hgood hfell⟩
      next => cases h
  next => cases h

theorem walkStep (h : KeptByPlayback P) {t : TrackId} {s u : State} (hu : walkStep t s = some u) (hs : P s) : P u := by
  simp only [Machine.walkStep] at hu
  split at hu
  case h_1 | h_2 | h_3 | h_4 => cases hu
  case h_5 i trailing _ =>
    split at hu
    next hroom =>
      cases hu
      exact h.takeCopy t i trailing s hroom hs
    next => cases hu
  case h_6 k _ =>
    split at hu
    next => cases hu
    next c hc =>
      split at hu
      next =>
        cases hu
        exact h.setTrack t _ s (Track.endOfPlay_within hc) hs
      next hk =>
        split at hu
        next hroom =>
          cases hu
          refine h.addSlot t c _ k _ _ ?_ (.inr (Nat.lt_of_not_le hk)) ?_
            (h.setTrack t _ s ((Track.Within.refl _).setPhase _) hs) <;> rw [State.setTrack_track_same]
          · exact List.mem_of_getLast? hc
          · exact hroom
        next => cases hu
  case h_7 =>
    split at hu
    next => cases hu
    next c hc =>
      split at hu
      next hroom =>
        cases hu
        exact h.formSplit t c s hroom hs
      next => cases hu
  case h_8 =>
    split at hu
    next => cases hu
    next c k hsplit =>
      split at hu
      next hroom =>
        cases hu
        obtain ⟨hc, hgood⟩ := nextSplit_spec hsplit
        exact h.addSlot t c _ k _ s hc (.inl hgood) hroom hs
      next => cases hu

theorem walkLoop (h : KeptByPlayback P) (t : TrackId) (n : Nat) (s : State) (hs : P s) : P (walkLoop t n s) := by
  induction n generalizing s with
  | zero => exact hs
  | succ n ih =>
    rw [Machine.walkLoop]
    split
    next => exact hs
    next u hu => exact ih u (h.walkStep hu hs)

theorem checkPriming (h : KeptByPlayback P) (t : TrackId) (s : State) (hs : P s) : P (checkPriming t s) := by
  simp only [Machine.checkPriming]
  split
  · split
    · exact h.raise _ _ (h.setTrack t _ s (.of_eq rfl rfl rfl rfl) hs)
    · exact h.setTrack t _ s (.of_eq rfl rfl rfl rfl) hs
  · exact hs

theorem walk (h : KeptByPlayback P) (t : TrackId) (s : State) (hs : P s) : P (walk t s) :=
  h.checkPriming t _ (h.walkLoop t walkBound s hs)

theorem discardAll (h : KeptByPlayback P) (t : TrackId) (s : State) (hs : P s) : P (discardAll t s) := by
  unfold Machine.discardAll
  exact h.dropSlots t _ _ (h.modTrack ⟨List.nil_sublist _, List.Sublist.refl _, .inl rfl, rfl⟩ hs)

theorem restartWalk (h : KeptByPlayback P) (t : TrackId) (s : State) (hs : P s) : P (restartWalk t s) := by
  unfold Machine.restartWalk
  exact h.walk t _ (h.modAny (fun tr => (Track.Within.refl tr).setWalk _) hs)

theorem breakWalk (h : KeptByPlayback P) (t : TrackId) (s : State) (hs : P s) : P (breakWalk t s) := by
  simp only [Machine.breakWalk]
  split
  next => exact hs
  next c r hqueue =>
    refine h.walk t _ (h.dropSlots t _ _ (h.setTrack t _ s ⟨?_, List.Sublist.refl _, .inl rfl, rfl⟩ hs))
    rw [hqueue]
    exact (List.nil_sublist _).cons_cons c.plays

theorem resolveSplit (h : KeptByPlayback P) (t : TrackId) (chosen : PathTag) (s : State) (hs : P s) :
    P (resolveSplit t chosen s) := by
  unfold Machine.resolveSplit
  refine h.modAny (fun tr => tr.adoptPath_within chosen) (h.dropSlots t _ _ (h.modTrack ?_ hs))
  exact ⟨List.filter_sublist.map _, List.Sublist.refl _, .inl rfl, rfl⟩

/-! #### Playing a block -/

theorem underrun (h : KeptByPlayback P) (t : TrackId) (s : State) (hs : P s) : P (underrun t s) := by
  unfold Machine.underrun
  exact h.raise _ _ (h.modAny (fun _ => .of_eq rfl rfl rfl rfl) hs)

theorem readFault (h : KeptByPlayback P) (t : TrackId) (s : State) (hs : P s) : P (readFault t s) := by
  unfold Machine.readFault
  exact h.raise _ _ (h.modAny (fun _ => .of_eq rfl rfl rfl rfl) hs)

theorem skipBlock (h : KeptByPlayback P) (t : TrackId) (s : State) (hs : P s) : P (s.modTrack t Track.skipBlock) := by
  refine h.modAny (fun tr => ?_) hs
  unfold Track.skipBlock
  repeat' split
  all_goals exact .of_eq rfl rfl rfl rfl

theorem consume (h : KeptByPlayback P) (t : TrackId) (s : State) (hs : P s) : P (consume t s).2 := by
  unfold Machine.consume
  split
  · exact h.underrun t _ (h.skipBlock t s hs)
  next x r _ =>
    split
    · exact h.underrun t _ (h.skipBlock t s hs)
    · have hdrop := h.dropSlots t [x.id] s hs
      generalize Machine.dropSlots t [x.id] s = u at hdrop
      dsimp only
      split
      · exact hdrop
      · exact h.readFault t _ hdrop
      all_goals exact h.underrun t _ hdrop

end KeptByPlayback

theorem dropSlots_queue (t : TrackId) (dead : List Nat) (s : State) :
    ((dropSlots t dead s).track t).queue = (s.track t).queue := by
  have h := congrArg Track.queue ((dropSlots_work t dead s).tracks t).1
  simpa using h

theorem Track.skipBlock_queue (tr : Track) : tr.skipBlock.queue = tr.queue := by
  unfold Track.skipBlock Track.setPhase
  repeat' split
  all_goals rfl

theorem underrun_queue (t : TrackId) (s : State) : ((underrun t s).track t).queue = (s.track t).queue := by
  simp [underrun]

theorem readFault_queue (t : TrackId) (s : State) : ((readFault t s).track t).queue = (s.track t).queue := by
  simp [readFault]

theorem consume_queue (t : TrackId) (s : State) : ((consume t s).2.track t).queue = (s.track t).queue := by
  unfold consume
  repeat' split
  all_goals simp [underrun_queue, readFault_queue, dropSlots_queue, Track.skipBlock_queue]

theorem clampTrack_queue (t : TrackId) (e : CueEntry) (s : State) :
    ((clampTrack t e s).track t).queue = (s.track t).queue := by
  simp only [clampTrack]
  split <;> simp

theorem Track.transfer_queue (tr : Track) : tr.transfer.queue = tr.queue := by
  unfold Track.transfer
  split
  · dsimp only
    split <;> rfl
  · rfl

theorem State.flagAction_rests (s : State) (a : FlagAction) (f : FlagId) : s.Rests (s.flagAction a f) := by
  cases a <;> exact .of_same rfl rfl rfl

theorem pulseMarkers_rests (mask : BitVec 4) (s : State) : s.Rests (pulseMarkers mask s) := by
  unfold pulseMarkers
  refine forEach_inv _ _ s.Rests (fun u m hu => hu.trans ?_) s (.refl s)
  unfold pulseMarker
  split
  · exact .of_same rfl rfl rfl
  · exact .refl u

theorem startActions_rests (t : TrackId) (e : CueEntry) (s : State) : s.Rests (startActions t e s) := by
  unfold startActions
  exact .raiseIf ((s.flagAction_rests _ _).trans (pulseMarkers_rests _ _)) _ _ _

theorem startActions_core (t : TrackId) (e : CueEntry) (s : State) : (startActions t e s).core = s.core :=
  (startActions_rests t e s).core.symm

namespace KeptByPlayback

variable {P : State → Prop}

theorem playBlock (h : KeptByPlayback P) {t : TrackId} {c : Copy} {s : State} (entryStart : Bool)
    (hc : c ∈ (s.track t).queue) (hs : P s) : P (playBlock t c entryStart s) := by
  unfold Machine.playBlock
  have htaken := h.consume t s hs
  rw [← consume_queue t s] at hc
  generalize Machine.consume t s = taken at htaken hc
  dsimp only
  generalize ((taken.2.track t).transferPoint entryStart c.entry && (taken.2.track t).stagedPending) = transfers
  have hmoved : ∃ u, (if transfers then taken.2.setTrack t (taken.2.track t).transfer else taken.2) = u ∧ P u ∧
      c ∈ (u.track t).queue := by
    refine ⟨_, rfl, ?_⟩
    split
    · refine ⟨h.setTrack t _ _ (Track.Within.refl _).transfer htaken, ?_⟩
      rwa [State.setTrack_track_same, Track.transfer_queue]
    · exact ⟨htaken, hc⟩
  obtain ⟨u, hu, hkept, hmem⟩ := hmoved
  rw [hu]
  refine h.walk t _ (h.levelTick t c taken.1 _ ?_ ?_)
  · split
    · rwa [clampTrack_queue]
    · exact hmem
  · split
    · exact h.clampTrack t c u hmem hkept
    · exact hkept

/-! #### Faults, stops, entry starts and boundaries -/

theorem faultTrack (h : KeptByPlayback P) (t : TrackId) (reason : FaultReason) (i : CueIndex) (s : State) (hs : P s) :
    P (faultTrack t reason i s) := by
  unfold Machine.faultTrack
  refine h.raise _ _ (h.modAny (fun tr => ?_) (h.discardAll t s hs))
  exact (Track.Within.refl tr).transfer.silent.trans (.of_eq rfl rfl rfl rfl)

theorem completeStop (h : KeptByPlayback P) (t : TrackId) (cause : Cause) (s : State) (hs : P s) :
    P (completeStop t cause s) := by
  unfold Machine.completeStop
  refine h.restartWalk t _ (h.raise _ _ (h.modAny (fun tr => ?_) (h.discardAll t s hs)))
  exact (Track.Within.refl tr).transfer.silent.trans (.of_eq rfl rfl rfl rfl)

theorem beginFront (h : KeptByPlayback P) (t : TrackId) (s : State) (hs : P s) : P (beginFront t s) := by
  unfold Machine.beginFront
  split
  · exact hs
  next c r hqueue =>
    split
    · exact h.faultTrack t _ _ s hs
    · have hstart := startActions_core t c.entry
        (s.modTrack t fun tr => { tr with playNumber := 1, block := 0, lastPlay := false })
      refine h.playBlock true ?_ (h.congr (h.modTrack ?_ hs) (startActions_rests t c.entry _))
      · rw [State.core_track hstart, State.modTrack_track_same]
        simp [hqueue]
      · exact .of_eq rfl rfl rfl rfl

theorem beginNext (h : KeptByPlayback P) (t : TrackId) {leave : Track → Track}
    (hleave : ∀ tr, Track.Within tr (leave tr)) (s : State) (hs : P s) : P (beginNext t leave s) := by
  unfold Machine.beginNext
  split
  next d c r hqueue =>
    refine h.beginFront t _ (h.modTrack ?_ hs)
    obtain ⟨hq, hr, ha, hst⟩ := hleave (s.track t)
    refine ⟨?_, hr, ha, hst⟩
    rw [hqueue]
    exact List.sublist_cons_self _ _
  next => exact hs

theorem followEntry (h : KeptByPlayback P) (t : TrackId) (c : Copy) (s : State) (hs : P s) : P (followEntry t c s) := by
  have hnext := h.beginNext t (leave := id) (fun tr => Track.Within.refl tr)
  unfold Machine.followEntry
  split
  · unfold afterTrailing
    split
    · exact h.faultTrack t _ _ s hs
    · refine h.beginNext t (fun tr => ?_) s hs
      exact .of_eq rfl rfl rfl rfl
  · split
    · exact h.beginNext t (fun tr => tr.decide_within _ c) s hs
    · split
      case h_1 | h_2 => exact hnext s hs
      case h_3 =>
        refine h.beginNext t (fun tr => ?_) s hs
        exact .of_eq rfl rfl rfl rfl
      case h_4 =>
        split
        · exact hnext s hs
        · exact h.faultTrack t _ _ s hs
      case h_5 | h_6 =>
        unfold resolveIf
        refine hnext _ ?_
        split
        · exact h.resolveSplit t _ s hs
        · exact hs
      case h_7 =>
        unfold holdBoundary
        split
        · exact h.completeStop t _ s hs
        · split
          · exact h.beginNext t (fun tr => tr.releaseWalk_within) s hs
          · exact h.modAny (fun tr => (Track.Within.refl tr).idleTick.trans (.of_eq rfl rfl rfl rfl)) hs
      case h_8 => exact h.completeStop t _ s hs

theorem boundary (h : KeptByPlayback P) {t : TrackId} {c : Copy} {s : State} (hc : c ∈ (s.track t).queue) (hs : P s) :
    P (boundary t c s) := by
  unfold Machine.boundary
  dsimp only
  split
  · exact h.completeStop t _ s hs
  · split
    · refine h.playBlock false ?_ (h.setTrack t _ s (.of_eq rfl rfl rfl rfl) hs)
      rwa [State.setTrack_track_same]
    · exact h.followEntry t c s hs

theorem advanceStopFade_eq (tr : Track) : tr.advanceStopFade = { tr with stopFade := tr.advanceStopFade.stopFade } := by
  unfold Track.advanceStopFade
  split <;> rfl

theorem playTick (h : KeptByPlayback P) (t : TrackId) (s : State) (hs : P s) : P (playTick t s) := by
  unfold Machine.playTick
  dsimp only
  split
  · exact h.completeStop t _ s hs
  · split
    · exact hs
    next c r hqueue =>
      have hmem : c ∈ (s.track t).queue := by simp [hqueue]
      rw [advanceStopFade_eq]
      split
      · refine h.boundary ?_ (h.setTrack t _ s (.of_eq rfl rfl rfl rfl) hs)
        rwa [State.setTrack_track_same]
      · refine h.playBlock false ?_ (h.setTrack t _ s (.of_eq rfl rfl rfl rfl) hs)
        rwa [State.setTrack_track_same]

theorem idle (h : KeptByPlayback P) (t : TrackId) (s : State) (hs : P s) : P (s.modTrack t Track.idleTick) :=
  h.modAny (fun tr => (Track.Within.refl tr).idleTick) hs

theorem startTick (h : KeptByPlayback P) (t : TrackId) (s : State) (hs : P s) : P (startTick t s) := by
  unfold Machine.startTick
  split
  · unfold beginTrack
    split
    · exact hs
    · split
      · exact h.faultTrack t _ _ s hs
      · refine h.raise _ _ (h.beginFront t _ (h.modAny (fun tr => ?_) hs))
        exact .of_eq rfl rfl rfl rfl
  · split
    · refine h.raise _ _ (h.modAny (fun tr => ?_) hs)
      exact (Track.Within.refl tr).idleTick.trans (.of_eq rfl rfl rfl rfl)
    · exact h.idle t s hs

theorem holdTick (h : KeptByPlayback P) (t : TrackId) (s : State) (hs : P s) : P (holdTick t s) := by
  unfold Machine.holdTick
  dsimp only
  split
  · exact h.completeStop t _ s hs
  · split
    · refine h.beginNext t (fun tr => ?_) s hs
      exact tr.releaseWalk_within.trans (.of_eq rfl rfl rfl rfl)
    · exact h.setTrack t _ s (Track.Within.refl _).idleTick hs

theorem trackTick (h : KeptByPlayback P) (t : TrackId) (s : State) (hs : P s) : P (trackTick t s) := by
  have hmarked : P (s.markTrack t) := h.congr hs (.of_same rfl rfl rfl)
  unfold Machine.trackTick
  dsimp only
  split
  · exact hs
  · split
    · exact h.startTick t _ hmarked
    · exact h.holdTick t _ hmarked
    · exact h.playTick t _ hmarked
    · exact h.playTick t _ hmarked
    all_goals exact h.modAny (fun tr => (Track.Within.refl tr).silent) hmarked

/-! #### The track requests -/

theorem armTrack (h : KeptByPlayback P) (t : TrackId) (home : CueIndex) (s : State) (hs : P s) :
    P (armTrack t home s) := by
  unfold Machine.armTrack
  refine h.restartWalk t _ (h.congr (h.modAny (fun tr => ?_) (h.discardAll t s hs)) (.withdraw (.refl _) _))
  exact .of_eq rfl rfl rfl rfl

theorem goTrack (h : KeptByPlayback P) (t : TrackId) (c : StartCond) (s : State) (hs : P s) : P (goTrack t c s) := by
  unfold Machine.goTrack
  split
  · split
    · exact h.modAny (fun _ => .of_eq rfl rfl rfl rfl) hs
    · exact h.raise _ _ (h.modAny (fun _ => .of_eq rfl rfl rfl rfl) hs)
  · exact h.modAny (fun _ => .of_eq rfl rfl rfl rfl) hs

theorem breakPlay (h : KeptByPlayback P) (t : TrackId) (s : State) (hs : P s) : P (breakPlay t s) := by
  unfold Machine.breakPlay
  exact h.breakWalk t _ (h.modAny (fun _ => .of_eq rfl rfl rfl rfl) hs)

theorem clearTrack (h : KeptByPlayback P) (t : TrackId) (s : State) (hs : P s) : P (clearTrack t s) := by
  unfold Machine.clearTrack
  refine h.modAny (fun tr => ?_) (h.discardAll t s hs)
  exact (Track.Within.refl tr).transfer.trans (.of_eq rfl rfl rfl rfl)

theorem meetTrigger (h : KeptByPlayback P) (n : LineId) (s : State) (hs : P s) : P (meetTrigger n s) := by
  unfold Machine.meetTrigger
  refine forEach_inv _ _ P (fun u t hu => ?_) s hs
  exact h.modAny (fun _ => .of_eq rfl rfl rfl rfl) hu

end KeptByPlayback

end Sys2Proof.Machine
end

section
/-! PROOFS. What bank service keeps (chapter 07): a property that stands under the moves of one bank's reads and
operation, and under the operations a free bank starts, stands under everything that bank does by itself; and one that
every bank and the lookahead keep stands under playback. -/

namespace Sys2Proof.Machine

/-- Bank `k` has moved to `k'` within its operation in progress: the marks, the policy and the pages stand, the fetch
queue is within its bound or has not grown, and an operation is one that was in progress, not newly SUSPENDING at the
cap. -/
structure Bank.Moves (k k' : Bank) : Prop where
  rest : { k with op := k'.op, fetch := k'.fetch, inFlight := k'.inFlight } = k'
  fetch : k'.fetch.length ≤ max Config.fetchQueue k.fetch.length
  op : ∀ o', k'.op = some o' → ∃ o, k.op = some o ∧ o'.kind = o.kind ∧ o'.count = o.count ∧
    (o'.sub = .suspending → o.sub = .suspending ∨ o.count < Config.suspensionCap)

theorem Bank.Moves.of_op {k k' : Bank} (rest : { k with op := k'.op, fetch := k'.fetch, inFlight := k'.inFlight } = k')
    (fetch : k'.fetch.length ≤ max Config.fetchQueue k.fetch.length) (op : k'.op = k.op) : Bank.Moves k k' where
  rest := rest
  fetch := fetch
  op o' h := ⟨o', op ▸ h, rfl, rfl, .inl⟩

/-- A property of the core that what bank `b` does by itself keeps. -/
structure KeptByBank (b : BankId) (P : State → Prop) : Prop where
  congr : ∀ {s u : State}, P s → s.Rests u → P u
  setTrack : ∀ t tr s, Track.Within (s.track t) tr → P s → P (s.setTrack t tr)
  move : ∀ k s, Bank.Moves (s.bank b) k → P s → P (s.setBank b k)
  startProgram : ∀ p r s, (s.bank b).programQueue = p :: r → P s →
    P (s.setBank b { s.bank b with op := some (Operation.fresh (.program p.clip p.index)) })
  startErase : ∀ n s, s.store.scanning = false → n ∈ s.erasable b → P s →
    P ((s.setSector b n .erasing).setBank b { s.bank b with op := some (Operation.fresh (.erase n)) })

theorem Track.modSlot_within (tr : Track) (id : Nat) {f : Slot → Slot} (hf : ∀ x, (f x).clip = x.clip) :
    Track.Within tr (tr.modSlot id f) := by
  refine ⟨List.Sublist.refl _, ?_, .inl rfl, rfl⟩
  simp only [Track.modSlot, List.map_map]
  rw [List.map_congr_left (g := Slot.clip) fun x _ => ?_]
  simp only [Function.comp_apply]
  split
  · exact hf x
  · rfl

namespace KeptByBank

variable {b : BankId} {P : State → Prop}

theorem modBank (h : KeptByBank b P) {f : Bank → Bank} (hf : ∀ k, Bank.Moves k (f k)) {s : State} (hs : P s) :
    P (s.modBank b f) :=
  h.move _ s (hf _) hs

theorem modSlot (h : KeptByBank b P) (t : TrackId) (id : Nat) (x : SlotState) {s : State} (hs : P s) :
    P (s.modTrack t fun tr => tr.modSlot id fun y => { y with state := x }) :=
  h.setTrack t _ s (Track.modSlot_within _ id fun _ => rfl) hs

theorem suspendReact (h : KeptByBank b P) (s : State) (hs : P s) : P (suspendReact b s) := by
  simp only [Machine.suspendReact]
  split
  next => exact hs
  next op hop =>
    split
    · split
      next hcount =>
        refine h.move _ s ⟨rfl, le_max_right _ _, fun o' ho' => ?_⟩ hs
        cases ho'
        exact ⟨op, hop, rfl, rfl, fun _ => .inr hcount⟩
      next =>
        split
        · exact hs
        · refine h.congr (h.move { s.bank b with op := some { op with cap := true } } s
            ⟨rfl, le_max_right _ _, fun o' ho' => ?_⟩ hs) (.raise (.refl _) _ _)
          cases ho'
          exact ⟨op, hop, rfl, rfl, .inl⟩
    · exact hs

theorem joinFetch (h : KeptByBank b P) (r : FetchRequest) (s : State)
    (hroom : (s.bank b).fetch.length < Config.fetchQueue) (hs : P s) : P (joinFetch b r s) := by
  unfold Machine.joinFetch
  refine h.suspendReact _ (h.modSlot _ _ _ (h.move _ s (.of_op rfl ?_ rfl) hs))
  simp only [List.length_append, List.length_singleton]
  omega

theorem offerPlaces (h : KeptByBank b P) (n : Nat) (s : State) (hs : P s) : P (offerPlaces b n s) := by
  induction n generalizing s with
  | zero => exact hs
  | succ n ih =>
    rw [Machine.offerPlaces]
    split
    next hroom =>
      split
      · exact hs
      · exact ih _ (h.joinFetch _ s hroom hs)
    next => exact hs

theorem startRead (h : KeptByBank b P) (s : State) (hs : P s) : P (startRead b s) := by
  unfold Machine.startRead
  split
  · exact hs
  next r _ =>
    refine h.offerPlaces _ _ (h.modSlot _ _ _ (h.modBank (fun k => ?_) hs))
    exact .of_op rfl (le_trans List.length_erase_le (le_max_right _ _)) rfl

theorem startStore (h : KeptByBank b P) (s : State) (hscan : s.store.scanning = false) (hs : P s) :
    P (startStore b s) := by
  simp only [Machine.startStore]
  split
  next p r hqueue => exact h.startProgram p r s hqueue hs
  next =>
    split
    · split
      next => exact hs
      next n hn => exact h.startErase n s hscan (leastBy_mem id _ n hn) hs
    · exact hs

theorem bankSettle (h : KeptByBank b P) (s : State) (hs : P s) : P (bankSettle b s) := by
  simp only [Machine.bankSettle]
  split
  next => exact hs
  next hbusy =>
    simp only [Bool.or_eq_true, not_or, Bool.not_eq_true] at hbusy
    split
    next =>
      split
      · exact h.startStore s hbusy.1 hs
      · exact h.startRead s hs
    next op hop =>
      split
      · split
        · refine h.move _ s ⟨rfl, le_max_right _ _, fun o' ho' => ?_⟩ hs
          cases ho'
          exact ⟨op, hop, rfl, rfl, fun hsub => by cases hsub⟩
        · exact h.startRead s hs
      · exact hs

theorem withdrawFrom (h : KeptByBank b P) (dead : List Nat) (s : State) (hs : P s) : P (withdrawFrom dead s b) := by
  simp only [Machine.withdrawFrom]
  split
  · refine h.bankSettle _ (h.offerPlaces _ _ (h.modBank (fun k => ?_) hs))
    exact .of_op rfl (le_trans (List.length_filter_le _ _) (le_max_right _ _)) rfl
  · exact hs

end KeptByBank

/-- A property of the core that every bank's own service, the copies and slots a track makes, and the moves of live
parameters keep. -/
structure KeptByPrefetch (P : State → Prop) : Prop where
  congr : ∀ {s u : State}, P s → s.Rests u → P u
  setTrack : ∀ t tr s, Track.Within (s.track t) tr → P s → P (s.setTrack t tr)
  takeCopy : ∀ t i trailing s, (s.track t).queue.length < Config.entryQueue → P s → P (takeCopy t i trailing s)
  formSplit : ∀ t c s, (s.track t).queue.length + 2 ≤ Config.entryQueue → P s → P (formSplit t c s)
  pushSlot : ∀ t c id k gated s, c ∈ (s.track t).queue → c.status = .good ∨ k < c.length →
    (s.track t).ring.length < Config.ringSlots → P s →
    P (s.modTrack t fun tr => { tr with ring := tr.ring ++ [c.slot id k gated] })
  clampTrack : ∀ t c s, c ∈ (s.track t).queue → P s → P (clampTrack t c.entry s)
  levelTick : ∀ t c data s, c ∈ (s.track t).queue → P s → P (levelTick t c data s)
  bank : ∀ b, KeptByBank b P

namespace KeptByPrefetch

variable {P : State → Prop}

theorem addSlot (h : KeptByPrefetch P) (t : TrackId) (c : Copy) (id k : Nat) (gated : Bool) (s : State)
    (hc : c ∈ (s.track t).queue) (hk : c.status = .good ∨ k < c.length)
    (hroom : (s.track t).ring.length < Config.ringSlots) (hs : P s) : P (addSlot t (c.slot id k gated) s) := by
  have hpush : P { s.modTrack t fun tr => { tr with ring := tr.ring ++ [c.slot id k gated] } with
      slotSeq := s.slotSeq + 1 } :=
    h.congr (h.pushSlot t c id k gated s hc hk hroom hs) (.of_same rfl rfl rfl)
  simp only [Machine.addSlot]
  split
  next => exact hpush
  next r _ =>
    split
    next hfetch => exact (h.bank _).bankSettle _ ((h.bank _).joinFetch r _ hfetch hpush)
    next => exact hpush

theorem dropSlots (h : KeptByPrefetch P) (t : TrackId) (dead : List Nat) (s : State) (hs : P s) :
    P (dropSlots t dead s) := by
  unfold Machine.dropSlots
  refine forEach_inv allFour _ P (fun u b => (h.bank b).withdrawFrom dead u) _ (h.setTrack t _ s ?_ hs)
  exact ⟨List.Sublist.refl _, List.filter_sublist.map _, .inl rfl, rfl⟩

theorem playback (h : KeptByPrefetch P) : KeptByPlayback P where
  congr := h.congr
  setTrack := h.setTrack
  takeCopy := h.takeCopy
  formSplit := h.formSplit
  addSlot := h.addSlot
  dropSlots := h.dropSlots
  clampTrack := h.clampTrack
  levelTick := h.levelTick

end KeptByPrefetch

/-! ### Properties that the live parameters do not touch -/

/-- Track `b` prepares no more than track `a`: its copies play what copies of `a` play, and its slots are for the clips
of slots of `a`. -/
structure Track.Prepares (a b : Track) : Prop where
  queue : (b.queue.map Copy.plays).Sublist (a.queue.map Copy.plays)
  ring : (b.ring.map Slot.clip).Sublist (a.ring.map Slot.clip)

theorem Track.Prepares.of_eq {a b : Track} (hq : b.queue = a.queue) (hr : b.ring = a.ring) : Track.Prepares a b :=
  ⟨hq ▸ List.Sublist.refl _, hr ▸ List.Sublist.refl _⟩

theorem Track.Within.prepares {a b : Track} (h : Track.Within a b) : Track.Prepares a b := ⟨h.queue, h.ring⟩

/-- A property of the core that does not look at the live parameters. -/
structure BlindToParams (P : State → Prop) : Prop where
  congr : ∀ {s u : State}, P s → s.Rests u → P u
  setTrack : ∀ t tr s, Track.Prepares (s.track t) tr → P s → P (s.setTrack t tr)

namespace BlindToParams

variable {P : State → Prop}

theorem modTrack (h : BlindToParams P) {t : TrackId} {f : Track → Track} (hf : ∀ tr, Track.Prepares tr (f tr))
    {s : State} (hs : P s) : P (s.modTrack t f) :=
  h.setTrack t _ s (hf _) hs

theorem clampTrack (h : BlindToParams P) (t : TrackId) (e : CueEntry) (s : State) (hs : P s) : P (clampTrack t e s) := by
  simp only [Machine.clampTrack]
  split
  · refine h.congr ?_ (.raise (.refl _) _ _)
    refine h.setTrack t _ s ?_ hs
    exact .of_eq rfl rfl
  · exact hs

theorem computeFeed (h : BlindToParams P) (t : TrackId) (tr : Track) (c : Copy) (word : BitVec 32)
    (data : Option (List Byte)) (s : State) (f : Feed) (hs : P s) : P (computeFeed t tr c word data s f) := by
  simp only [Machine.computeFeed]
  refine h.modTrack (fun x => ?_) (h.congr hs (.setPort (.refl s) f.port (x := { s.port f.port with
    feeds := _, sum := _ }) id))
  exact .of_eq rfl rfl

theorem Track.advanceGate_prepares (tr : Track) : Track.Prepares tr tr.advanceGate := by
  unfold Track.advanceGate
  repeat' split
  all_goals exact .of_eq rfl rfl

theorem levelTick (h : BlindToParams P) (t : TrackId) (c : Copy) (data : Option (List Byte)) (s : State) (hs : P s) :
    P (levelTick t c data s) := by
  unfold Machine.levelTick
  have hsilent : P (s.setTrack t (s.track t).silent) := h.setTrack t _ s (.of_eq rfl rfl) hs
  have hfeeds := forEach_inv (s.liveFeeds (s.track t)) _ P
    (fun u f hu => h.computeFeed t (s.track t) c (ncoWord (c.entry.freq + (s.track t).active.detune)) data u f hu)
    _ hsilent
  refine h.modTrack Track.advanceGate_prepares (h.clampTrack t _ _ (h.congr (h.modTrack (fun x => ?_) hfeeds)
    (.raiseIf (.refl _) _ _ _)))
  exact .of_eq rfl rfl

theorem bank (h : BlindToParams P) {b : BankId} (move : ∀ k s, Bank.Moves (s.bank b) k → P s → P (s.setBank b k))
    (startProgram : ∀ p r s, (s.bank b).programQueue = p :: r → P s →
      P (s.setBank b { s.bank b with op := some (Operation.fresh (.program p.clip p.index)) }))
    (startErase : ∀ n s, s.store.scanning = false → n ∈ s.erasable b → P s →
      P ((s.setSector b n .erasing).setBank b { s.bank b with op := some (Operation.fresh (.erase n)) })) :
    KeptByBank b P where
  congr := h.congr
  setTrack t tr s hw := h.setTrack t tr s hw.prepares
  move := move
  startProgram := startProgram
  startErase := startErase

end BlindToParams

end Sys2Proof.Machine
end

section
/-! PROOFS. What the store operations keep (chapter 06): with playback and the banks' own service, they are all that can
break a property of cue memory, tracks, store and banks. -/

namespace Sys2Proof.Machine

/-- The sweep mark, the erase hold, the policy and auto-sweep of a bank, changed. -/
def Bank.marked (k : Bank) (sweep hold : Bool) (policy : Policy) (auto : Bool) : Bank :=
  { k with sweep := sweep, eraseHold := hold, policy := policy, autoSweep := auto }

/-- The state of a warm reset before the banks go on (R196). -/
def State.warm (s : State) : State :=
  { s with
    tracks := Vector.replicate 48 Track.reset
    flags := 0
    ports := s.ports.map Port.warmReset
    banks := s.banks.map fun k => { k with fetch := [] }
    timeline := { s.timeline with pendingSet := none }
    lines := s.lines.warmReset
    notices := s.notices.warmReset
    link := { s.link with requests := s.link.requests.take 1 } }

theorem warmReset_eq (s : State) : warmReset s = forEach allFour (fun s b => bankSettle b s) s.warm := rfl

/-- The state after the power-up scan, before the banks go on (R137). -/
def State.scanned (s : State) : State :=
  { s with
    store :=
      { s.store with
        scanning := false
        clips := s.store.clips.map (fun e => (e.1, e.2.scanned))
        sectors := s.store.sectors.map (fun e => (e.1, e.2.scanned)) } }

/-- The state of a page taken by CLIP DATA, before the bank goes on (R124). -/
def State.withPage (s : State) (c : ClipId) (data : List Byte) : State :=
  let r := s.clip c
  (s.setClip c
    { r with
      nextPage := r.nextPage + 1
      ended := r.ended || data.length / blockBytes r.decimation < r.decimation }).modBank r.bank fun k =>
    { k with programQueue := k.programQueue ++ [{ clip := c, index := r.nextPage, data := data }] }

theorem acceptPage_eq (c : ClipId) (data : List Byte) (s : State) :
    acceptPage c data s = bankSettle (s.clip c).bank (s.withPage c data) := rfl

/-- A property of the core that what the store operations do before the banks go on keeps. -/
structure KeptByStoreOps (P : State → Prop) : Prop where
  putEntries : ∀ i n p es s, readEntries n p = some es → P s → P (putEntries i es s)
  tuneTrack : ∀ t v p s, readTune p = some v → P s → P (s.modTrack t fun tr => tr.tune v)
  feedTrack : ∀ t now fs p s, readFeedList p = some (now, fs) → P s → P (s.modTrack t fun tr => tr.feed now fs)
  openClip : ∀ v first p s, readOpen p = some v → s.store.scanning = false → (s.clip v.id).state = .empty →
    s.freeRun v.bank v.sectors = some first → P s → P (openClip v first s)
  withPage : ∀ c data s, s.store.scanning = false → (s.clip c).state = .opened →
    (s.bank (s.clip c).bank).programQueue.length < Config.programQueue → P s → P (s.withPage c data)
  closeClip : ∀ c s, s.store.scanning = false → (s.clip c).state = .opened → s.pagesInQueue c = 0 → P s →
    P (s.setClip c { s.clip c with state := .ready })
  dropClip : ∀ c s, s.store.scanning = false → s.useCount c = 0 → s.pagesInQueue c = 0 → P s →
    P ((dirtyRun (s.clip c) s).setClip c ClipRecord.empty)
  marks : ∀ b sweep hold policy auto s, P s → P (s.setBank b ((s.bank b).marked sweep hold policy auto))
  stopOperation : ∀ b s, P s → P (stopOperation b s)
  warm : ∀ s, P s → P s.warm
  programPage : ∀ b op c q page r s, (s.bank b).op = some op → op.kind = .program c q →
    (s.bank b).programQueue = page :: r → P s → P (endOperation b (programPage b page s))
  failProgram : ∀ b op c q s, (s.bank b).op = some op → op.kind = .program c q → P s →
    P (endOperation b (failProgram b c q s))
  endErase : ∀ b op n success s, (s.bank b).op = some op → op.kind = .erase n → P s →
    P (endOperation b (endErase b n success s))
  suspended : ∀ b op s, (s.bank b).op = some op → op.sub = .suspending → P s →
    P (s.modBank b fun k => { k with op := some { op with sub := .suspended, count := op.count + 1 } })
  scanned : ∀ s, s.store.scanning = true → P s → P s.scanned
  hardReset : ∀ s, P s → P (hardReset s)

namespace KeptByStoreOps

variable {P : State → Prop}

theorem sweepBank (k : KeptByStoreOps P) (h : KeptByPrefetch P) (b : BankId) (s : State) (hs : P s) :
    P (sweepBank b s) := by
  have hmark (sweep : Bool) := k.marks b sweep false (s.bank b).policy (s.bank b).autoSweep s hs
  unfold Machine.sweepBank
  dsimp only
  split
  · exact hs
  · split
    · exact h.congr (hmark (s.bank b).sweep) (.raise (.refl _) _ _)
    · exact (h.bank b).bankSettle _ (hmark true)

theorem haltBank (k : KeptByStoreOps P) (h : KeptByPrefetch P) (b : BankId) (s : State) (hs : P s) :
    P (haltBank b s) := by
  unfold Machine.haltBank
  have hstopped := k.stopOperation b s hs
  generalize Machine.stopOperation b s = u at hstopped
  have hmarked := k.marks b false true (u.bank b).policy (u.bank b).autoSweep u hstopped
  exact (h.bank b).bankSettle _ (h.congr hmarked (.raise (.refl _) _ _))

theorem setPolicy (k : KeptByStoreOps P) (h : KeptByPrefetch P) (b : BankId) (policy : Policy) (auto : Bool) (s : State)
    (hs : P s) : P (setPolicy b policy auto s) := by
  unfold Machine.setPolicy
  exact (h.bank b).bankSettle _ ((h.bank b).suspendReact _ (k.marks b (s.bank b).sweep false policy auto s hs))

theorem settleAll (h : KeptByPrefetch P) (s : State) (hs : P s) : P (forEach allFour (fun s b => bankSettle b s) s) :=
  forEach_inv allFour _ P (fun u b => (h.bank b).bankSettle u) s hs

theorem completeRead (h : KeptByPrefetch P) (b : BankId) (correct : Bool) (s : State) (hs : P s) :
    P (completeRead b correct s) := by
  unfold Machine.completeRead
  split
  · exact hs
  next r _ =>
    have hdelivered : P (deliverRead r correct s) := by
      unfold deliverRead
      refine h.setTrack r.track _ s (Track.modSlot_within _ r.slot fun x => ?_) hs
      split <;> rfl
    refine (h.bank b).bankSettle _ ((h.bank b).modBank (fun k => ?_) (h.playback.checkPriming r.track _ hdelivered))
    exact .of_op rfl (le_max_right _ _) rfl

theorem endSweep (k : KeptByStoreOps P) (h : KeptByPrefetch P) (b : BankId) (s : State) (hs : P s) :
    P (endSweep b s) := by
  unfold Machine.endSweep
  split
  · refine h.congr ?_ (.raise (.refl _) _ _)
    exact k.marks b false (s.bank b).eraseHold (s.bank b).policy (s.bank b).autoSweep s hs
  · exact hs

theorem completeProgram (k : KeptByStoreOps P) (h : KeptByPrefetch P) (b : BankId) (success : Bool) (s : State)
    (hs : P s) : P (completeProgram b success s) := by
  unfold Machine.completeProgram
  split
  next op page r hop hqueue =>
    split
    next c q hkind =>
      split
      · exact hs
      · split
        · exact (h.bank b).bankSettle _ (k.programPage b op c q page r s hop hkind hqueue hs)
        · exact (h.bank b).bankSettle _ (k.failProgram b op c q s hop hkind hs)
    next => exact hs
  next => exact hs

theorem completeErase (k : KeptByStoreOps P) (h : KeptByPrefetch P) (b : BankId) (success : Bool) (s : State)
    (hs : P s) : P (completeErase b success s) := by
  unfold Machine.completeErase
  split
  next => exact hs
  next op hop =>
    split
    next => exact hs
    next n hkind =>
      split
      · exact hs
      · exact (h.bank b).bankSettle _ (k.endSweep h b _ (k.endErase b op n success s hop hkind hs))

theorem completeSuspend (k : KeptByStoreOps P) (h : KeptByPrefetch P) (b : BankId) (s : State) (hs : P s) :
    P (completeSuspend b s) := by
  unfold Machine.completeSuspend
  split
  next => exact hs
  next op hop =>
    split
    next hsub => exact (h.bank b).bankSettle _ (k.suspended b op s hop hsub hs)
    next => exact hs

theorem completeScan (k : KeptByStoreOps P) (h : KeptByPrefetch P) (s : State) (hs : P s) : P (completeScan s) := by
  unfold Machine.completeScan
  split
  next hscan =>
    refine settleAll h _ (forEach_inv allFour _ P (fun u b hu => ?_) _ (k.scanned s hscan hs))
    exact h.congr hu (.raise (.refl _) _ _)
  next => exact hs

/-- What the banks' own service, playback and the store operations keep, every command keeps. -/
theorem core (k : KeptByStoreOps P) (h : KeptByPrefetch P) : KeptByCore P where
  congr := h.congr
  trackTick := h.playback.trackTick
  putEntries := k.putEntries
  armTrack t home s _ := h.playback.armTrack t home s
  goTrack t c s _ := h.playback.goTrack t c s
  stopTrack t _ tr s hstop hs := h.setTrack t tr s (Track.stopRequest_within hstop) hs
  breakPlay t _ _ s _ := h.playback.breakPlay t s
  breakHold t s hs := h.setTrack t _ s (.of_eq rfl rfl rfl rfl) hs
  tuneTrack := k.tuneTrack
  feedTrack := k.feedTrack
  clearTrack := h.playback.clearTrack
  openClip := k.openClip
  acceptPage c data s hscan hopen hroom hs := (h.bank _).bankSettle _ (k.withPage c data s hscan hopen hroom hs)
  closeClip := k.closeClip
  dropClip c s hscan huse hpages hs := (h.bank _).bankSettle _ (k.dropClip c s hscan huse hpages hs)
  sweepBank := k.sweepBank h
  haltBank := k.haltBank h
  setPolicy := k.setPolicy h
  warmReset s hs := settleAll h _ (k.warm s hs)
  meetTrigger := h.playback.meetTrigger
  completeRead := completeRead h
  completeProgram := k.completeProgram h
  completeErase := k.completeErase h
  completeSuspend := k.completeSuspend h
  completeScan := k.completeScan h
  hardReset := k.hardReset

end KeptByStoreOps

end Sys2Proof.Machine
end

section
/-! PROOFS. The bounds of queues and rings and the canonical tables (O57, R57, R59, R120, R139, R144, R148). -/

namespace Sys2Proof.Machine

/-! ### What the live parameters' requests leave -/

theorem Track.tune_prepares (tr : Track) (v : TuneValues) : Track.Prepares tr (tr.tune v) := by
  unfold Track.tune
  split <;> exact .of_eq rfl rfl

theorem Track.feed_prepares (tr : Track) (now : Bool) (fs : List Feed) : Track.Prepares tr (tr.feed now fs) := by
  unfold Track.feed
  split <;> exact .of_eq rfl rfl

/-! ### The banks' bounds -/

theorem banksOk_of_banks {s u : State} (hs : s.banksOk) (h : s.banks = u.banks) : u.banksOk := by
  intro b
  have hb := hs b
  rwa [State.bank, h] at hb

theorem banksOk_setBank {s : State} {b : BankId} {k : Bank} (hs : s.banksOk) (hk : k.ok) : (s.setBank b k).banksOk := by
  intro d
  rw [State.setBank_bank]
  split
  · exact hk
  · exact hs d

theorem Bank.ok_of_same {k k' : Bank} (hk : k.ok) (hp : k'.programQueue.length ≤ Config.programQueue)
    (hf : k'.fetch = k.fetch) (ho : k'.op = k.op ∨ k'.op = none) : k'.ok := by
  obtain ⟨-, hfetch, hop⟩ := hk
  refine ⟨hp, hf ▸ hfetch, fun op h => ?_⟩
  obtain hsame | hnone := ho
  · exact hop op (hsame ▸ h)
  · cases hnone.symm.trans h

theorem Bank.ok_moves {k k' : Bank} (hk : k.ok) (h : Bank.Moves k k') : k'.ok := by
  obtain ⟨hpages, hfetch, hop⟩ := hk
  obtain ⟨hrest, hgrown, hmoves⟩ := h
  refine ⟨by rw [← hrest]; exact hpages, hgrown.trans (max_le le_rfl hfetch), fun o' ho' => ?_⟩
  obtain ⟨o, ho, -, hcount, hsub⟩ := hmoves o' ho'
  obtain ⟨hcap, hsuspending⟩ := hop o ho
  rw [hcount]
  exact ⟨hcap, fun hs => (hsub hs).elim hsuspending id⟩

theorem Bank.ok_fresh {k : Bank} (hk : k.ok) (kind : OpKind) : { k with op := some (Operation.fresh kind) }.ok := by
  obtain ⟨hpages, hfetch, -⟩ := hk
  refine ⟨hpages, hfetch, fun op h => ?_⟩
  cases h
  exact ⟨Nat.zero_le _, fun hsub => by cases hsub⟩

theorem banksOk_blind : BlindToParams State.banksOk where
  congr hs h := banksOk_of_banks hs (core_eq_iff.mp h.core).2.2.2.1
  setTrack _ _ _ _ hs := hs

theorem banksOk_prefetch : KeptByPrefetch State.banksOk where
  congr := banksOk_blind.congr
  setTrack _ _ _ _ hs := hs
  takeCopy _ _ _ _ _ hs := hs
  formSplit _ _ _ _ hs := hs
  pushSlot _ _ _ _ _ _ _ _ _ hs := hs
  clampTrack _ c _ _ := banksOk_blind.clampTrack _ c.entry _
  levelTick _ c data _ _ := banksOk_blind.levelTick _ c data _
  bank b := banksOk_blind.bank (fun _ _ hk hs => banksOk_setBank hs (Bank.ok_moves (hs b) hk))
    (fun _ _ _ _ hs => banksOk_setBank hs (Bank.ok_fresh (hs b) _))
    (fun n s _ _ hs => banksOk_setBank (s := s.setSector b n .erasing) hs (Bank.ok_fresh (hs b) _))

theorem putEntries_banks (i : CueIndex) (es : List CueEntry) (s : State) : (putEntries i es s).banks = s.banks := by
  induction es generalizing i s with
  | nil => rfl
  | cons e es ih =>
    rw [putEntries, ih]
    rfl

theorem damageClip_banksOk {s : State} (b : BankId) (c : ClipId) (hs : s.banksOk) : (damageClip b c s).banksOk := by
  unfold damageClip
  refine banksOk_setBank hs (Bank.ok_of_same (hs b) ?_ rfl (.inl rfl))
  exact (List.length_filter_le _ _).trans (hs b).1

theorem endOperation_banksOk {s : State} (b : BankId) (hs : s.banksOk) : (endOperation b s).banksOk :=
  banksOk_setBank hs (Bank.ok_of_same (hs b) (hs b).1 rfl (.inr rfl))

theorem banksOk_storeOps : KeptByStoreOps State.banksOk where
  putEntries i _ _ es s _ hs := banksOk_of_banks hs (putEntries_banks i es s).symm
  tuneTrack _ _ _ _ _ hs := hs
  feedTrack _ _ _ _ _ _ hs := hs
  openClip _ _ _ _ _ _ _ _ hs := hs
  withPage c data s _ _ hroom hs := by
    unfold State.withPage
    refine banksOk_setBank hs (Bank.ok_of_same (hs _) ?_ rfl (.inl rfl))
    simp only [List.length_append, List.length_singleton]
    exact hroom
  closeClip _ _ _ _ _ hs := hs
  dropClip _ _ _ _ _ hs := hs
  marks b _ _ _ _ _ hs := banksOk_setBank hs (Bank.ok_of_same (hs b) (hs b).1 rfl (.inl rfl))
  stopOperation b s hs := by
    unfold stopOperation
    split
    · exact hs
    · split
      · exact endOperation_banksOk b (damageClip_banksOk b _ hs)
      · exact endOperation_banksOk b (s := s.setSector b _ .unsettled) hs
  warm s hs b := by
    obtain ⟨hpages, -, hop⟩ := hs b
    simp only [State.warm, State.bank, Vector.getElem_map, Fin.getElem_fin] at hpages hop ⊢
    exact ⟨hpages, Nat.zero_le _, hop⟩
  programPage b op c q page r s hop hkind hqueue hs := by
    have hprogrammed : (programPage b page s).banksOk := by
      unfold programPage
      refine banksOk_setBank hs (Bank.ok_of_same (hs b) ?_ rfl (.inl rfl))
      exact (List.tail_sublist _).length_le.trans (hs b).1
    exact endOperation_banksOk b hprogrammed
  failProgram b op c q s hop hkind hs := endOperation_banksOk b (damageClip_banksOk b c (s := s.setSector b _ .retired) hs)
  endErase b op n success s hop hkind hs := by
    refine endOperation_banksOk b ?_
    unfold endErase
    split <;> exact hs
  suspended b op s hop hsub hs := by
    obtain ⟨hpages, hfetch, hok⟩ := hs b
    refine banksOk_setBank hs ⟨hpages, hfetch, fun o ho => ?_⟩
    cases ho
    exact ⟨(hok op hop).2 hsub, fun h => by cases h⟩
  scanned _ _ hs := hs
  hardReset _ _ b := by
    simp only [hardReset, State.reset, State.bank, Fin.getElem_fin, Vector.getElem_replicate]
    exact ⟨Nat.zero_le _, Nat.zero_le _, fun _ h => by cases h⟩

/-! ### The tracks' bounds -/

/-- A track's entry queue and ring are within their bounds (R57, R59). -/
def Track.bounded (tr : Track) : Prop := tr.queue.length ≤ Config.entryQueue ∧ tr.ring.length ≤ Config.ringSlots

theorem Track.bounded_prepares {a b : Track} (ha : a.bounded) (h : Track.Prepares a b) : b.bounded := by
  have hqueue := h.queue.length_le
  have hring := h.ring.length_le
  simp only [List.length_map] at hqueue hring
  exact ⟨hqueue.trans ha.1, hring.trans ha.2⟩

theorem tracksOk_of_tracks {s u : State} (hs : s.tracksOk) (h : s.tracks = u.tracks) : u.tracksOk := by
  intro t
  have ht := hs t
  rwa [State.track, h] at ht

theorem tracksOk_setTrack {s : State} {t : TrackId} {tr : Track} (hs : s.tracksOk) (htr : tr.bounded) :
    (s.setTrack t tr).tracksOk := by
  intro j
  rw [State.setTrack_track]
  split
  · exact htr
  · exact hs j

theorem tracksOk_blind : BlindToParams State.tracksOk where
  congr hs h := tracksOk_of_tracks hs (core_eq_iff.mp h.core).2.1
  setTrack t _ _ hp hs := tracksOk_setTrack hs (Track.bounded_prepares (hs t) hp)

theorem tracksOk_prefetch : KeptByPrefetch State.tracksOk where
  congr := tracksOk_blind.congr
  setTrack t tr s hw := tracksOk_blind.setTrack t tr s hw.prepares
  takeCopy t i trailing s hroom hs := by
    refine tracksOk_setTrack hs ⟨?_, (hs t).2⟩
    simp only [List.length_append, List.length_singleton]
    exact hroom
  formSplit t c s hroom hs := by
    refine tracksOk_setTrack hs ⟨?_, (hs t).2⟩
    simp only [Track.setPhase, List.length_append, List.length_cons, List.length_nil]
    exact hroom
  pushSlot t c id k gated s _ _ hroom hs := by
    refine tracksOk_setTrack hs ⟨(hs t).1, ?_⟩
    simp only [List.length_append, List.length_singleton]
    exact hroom
  clampTrack _ c _ _ := tracksOk_blind.clampTrack _ c.entry _
  levelTick _ c data _ _ := tracksOk_blind.levelTick _ c data _
  bank b := tracksOk_blind.bank (fun _ _ _ hs => hs) (fun _ _ _ _ hs => hs) (fun _ _ _ _ hs => hs)

theorem putEntries_tracks (i : CueIndex) (es : List CueEntry) (s : State) : (putEntries i es s).tracks = s.tracks := by
  induction es generalizing i s with
  | nil => rfl
  | cons e es ih =>
    rw [putEntries, ih]
    rfl

theorem stopOperation_tracks (b : BankId) (s : State) : (stopOperation b s).tracks = s.tracks := by
  unfold stopOperation
  repeat' split
  all_goals rfl

theorem endErase_tracks (b : BankId) (n : Nat) (success : Bool) (s : State) :
    (endErase b n success s).tracks = s.tracks := by
  unfold endErase
  split <;> rfl

theorem reset_tracksOk {s : State} (h : s.tracks = Vector.replicate 48 Track.reset) : s.tracksOk := by
  intro t
  simp only [State.track, h, Fin.getElem_fin, Vector.getElem_replicate]
  exact ⟨Nat.zero_le _, Nat.zero_le _⟩

theorem tracksOk_storeOps : KeptByStoreOps State.tracksOk where
  putEntries i _ _ es s _ hs := tracksOk_of_tracks hs (putEntries_tracks i es s).symm
  tuneTrack _ v _ _ _ hs := tracksOk_blind.modTrack (fun tr => tr.tune_prepares v) hs
  feedTrack _ now fs _ _ _ hs := tracksOk_blind.modTrack (fun tr => tr.feed_prepares now fs) hs
  openClip _ _ _ _ _ _ _ _ hs := hs
  withPage _ _ _ _ _ _ hs := hs
  closeClip _ _ _ _ _ hs := hs
  dropClip _ _ _ _ _ hs := hs
  marks _ _ _ _ _ _ hs := hs
  stopOperation b s hs := tracksOk_of_tracks hs (stopOperation_tracks b s).symm
  warm _ _ := reset_tracksOk rfl
  programPage _ _ _ _ _ _ _ _ _ _ hs := hs
  failProgram _ _ _ _ _ _ _ hs := hs
  endErase b _ n success s _ _ hs := tracksOk_of_tracks hs (endErase_tracks b n success s).symm
  suspended _ _ _ _ _ hs := hs
  scanned _ _ hs := hs
  hardReset _ _ := reset_tracksOk rfl

/-! ### The canonical tables -/

theorem tablesOk_of_core {s u : State} (hs : s.tablesOk) (h : s.core = u.core) : u.tablesOk := by
  obtain ⟨hcue, -, hstore, -, -⟩ := core_eq_iff.mp h
  unfold State.tablesOk
  rwa [← hcue, ← hstore]

theorem tablesOk_setSector {s : State} (hs : s.tablesOk) (b : BankId) (n : Nat) (x : SectorState) :
    (s.setSector b n x).tablesOk := by
  obtain ⟨hcue, hclips, hsectors, hflash⟩ := hs
  exact ⟨hcue, hclips, tableWf_set _ _ _ _ hsectors, hflash⟩

theorem tablesOk_setClip {s : State} (hs : s.tablesOk) (c : ClipId) (r : ClipRecord) : (s.setClip c r).tablesOk := by
  obtain ⟨hcue, hclips, hsectors, hflash⟩ := hs
  exact ⟨hcue, tableWf_set _ _ _ _ hclips, hsectors, hflash⟩

theorem tablesOk_blind : BlindToParams State.tablesOk where
  congr hs h := tablesOk_of_core hs h.core
  setTrack _ _ _ _ hs := hs

theorem tablesOk_prefetch : KeptByPrefetch State.tablesOk where
  congr hs h := tablesOk_of_core hs h.core
  setTrack _ _ _ _ hs := hs
  takeCopy _ _ _ _ _ hs := hs
  formSplit _ _ _ _ hs := hs
  pushSlot _ _ _ _ _ _ _ _ _ hs := hs
  clampTrack _ c _ _ := tablesOk_blind.clampTrack _ c.entry _
  levelTick _ c data _ _ := tablesOk_blind.levelTick _ c data _
  bank b := tablesOk_blind.bank (fun _ _ _ hs => hs) (fun _ _ _ _ hs => hs)
    (fun n _ _ _ hs => tablesOk_setSector hs b n .erasing)

theorem putEntries_tablesOk {i : CueIndex} {es : List CueEntry} {s : State} (hs : s.tablesOk) :
    (putEntries i es s).tablesOk := by
  induction es generalizing i s with
  | nil => exact hs
  | cons e es ih =>
    obtain ⟨hcue, hclips, hsectors, hflash⟩ := hs
    rw [putEntries]
    exact ih ⟨tableWf_set _ _ _ _ hcue, hclips, hsectors, hflash⟩

theorem ClipRecord.scanned_ne_empty {r : ClipRecord} (h : r ≠ ClipRecord.empty) : r.scanned ≠ ClipRecord.empty := by
  unfold ClipRecord.scanned
  split
  · exact fun he => by cases congrArg ClipRecord.state he
  · exact h

theorem SectorState.scanned_ne_free {x : SectorState} (h : x ≠ .free) : x.scanned ≠ .free := by
  unfold SectorState.scanned
  split
  · decide
  · exact h

theorem tablesOk_storeOps : KeptByStoreOps State.tablesOk where
  putEntries _ _ _ _ _ _ := putEntries_tablesOk
  tuneTrack _ _ _ _ _ hs := hs
  feedTrack _ _ _ _ _ _ hs := hs
  openClip v first p s _ _ _ _ hs := by
    obtain ⟨hcue, hclips, hsectors, hflash⟩ := hs
    exact tablesOk_setClip (s := allocate v.bank first v.sectors s)
      ⟨hcue, hclips, tableWf_splice _ _ _ _ hsectors, hflash⟩ _ _
  withPage c _ _ _ _ _ hs := tablesOk_setClip hs c _
  closeClip c _ _ _ _ hs := tablesOk_setClip hs c _
  dropClip c s _ _ _ hs := by
    obtain ⟨hcue, hclips, hsectors, hflash⟩ := hs
    refine tablesOk_setClip (s := dirtyRun (s.clip c) s) ⟨hcue, hclips, ?_, hflash⟩ c _
    refine tableWf_map SectorState.free _
      (fun k x => if (s.clip c).inRun k && x = SectorState.allocated then SectorState.dirty else x) ?_ hsectors
    intro k x hx
    split
    · decide
    · exact hx
  marks _ _ _ _ _ _ hs := hs
  stopOperation b s hs := by
    unfold stopOperation
    split
    · exact hs
    · split
      · exact tablesOk_setClip hs _ _
      · exact tablesOk_setSector hs _ _ _
  warm _ hs := hs
  programPage b op c q page r s _ _ _ hs := by
    obtain ⟨hcue, hclips, hsectors, hflash⟩ := hs
    exact ⟨hcue, tableWf_set _ _ _ _ hclips, hsectors, Memory.wf_writeAll _ _ _ hflash⟩
  failProgram b op c q s _ _ hs := tablesOk_setClip (tablesOk_setSector hs _ _ _) c _
  endErase b op n success s _ _ hs := by
    unfold endErase
    split
    · obtain ⟨hcue, hclips, hsectors, hflash⟩ := tablesOk_setSector hs b n .free
      exact ⟨hcue, hclips, hsectors, Memory.wf_erase _ _ _ hflash⟩
    · exact tablesOk_setSector hs b n .retired
  suspended _ _ _ _ _ hs := hs
  scanned s _ hs := by
    obtain ⟨hcue, hclips, hsectors, hflash⟩ := hs
    exact ⟨hcue, tableWf_map _ _ (fun _ => ClipRecord.scanned) (fun _ _ => ClipRecord.scanned_ne_empty) hclips,
      tableWf_map _ _ (fun _ => SectorState.scanned) (fun _ _ => SectorState.scanned_ne_free) hsectors, hflash⟩
  hardReset s hs := ⟨rfl, hs.2.1, hs.2.2.1, hs.2.2.2⟩

end Sys2Proof.Machine

namespace Sys2Proof.Proofs.Bounds
open Sys2Proof Sys2Proof.Machine

/-- Settles O57: each of the three stands under the banks' own service, the lookahead and the store operations. -/
theorem stepsKeepQueuesAndTables : Obligations.StepsKeepQueuesAndTables := by
  unfold Obligations.StepsKeepQueuesAndTables
  intro s t h
  exact ⟨(banksOk_storeOps.core banksOk_prefetch).step (fun _ _ hs => hs) h,
    (tracksOk_storeOps.core tracksOk_prefetch).step (fun _ _ hs => hs) h,
    (tablesOk_storeOps.core tablesOk_prefetch).step (fun _ _ hs => hs) h⟩

end Sys2Proof.Proofs.Bounds
end

section
/-! PROOFS. No clip leaves READY while a track refers to it (O58, R77): references are kept to READY clips and pages to
OPEN clips together, since a halt and a failed program take an OPEN clip, and CLIP DROP one that nothing uses. -/

namespace Sys2Proof.Machine

/-! ### References of a track -/

/-- What a track refers to is READY in `s`, and its BAD copies have no block to play. -/
def State.readyFor (s : State) (tr : Track) : Prop :=
  (∀ x ∈ tr.ring, ∀ c, x.clip = some c → (s.clip c).state = .ready) ∧
    ∀ q ∈ tr.queue,
      (q.status = .good → ∀ c, q.entry.clip = some c → (s.clip c).state = .ready) ∧ (q.status ≠ .good → q.length = 0)

theorem State.readyFor_prepares {s : State} {a b : Track} (ha : s.readyFor a) (h : Track.Prepares a b) :
    s.readyFor b := by
  obtain ⟨hring, hqueue⟩ := ha
  refine ⟨fun x hx c hc => ?_, fun q hq => ?_⟩
  · obtain ⟨y, hy, hclip⟩ := List.mem_map.mp (h.ring.subset (List.mem_map_of_mem hx))
    exact hring y hy c (hclip.trans hc)
  · obtain ⟨d, hd, hplays⟩ := List.mem_map.mp (h.queue.subset (List.mem_map_of_mem hq))
    simp only [Copy.plays, Prod.mk.injEq] at hplays
    obtain ⟨hentry, hstatus, hlength⟩ := hplays
    rw [← hentry, ← hstatus, ← hlength]
    exact hqueue d hd

theorem State.readyFor_empty (s : State) {tr : Track} (hq : tr.queue = []) (hr : tr.ring = []) : s.readyFor tr := by
  simp [State.readyFor, hq, hr]

/-- Changing the directory keeps the references to clips that stay READY, or that the track does not use. -/
theorem State.readyFor_clips {s u : State} {tr : Track} (hs : s.readyFor tr)
    (h : ∀ c, (s.clip c).state = .ready → tr.uses c ≠ 0 → (u.clip c).state = .ready) : u.readyFor tr := by
  obtain ⟨hring, hqueue⟩ := hs
  refine ⟨fun x hx c hc => h c (hring x hx c hc) ?_, fun q hq => ⟨fun hgood c hc => h c ((hqueue q hq).1 hgood c hc) ?_,
    (hqueue q hq).2⟩⟩
  · have : 0 < tr.ring.countP fun y => y.clip = some c := List.countP_pos_iff.mpr ⟨x, hx, by simpa using hc⟩
    unfold Track.uses
    omega
  · have : 0 < tr.queue.countP fun y => y.status = .good && y.entry.clip = some c :=
      List.countP_pos_iff.mpr ⟨q, hq, by simp [hgood, hc]⟩
    unfold Track.uses
    omega

theorem referencesReady_iff {s : State} : s.referencesReady ↔ ∀ t, s.readyFor (s.track t) := Iff.rfl

theorem State.validate_ready {s : State} {e : CueEntry} (h : (s.validate e).1 = .good) (c : ClipId)
    (hc : e.clip = some c) : (s.clip c).state = .ready := by
  by_contra hready
  simp [State.validate, hc, hready] at h

theorem State.validate_bad {s : State} {e : CueEntry} (h : (s.validate e).1 ≠ .good) : (s.validate e).2 = 0 := by
  revert h
  simp only [State.validate]
  repeat' split
  all_goals simp

theorem State.copyOf_ready (s : State) (i : CueIndex) (path : PathTag) (trailing : Bool) :
    ((s.copyOf i path trailing).status = .good →
        ∀ c, (s.copyOf i path trailing).entry.clip = some c → (s.clip c).state = .ready) ∧
      ((s.copyOf i path trailing).status ≠ .good → (s.copyOf i path trailing).length = 0) :=
  ⟨State.validate_ready, State.validate_bad⟩

/-- A track that has taken copies of entries as the directory now stands. -/
theorem State.readyFor_append {s : State} {a b : Track} {cs : List Copy} (ha : s.readyFor a)
    (hq : b.queue = a.queue ++ cs) (hr : b.ring = a.ring)
    (hcs : ∀ q ∈ cs, ∃ i path trailing, q = s.copyOf i path trailing) : s.readyFor b := by
  obtain ⟨hring, hqueue⟩ := ha
  refine ⟨hr ▸ hring, fun q hq' => ?_⟩
  rw [hq, List.mem_append] at hq'
  obtain hq' | hq' := hq'
  · exact hqueue q hq'
  · obtain ⟨i, path, trailing, rfl⟩ := hcs q hq'
    exact s.copyOf_ready i path trailing

/-! ### Pages -/

/-- Each page that waits at bank `b` belongs to an OPEN clip of that bank, and a program in progress is that of the front
page; during the scan the bank is free and no page waits. -/
def State.pagesAt (s : State) (b : BankId) : Prop :=
  (∀ p ∈ (s.bank b).programQueue, (s.clip p.clip).state = .opened ∧ (s.clip p.clip).bank = b) ∧
    (∀ op c q, (s.bank b).op = some op → op.kind = .program c q →
      ∃ p r, (s.bank b).programQueue = p :: r ∧ p.clip = c ∧ p.index = q) ∧
    (s.store.scanning = true → (s.bank b).programQueue = [] ∧ (s.bank b).op = none)

theorem pagesOpen_iff {s : State} : s.pagesOpen ↔ ∀ b, s.pagesAt b := Iff.rfl

/-- A page keeps its clip where that stays OPEN in its bank. -/
theorem State.pagesAt_clips {s u : State} {b : BankId} (hs : s.pagesAt b) (hb : u.bank b = s.bank b)
    (hscan : u.store.scanning = s.store.scanning)
    (h : ∀ p ∈ (s.bank b).programQueue, (u.clip p.clip).state = (s.clip p.clip).state ∧
      (u.clip p.clip).bank = (s.clip p.clip).bank) : u.pagesAt b := by
  obtain ⟨hpages, hop, hidle⟩ := hs
  rw [State.pagesAt, hb, hscan]
  refine ⟨fun p hp => ?_, hop, hidle⟩
  rw [(h p hp).1, (h p hp).2]
  exact hpages p hp

/-- A bank without an operation and with no page but of those that waited. -/
theorem State.pagesAt_free {s u : State} {b : BankId} (hs : s.pagesAt b) (hop : (u.bank b).op = none)
    (hscan : u.store.scanning = s.store.scanning)
    (h : ∀ p ∈ (u.bank b).programQueue, p ∈ (s.bank b).programQueue ∧
      (u.clip p.clip).state = (s.clip p.clip).state ∧ (u.clip p.clip).bank = (s.clip p.clip).bank) : u.pagesAt b := by
  obtain ⟨hpages, -, hidle⟩ := hs
  refine ⟨fun p hp => ?_, fun op c q ho => ?_, fun hscanning => ⟨?_, hop⟩⟩
  · obtain ⟨hold, hstate, hbank⟩ := h p hp
    rw [hstate, hbank]
    exact hpages p hold
  · rw [hop] at ho
    cases ho
  · refine List.eq_nil_iff_forall_not_mem.mpr fun p hp => ?_
    rw [hscan] at hscanning
    have hold := (h p hp).1
    rw [(hidle hscanning).1] at hold
    cases hold

theorem State.pagesInQueue_eq_zero {s : State} {c : ClipId} (h : s.pagesInQueue c = 0) {b : BankId} (hs : s.pagesAt b) :
    ∀ p ∈ (s.bank b).programQueue, p.clip ≠ c := by
  rintro p hp rfl
  obtain ⟨-, hbank⟩ := hs.1 p hp
  rw [State.pagesInQueue, hbank, List.countP_eq_zero] at h
  exact h p hp (by simp)

/-! ### The two together -/

/-- The references to clips and the pages that wait for clips. -/
def State.clipsHeld (s : State) : Prop := s.referencesReady ∧ s.pagesOpen

theorem clipsHeld_congr {s u : State} (hs : s.clipsHeld) (h : s.core = u.core) : u.clipsHeld := by
  obtain ⟨-, htracks, hstore, hbanks, -⟩ := core_eq_iff.mp h
  obtain ⟨href, hpages⟩ := hs
  simp only [State.clipsHeld, State.referencesReady, State.pagesOpen, State.track, State.clip, State.bank] at href hpages ⊢
  rw [← htracks, ← hstore, ← hbanks]
  exact ⟨href, hpages⟩

theorem referencesReady_setTrack {s : State} {t : TrackId} {tr : Track} (hs : s.referencesReady) (htr : s.readyFor tr) :
    (s.setTrack t tr).referencesReady := by
  refine referencesReady_iff.mpr fun j => ?_
  rw [State.setTrack_track]
  split
  · exact htr
  · exact hs j

theorem clipsHeld_setTrack {s : State} {t : TrackId} {tr : Track} (hs : s.clipsHeld) (htr : s.readyFor tr) :
    (s.setTrack t tr).clipsHeld :=
  ⟨referencesReady_setTrack hs.1 htr, hs.2⟩

theorem clipsHeld_blind : BlindToParams State.clipsHeld where
  congr hs h := clipsHeld_congr hs h.core
  setTrack t _ _ hp hs := clipsHeld_setTrack hs (State.readyFor_prepares (hs.1 t) hp)

/-- A bank whose pages stand, with an operation of the same kind or the program of the front page. -/
theorem clipsHeld_setBank {s : State} {b : BankId} {k : Bank} (hs : s.clipsHeld)
    (hqueue : k.programQueue = (s.bank b).programQueue)
    (hop : ∀ op c q, k.op = some op → op.kind = .program c q → ∃ p r, k.programQueue = p :: r ∧ p.clip = c ∧ p.index = q)
    (hscan : s.store.scanning = true → k.op = none) : (s.setBank b k).clipsHeld := by
  refine ⟨hs.1, pagesOpen_iff.mpr fun d => ?_⟩
  obtain ⟨hpages, -, hidle⟩ := hs.2 d
  by_cases hd : b = d
  · subst hd
    rw [State.pagesAt, State.setBank_bank_same]
    exact ⟨hqueue ▸ hpages, hop, fun h => ⟨hqueue ▸ (hidle h).1, hscan h⟩⟩
  · exact State.pagesAt_clips (hs.2 d) (State.setBank_bank_other s b d k hd) rfl fun _ _ => ⟨rfl, rfl⟩

/-- A bank keeps its pages and an operation of the kind it had. -/
theorem clipsHeld_setBank_same {s : State} {b : BankId} {k : Bank} (hs : s.clipsHeld)
    (hqueue : k.programQueue = (s.bank b).programQueue)
    (hop : ∀ o', k.op = some o' → ∃ o, (s.bank b).op = some o ∧ o'.kind = o.kind) : (s.setBank b k).clipsHeld := by
  refine clipsHeld_setBank hs hqueue (fun o' c q ho' hkind => ?_) fun hscan => ?_
  · obtain ⟨o, ho, hsame⟩ := hop o' ho'
    rw [hqueue]
    exact (hs.2 b).2.1 o c q ho (hsame.symm.trans hkind)
  · refine Option.eq_none_iff_forall_ne_some.mpr fun o' ho' => ?_
    obtain ⟨o, ho, -⟩ := hop o' ho'
    cases ((hs.2 b).2.2 hscan).2.symm.trans ho

theorem clipsHeld_prefetch : KeptByPrefetch State.clipsHeld where
  congr hs h := clipsHeld_congr hs h.core
  setTrack t tr s hw := clipsHeld_blind.setTrack t tr s hw.prepares
  takeCopy t i trailing s _ hs :=
    clipsHeld_setTrack hs (State.readyFor_append (cs := [s.copyOf i .main trailing]) (hs.1 t) rfl rfl fun q hq =>
      ⟨_, _, _, List.mem_singleton.mp hq⟩)
  formSplit t c s _ hs := by
    refine clipsHeld_setTrack hs (State.readyFor_append (a := s.track t) (hs.1 t) rfl rfl fun q hq => ?_)
    simp only [List.mem_cons, List.not_mem_nil, or_false] at hq
    obtain rfl | rfl := hq <;> exact ⟨_, _, _, rfl⟩
  pushSlot t c id k gated s hc hk _ hs := by
    obtain ⟨hring, hqueue⟩ := hs.1 t
    refine clipsHeld_setTrack hs ⟨fun x hx d hd => ?_, hqueue⟩
    rw [List.mem_append, List.mem_singleton] at hx
    obtain hx | rfl := hx
    · exact hring x hx d hd
    · have hclip : c.entry.clip = some d := by
        unfold Copy.slot at hd
        split at hd
        · cases hd
        next e he => rwa [he]
      obtain ⟨hgood, hbad⟩ := hqueue c hc
      refine hgood ?_ d hclip
      by_contra hstatus
      have := hbad hstatus
      exact hk.elim hstatus fun h => by omega
  clampTrack _ c _ _ := clipsHeld_blind.clampTrack _ c.entry _
  levelTick _ c data _ _ := clipsHeld_blind.levelTick _ c data _
  bank b := by
    refine clipsHeld_blind.bank (fun k s hk hs => ?_) (fun p r s hqueue hs => ?_) (fun n s hscan _ hs => ?_)
    · refine clipsHeld_setBank_same hs (by rw [← hk.rest]) fun o' ho' => ?_
      obtain ⟨o, ho, hkind, -⟩ := hk.op o' ho'
      exact ⟨o, ho, hkind⟩
    · refine clipsHeld_setBank hs rfl (fun op c q hop hkind => ?_) fun hscan => ?_
      · cases hop
        cases hkind
        exact ⟨p, r, hqueue, rfl, rfl⟩
      · cases hqueue.symm.trans ((hs.2 b).2.2 hscan).1
    · refine clipsHeld_setBank (s := s.setSector b n .erasing) hs rfl (fun op c q hop hkind => ?_) fun hscanning => ?_
      · cases hop
        cases hkind
      · cases hscan.symm.trans hscanning

/-! ### The store operations -/

/-- A clip that is not READY and is used by no page may take any record. -/
theorem clipsHeld_setClip {s : State} {c : ClipId} {r : ClipRecord} (hs : s.clipsHeld)
    (href : r.state = .ready ∨ (s.clip c).state ≠ .ready ∨ ∀ t, (s.track t).uses c = 0)
    (hpages : (r.state = (s.clip c).state ∧ r.bank = (s.clip c).bank) ∨
      ∀ b, ∀ p ∈ (s.bank b).programQueue, p.clip ≠ c) : (s.setClip c r).clipsHeld := by
  refine ⟨referencesReady_iff.mpr fun t => ?_, pagesOpen_iff.mpr fun b => ?_⟩
  · refine State.readyFor_clips (hs.1 t) fun d hready hused => ?_
    rw [State.setClip_clip]
    split
    next hd =>
      subst hd
      obtain h | h | h := href
      · exact h
      · exact absurd hready h
      · exact absurd (h t) hused
    next => exact hready
  · refine State.pagesAt_clips (hs.2 b) rfl rfl fun p hp => ?_
    rw [State.setClip_clip]
    split
    next hd =>
      obtain h | h := hpages
      · rw [hd]
        exact h
      · exact absurd hd (h b p hp)
    next => exact ⟨rfl, rfl⟩

theorem endOperation_bank_same (b : BankId) (s : State) :
    (endOperation b s).bank b = { s.bank b with op := none } := by
  simp [endOperation]

theorem endOperation_bank_other (b d : BankId) (s : State) (h : b ≠ d) : (endOperation b s).bank d = s.bank d :=
  State.modBank_bank_other s b d _ h

/-- The operation of a bank ends, and pages leave its queue. -/
theorem clipsHeld_endOperation {s : State} (b : BankId) (hs : s.clipsHeld) : (endOperation b s).clipsHeld :=
  clipsHeld_setBank_same hs rfl fun o' ho' => by cases ho'

/-- A program in progress is ended and its clip DAMAGED (R131, R132). -/
theorem clipsHeld_endDamaged {s : State} {b : BankId} {op : Operation} {c : ClipId} {q : Nat} (hs : s.clipsHeld)
    (hop : (s.bank b).op = some op) (hkind : op.kind = .program c q) : (endOperation b (damageClip b c s)).clipsHeld := by
  obtain ⟨p, r, hqueue, hclip, -⟩ := (hs.2 b).2.1 op c q hop hkind
  obtain ⟨hopened, hbank⟩ := (hs.2 b).1 p (by simp [hqueue])
  rw [hclip] at hopened hbank
  have hbankAt : (endOperation b (damageClip b c s)).bank b =
      { s.bank b with op := none, programQueue := (s.bank b).programQueue.filter fun x => x.clip ≠ c } := by
    simp [endOperation, damageClip]
  have hclips (d : ClipId) (hd : d ≠ c) : (endOperation b (damageClip b c s)).clip d = s.clip d := by
    simp [endOperation, damageClip, State.setClip_clip, hd]
  refine ⟨referencesReady_iff.mpr fun t => ?_, pagesOpen_iff.mpr fun d => ?_⟩
  · refine State.readyFor_clips (hs.1 t) fun d hready _ => ?_
    rw [hclips d fun hd => by rw [hd, hopened] at hready; cases hready]
    exact hready
  · by_cases hd : b = d
    · subst hd
      refine State.pagesAt_free (hs.2 b) (by rw [hbankAt]) rfl fun x hx => ?_
      rw [hbankAt, List.mem_filter, decide_eq_true_eq] at hx
      rw [hclips x.clip hx.2]
      exact ⟨hx.1, rfl, rfl⟩
    · refine State.pagesAt_clips (hs.2 d) ?_ rfl fun x hx => ?_
      · rw [endOperation_bank_other b d _ hd, damageClip, State.modBank_bank_other _ b d _ hd, State.setClip_bank]
      · rw [hclips x.clip fun hx' => ?_]
        · exact ⟨rfl, rfl⟩
        · obtain ⟨-, hxbank⟩ := (hs.2 d).1 x hx
          rw [hx', hbank] at hxbank
          exact hd hxbank

theorem clipsHeld_putEntries {i : CueIndex} {es : List CueEntry} {s : State} (hs : s.clipsHeld) :
    (putEntries i es s).clipsHeld := by
  induction es generalizing i s with
  | nil => exact hs
  | cons e es ih =>
    rw [putEntries]
    exact ih hs

theorem uses_eq_zero {s : State} {c : ClipId} (h : s.useCount c = 0) (t : TrackId) : (s.track t).uses c = 0 := by
  rw [State.useCount, List.sum_eq_zero_iff] at h
  exact h _ (List.mem_map_of_mem (List.mem_finRange t))

theorem State.scanned_clip (s : State) (c : ClipId) : s.scanned.clip c = (s.clip c).scanned :=
  tableGet_map ClipRecord.empty s.store.clips (fun _ => ClipRecord.scanned) c.1 rfl

theorem clipsHeld_storeOps : KeptByStoreOps State.clipsHeld where
  putEntries _ _ _ _ _ _ := clipsHeld_putEntries
  tuneTrack _ v _ _ _ hs := clipsHeld_blind.modTrack (fun tr => tr.tune_prepares v) hs
  feedTrack _ now fs _ _ _ hs := clipsHeld_blind.modTrack (fun tr => tr.feed_prepares now fs) hs
  openClip v first p s _ _ hempty _ hs := by
    have hclip : (allocate v.bank first v.sectors s).clip v.id = s.clip v.id := rfl
    refine clipsHeld_setClip (s := allocate v.bank first v.sectors s) hs (.inr (.inl ?_)) (.inr fun b p hp hpv => ?_)
    · rw [hclip, hempty]
      decide
    · have hopened := ((hs.2 b).1 p hp).1
      rw [hpv, hempty] at hopened
      cases hopened
  withPage c data s hscan hopen _ hs := by
    have hset := clipsHeld_setClip (c := c)
      (r := { s.clip c with
        nextPage := (s.clip c).nextPage + 1
        ended := (s.clip c).ended || data.length / blockBytes (s.clip c).decimation < (s.clip c).decimation }) hs
      (.inr (.inl (by rw [hopen]; decide))) (.inl ⟨rfl, rfl⟩)
    refine ⟨hset.1, pagesOpen_iff.mpr fun d => ?_⟩
    by_cases hd : (s.clip c).bank = d
    · subst hd
      obtain ⟨hpages, hop, -⟩ := hset.2 (s.clip c).bank
      unfold State.withPage
      refine ⟨?_, ?_, fun h => by cases hscan.symm.trans h⟩
      · simp only [State.modBank_bank_same, List.mem_append, List.mem_singleton]
        rintro p (hp | rfl)
        · exact hpages p hp
        · simp [State.setClip_clip, hopen]
      · simp only [State.modBank_bank_same]
        intro op e q ho hkind
        obtain ⟨p, r, hqueue, hp⟩ := hop op e q ho hkind
        exact ⟨p, r ++ [_], by rw [hqueue]; rfl, hp⟩
    · exact State.pagesAt_clips (hset.2 d) (State.modBank_bank_other _ _ d _ hd) rfl fun _ _ => ⟨rfl, rfl⟩
  closeClip c s _ _ hpages hs :=
    clipsHeld_setClip hs (.inl rfl) (.inr fun b => State.pagesInQueue_eq_zero hpages (hs.2 b))
  dropClip c s _ huse hpages hs :=
    clipsHeld_setClip (s := dirtyRun (s.clip c) s) hs (.inr (.inr (uses_eq_zero huse)))
      (.inr fun b => State.pagesInQueue_eq_zero hpages (hs.2 b))
  marks b sweep hold policy auto s hs := clipsHeld_setBank_same hs rfl fun o ho => ⟨o, ho, rfl⟩
  stopOperation b s hs := by
    unfold stopOperation
    split
    next => exact hs
    next op hop =>
      split
      next c q hkind => exact clipsHeld_endDamaged hs hop hkind
      next n _ => exact clipsHeld_endOperation b (s := s.setSector b n .unsettled) hs
  warm s hs := by
    refine ⟨referencesReady_iff.mpr fun t => ?_, pagesOpen_iff.mpr fun b => ?_⟩
    · refine State.readyFor_empty _ ?_ ?_ <;> simp [State.warm, State.track, Track.reset]
    · have hb := hs.2 b
      simp only [State.bank] at hb
      simpa [State.pagesAt, State.warm, State.bank, State.clip] using hb
  programPage b op c q page r s hop hkind hqueue hs := by
    obtain ⟨hopened, hbank⟩ := (hs.2 b).1 page (by simp [hqueue])
    have hset := clipsHeld_setClip (c := page.clip) (r := { s.clip page.clip with
      blocks := (s.clip page.clip).blocks + page.data.length / blockBytes (s.clip page.clip).decimation }) hs
      (.inr (.inl (by rw [hopened]; decide))) (.inl ⟨rfl, rfl⟩)
    refine ⟨hset.1, pagesOpen_iff.mpr fun d => ?_⟩
    by_cases hd : b = d
    · subst hd
      refine State.pagesAt_free (hset.2 b) ?_ rfl fun p hp => ⟨?_, rfl, rfl⟩
      · rw [endOperation_bank_same]
      · rw [endOperation_bank_same, programPage, State.modBank_bank_same] at hp
        exact List.mem_of_mem_tail hp
    · refine State.pagesAt_clips (hset.2 d) ?_ rfl fun _ _ => ⟨rfl, rfl⟩
      rw [endOperation_bank_other b d _ hd, programPage, State.modBank_bank_other _ b d _ hd]
      rfl
  failProgram b op c q s hop hkind hs :=
    clipsHeld_congr (clipsHeld_endDamaged (s := s.setSector b ((s.clip c).first + q / Config.pagesPerSector) .retired) hs hop
      hkind) rfl
  endErase b op n success s _ _ hs := by
    refine clipsHeld_endOperation b ?_
    unfold endErase
    split <;> exact hs
  suspended b op s hop _ hs := clipsHeld_setBank_same hs rfl fun o ho => ⟨op, hop, by cases ho; rfl⟩
  scanned s hscan hs := by
    refine ⟨referencesReady_iff.mpr fun t => ?_, pagesOpen_iff.mpr fun b => ?_⟩
    · refine State.readyFor_clips (hs.1 t) fun c hready _ => ?_
      rw [State.scanned_clip, ClipRecord.scanned, if_neg (by rw [hready]; decide)]
      exact hready
    · obtain ⟨hqueue, hop⟩ := (hs.2 b).2.2 hscan
      have hbank : s.scanned.bank b = s.bank b := rfl
      simp [State.pagesAt, hbank, hqueue, hop]
  hardReset s _ := by
    refine ⟨referencesReady_iff.mpr fun t => ?_, pagesOpen_iff.mpr fun b => ?_⟩
    · refine State.readyFor_empty _ ?_ ?_ <;> simp [hardReset, State.reset, State.track, Track.reset]
    · simp [State.pagesAt, hardReset, State.reset, State.bank, Bank.reset]

end Sys2Proof.Machine

namespace Sys2Proof.Proofs.References
open Sys2Proof Sys2Proof.Machine

/-- Settles O58: the references and the pages are kept together, through playback, the banks and the store operations. -/
theorem referencedClipsStayReady : Obligations.ReferencedClipsStayReady := by
  unfold Obligations.ReferencedClipsStayReady
  intro s t h href hpages
  exact (clipsHeld_storeOps.core clipsHeld_prefetch).step (fun _ _ hs => hs) h ⟨href, hpages⟩

end Sys2Proof.Proofs.References
end

section
/-! PROOFS. No bank idles while it has work it may do (O59, R120, R140, R147): whatever an event does to a bank, the bank
then settles, and what one bank does leaves the others at work. -/

namespace Sys2Proof.Machine

/-! ### Runs within their banks -/

theorem State.erasable_lt {s : State} {b : BankId} {n : Nat} (h : n ∈ s.erasable b) : n < 8192 := by
  simp only [State.erasable, List.mem_map, List.mem_filter, Bool.and_eq_true, decide_eq_true_eq] at h
  obtain ⟨e, ⟨-, ⟨hlow, hhigh⟩, -⟩, rfl⟩ := h
  simp only [sectorKey] at hlow hhigh ⊢
  omega

theorem State.findRun_fits {s : State} {b : BankId} {n : Nat} (fuel k : Nat) {first : Nat}
    (h : s.findRun b n fuel k = some first) : first + n ≤ 8192 := by
  induction fuel generalizing k with
  | zero => cases h
  | succ fuel ih =>
    rw [State.findRun] at h
    split at h
    next hfit =>
      cases h
      simp only [Bool.and_eq_true, decide_eq_true_eq] at hfit
      exact hfit.1
    next => exact ih (k + 1) h

theorem readOpen_label {p : List Byte} {v : OpenValues} (h : readOpen p = some v) : v.label.length ≤ 24 := by
  simp only [readOpen, Option.bind_eq_bind, Option.bind_eq_some_iff] at h
  obtain ⟨id, -, bank, -, h⟩ := h
  split at h
  next hfit =>
    cases h
    exact (List.length_take_le _ _).trans hfit.2.2.2.2.1
  next => cases h

/-- The record's run lies within its bank, and its label has at most 24 bytes. -/
def ClipRecord.fits (r : ClipRecord) : Prop := r.first + r.sectors ≤ 8192 ∧ r.label.length ≤ 24

/-- An erase in progress is that of a sector of the bank. -/
def Bank.erasesWithin (k : Bank) : Prop := ∀ op n, k.op = some op → op.kind = .erase n → n < 8192

theorem runsOk_iff {s : State} : s.runsOk ↔ (∀ c, (s.clip c).fits) ∧ ∀ b, (s.bank b).erasesWithin := Iff.rfl

theorem runsOk_congr {s u : State} (hs : s.runsOk) (h : s.core = u.core) : u.runsOk := by
  obtain ⟨-, -, hstore, hbanks, -⟩ := core_eq_iff.mp h
  unfold State.runsOk State.clip State.bank at hs ⊢
  rwa [← hstore, ← hbanks]

theorem runsOk_setClip {s : State} {c : ClipId} {r : ClipRecord} (hs : s.runsOk) (hr : r.fits) :
    (s.setClip c r).runsOk := by
  refine runsOk_iff.mpr ⟨fun d => ?_, hs.2⟩
  rw [State.setClip_clip]
  split
  · exact hr
  · exact hs.1 d

theorem runsOk_setBank {s : State} {b : BankId} {k : Bank} (hs : s.runsOk) (hk : k.erasesWithin) :
    (s.setBank b k).runsOk := by
  refine runsOk_iff.mpr ⟨hs.1, fun d => ?_⟩
  rw [State.setBank_bank]
  split
  · exact hk
  · exact hs.2 d

theorem runsOk_endOperation {s : State} (b : BankId) (hs : s.runsOk) : (endOperation b s).runsOk :=
  runsOk_setBank hs fun _ _ h => by cases h

theorem runsOk_damageClip {s : State} (b : BankId) (c : ClipId) (hs : s.runsOk) : (damageClip b c s).runsOk :=
  runsOk_setBank (runsOk_setClip hs (hs.1 c)) (hs.2 b)

theorem runsOk_blind : BlindToParams State.runsOk where
  congr hs h := runsOk_congr hs h.core
  setTrack _ _ _ _ hs := hs

theorem runsOk_prefetch : KeptByPrefetch State.runsOk where
  congr hs h := runsOk_congr hs h.core
  setTrack _ _ _ _ hs := hs
  takeCopy _ _ _ _ _ hs := hs
  formSplit _ _ _ _ hs := hs
  pushSlot _ _ _ _ _ _ _ _ _ hs := hs
  clampTrack _ c _ _ := runsOk_blind.clampTrack _ c.entry _
  levelTick _ c data _ _ := runsOk_blind.levelTick _ c data _
  bank b := by
    refine runsOk_blind.bank (fun k s hk hs => ?_) (fun p r s _ hs => ?_) (fun n s _ hn hs => ?_)
    · refine runsOk_setBank hs fun o' n ho' hkind => ?_
      obtain ⟨o, ho, hsame, -⟩ := hk.op o' ho'
      exact hs.2 b o n ho (hsame.symm.trans hkind)
    · refine runsOk_setBank hs fun o n ho hkind => ?_
      cases ho
      cases hkind
    · refine runsOk_setBank (s := s.setSector b n .erasing) hs fun o m ho hkind => ?_
      cases ho
      cases hkind
      exact State.erasable_lt hn

theorem runsOk_putEntries {i : CueIndex} {es : List CueEntry} {s : State} (hs : s.runsOk) :
    (putEntries i es s).runsOk := by
  induction es generalizing i s with
  | nil => exact hs
  | cons e es ih =>
    rw [putEntries]
    exact ih hs

theorem runsOk_storeOps : KeptByStoreOps State.runsOk where
  putEntries _ _ _ _ _ _ := runsOk_putEntries
  tuneTrack _ _ _ _ _ hs := hs
  feedTrack _ _ _ _ _ _ hs := hs
  openClip v first _ s hread _ _ hrun hs :=
    runsOk_setClip (s := allocate v.bank first v.sectors s) hs ⟨State.findRun_fits _ _ hrun, readOpen_label hread⟩
  withPage c _ _ _ _ _ hs := runsOk_setBank (runsOk_setClip hs (hs.1 c)) (hs.2 _)
  closeClip c _ _ _ _ hs := runsOk_setClip hs (hs.1 c)
  dropClip c s _ _ _ hs :=
    runsOk_setClip (s := dirtyRun (s.clip c) s) hs ⟨Nat.zero_le _, Nat.zero_le _⟩
  marks b _ _ _ _ _ hs := runsOk_setBank hs (hs.2 b)
  stopOperation b s hs := by
    unfold stopOperation
    split
    · exact hs
    · split
      · exact runsOk_endOperation b (runsOk_damageClip b _ hs)
      · exact runsOk_endOperation b (s := s.setSector b _ .unsettled) hs
  warm s hs := by
    refine runsOk_iff.mpr ⟨hs.1, fun b => ?_⟩
    have hb := hs.2 b
    simp only [State.bank] at hb
    simpa [State.warm, State.bank, Bank.erasesWithin] using hb
  programPage b _ _ _ page _ _ _ _ _ hs := runsOk_endOperation b (runsOk_setBank (runsOk_setClip hs (hs.1 page.clip)) (hs.2 b))
  failProgram b _ c _ s _ _ hs := runsOk_endOperation b (runsOk_damageClip b c (s := s.setSector b _ .retired) hs)
  endErase b _ n success s _ _ hs := by
    refine runsOk_endOperation b ?_
    unfold endErase
    split <;> exact hs
  suspended b op s hop _ hs := runsOk_setBank hs fun o n ho hkind => hs.2 b op n hop (by cases ho; exact hkind)
  scanned s _ hs := by
    refine runsOk_iff.mpr ⟨fun c => ?_, hs.2⟩
    rw [State.scanned_clip]
    unfold ClipRecord.scanned
    split <;> exact hs.1 c
  hardReset s hs := by
    refine runsOk_iff.mpr ⟨hs.1, fun b => ?_⟩
    simp [hardReset, State.reset, State.bank, Bank.reset, Bank.erasesWithin]

theorem runsOk_kept : KeptByCore State.runsOk := runsOk_storeOps.core runsOk_prefetch

/-! ### A bank at work -/

/-- Bank `b` does not idle: outside the scan, with no read in flight, it has no operation only where it has no request, no
page and no sector it may erase, and holds no SUSPENDED operation (R120, R140, R147). -/
def State.bankWorks (s : State) (b : BankId) : Prop :=
  s.store.scanning = false → (s.bank b).inFlight = none →
    ((s.bank b).op = none →
      (s.bank b).fetch = [] ∧ (s.bank b).programQueue = [] ∧ ((s.bank b).mayErase = true → s.erasable b = [])) ∧
    ∀ op, (s.bank b).op = some op → op.sub ≠ .suspended

theorem banksWork_iff {s : State} : s.banksWork ↔ ∀ b, s.bankWorks b :=
  ⟨fun h b hscan => h hscan b, fun h hscan b => h b hscan⟩

/-- In `u` the sector map lists no sector of bank `b` to erase that `s` does not list. -/
def State.noDirtier (s u : State) (b : BankId) : Prop :=
  ∀ e ∈ u.store.sectors, sectorKey b 0 ≤ e.1 → e.1 < sectorKey b 8192 → (e.2 = .dirty ∨ e.2 = .unsettled) →
    e ∈ s.store.sectors

theorem State.erasable_nil_iff {s : State} {b : BankId} :
    s.erasable b = [] ↔
      ∀ e ∈ s.store.sectors, sectorKey b 0 ≤ e.1 → e.1 < sectorKey b 8192 → ¬ (e.2 = .dirty ∨ e.2 = .unsettled) := by
  simp only [State.erasable, List.map_eq_nil_iff, List.filter_eq_nil_iff, Bool.and_eq_true, Bool.or_eq_true,
    decide_eq_true_eq, not_and]
  exact ⟨fun h e he hlow hhigh => h e he ⟨hlow, hhigh⟩, fun h e he hin => h e he hin.1 hin.2⟩

theorem State.erasable_nil_of {s u : State} {b : BankId} (h : s.noDirtier u b) (hs : s.erasable b = []) :
    u.erasable b = [] :=
  State.erasable_nil_iff.mpr fun e he hlow hhigh hdirty =>
    State.erasable_nil_iff.mp hs e (h e he hlow hhigh hdirty) hlow hhigh hdirty

theorem State.noDirtier_of_eq {s u : State} (b : BankId) (h : u.store.sectors = s.store.sectors) : s.noDirtier u b :=
  fun _ he _ _ _ => h ▸ he

/-- A bank keeps at work while its record stands and no sector of it becomes DIRTY or UNSETTLED. -/
theorem State.bankWorks_of {s u : State} {b : BankId} (hs : s.bankWorks b) (hb : u.bank b = s.bank b)
    (hscan : u.store.scanning = s.store.scanning) (hdirt : s.noDirtier u b) : u.bankWorks b := by
  intro hnot hflight
  rw [hscan] at hnot
  rw [hb] at hflight ⊢
  obtain ⟨hfree, hsub⟩ := hs hnot hflight
  refine ⟨fun hop => ?_, hsub⟩
  obtain ⟨hfetch, hpages, herase⟩ := hfree hop
  exact ⟨hfetch, hpages, fun hmay => State.erasable_nil_of hdirt (herase hmay)⟩

theorem State.bankWorks_congr {s u : State} {b : BankId} (hs : s.bankWorks b) (h : s.core = u.core) : u.bankWorks b := by
  obtain ⟨-, -, hstore, hbanks, -⟩ := core_eq_iff.mp h
  refine State.bankWorks_of hs ?_ (by rw [hstore]) (State.noDirtier_of_eq b (by rw [hstore]))
  simp only [State.bank, hbanks]

theorem mem_tableInsert {α : Type} {t : List (Nat × α)} {a : Nat} {v : α} {e : Nat × α} (h : e ∈ tableInsert t a v) :
    e = (a, v) ∨ e ∈ t := by
  induction t with
  | nil => exact .inl (List.mem_singleton.mp h)
  | cons x t ih =>
    rw [tableInsert] at h
    split at h
    · exact List.mem_cons.mp h
    · obtain rfl | h := List.mem_cons.mp h
      · exact .inr List.mem_cons_self
      · exact (ih h).imp_right (List.mem_cons_of_mem x)

theorem mem_tableSet {α : Type} [DecidableEq α] {d : α} {t : List (Nat × α)} {a : Nat} {v : α} {e : Nat × α}
    (h : e ∈ tableSet d t a v) : e = (a, v) ∨ e ∈ t := by
  unfold tableSet at h
  dsimp only at h
  split at h
  · exact .inr (List.mem_filter.mp h).1
  · exact (mem_tableInsert h).imp_right fun h => (List.mem_filter.mp h).1

/-- A sector that is not to be erased then, or that is of another bank, adds nothing to erase. -/
theorem State.noDirtier_setSector {s : State} {b d : BankId} {n : Nat} {x : SectorState}
    (h : (x ≠ .dirty ∧ x ≠ .unsettled) ∨ (n < 8192 ∧ b ≠ d)) : s.noDirtier (s.setSector b n x) d := by
  intro e he hlow hhigh hdirty
  obtain rfl | he := mem_tableSet he
  · obtain ⟨hd, hu⟩ | ⟨hn, hbd⟩ := h
    · exact (hdirty.elim hd hu).elim
    · refine absurd (Fin.ext ?_) hbd
      simp only [sectorKey] at hlow hhigh
      omega
  · exact he

/-- What one bank does by itself leaves every other bank at work. -/
theorem bankWorks_other {b d : BankId} (hbd : b ≠ d) : KeptByBank b fun s => s.bankWorks d where
  congr hs h := State.bankWorks_congr hs h.core
  setTrack _ _ _ _ hs := State.bankWorks_of hs rfl rfl (State.noDirtier_of_eq d rfl)
  move k s _ hs := State.bankWorks_of hs (State.setBank_bank_other s b d k hbd) rfl (State.noDirtier_of_eq d rfl)
  startProgram _ _ s _ hs :=
    State.bankWorks_of hs (State.setBank_bank_other s b d _ hbd) rfl (State.noDirtier_of_eq d rfl)
  startErase n s _ hn hs :=
    State.bankWorks_of hs (State.setBank_bank_other (s.setSector b n .erasing) b d _ hbd) rfl
      (State.noDirtier_setSector (.inr ⟨State.erasable_lt hn, hbd⟩))

theorem State.bankWorks_busy {s : State} {b : BankId} {op : Operation} (hop : (s.bank b).op = some op)
    (hsub : op.sub ≠ .suspended) : s.bankWorks b := by
  intro _ _
  rw [hop]
  exact ⟨fun h => (by cases h), fun o ho => (by cases ho; exact hsub)⟩

theorem startRead_bankWorks {b : BankId} {s : State} (h : (s.bank b).fetch ≠ []) : (startRead b s).bankWorks b := by
  obtain ⟨r, -, hread, -⟩ := startRead_reads b s h
  intro _ hflight
  cases hread.symm.trans hflight

theorem startStore_bankWorks {b : BankId} {s : State} (hop : (s.bank b).op = none) (hfetch : (s.bank b).fetch = []) :
    (startStore b s).bankWorks b := by
  have hidle (hpages : (s.bank b).programQueue = []) (herase : (s.bank b).mayErase = true → s.erasable b = []) :
      s.bankWorks b := by
    intro _ _
    refine ⟨fun _ => ⟨hfetch, hpages, herase⟩, fun op ho => ?_⟩
    cases hop.symm.trans ho
  simp only [startStore]
  split
  next p r hqueue => exact State.bankWorks_busy (congrArg Bank.op (State.setBank_bank_same s b _)) (by simp [Operation.fresh])
  next hqueue =>
    split
    next hmay =>
      split
      next hleast => exact hidle hqueue fun _ => (leastBy_none id _).mp hleast
      next n _ =>
        exact State.bankWorks_busy (congrArg Bank.op (State.setBank_bank_same _ b _)) (by simp [Operation.fresh])
    next hmay => exact hidle hqueue fun h => absurd h hmay

/-- A bank that has settled does not idle. -/
theorem bankSettle_bankWorks (b : BankId) (s : State) : (bankSettle b s).bankWorks b := by
  simp only [bankSettle]
  split
  next hbusy =>
    intro hscan hflight
    simp [hscan, hflight] at hbusy
  next =>
    split
    next hop =>
      split
      next hfetch => exact startStore_bankWorks hop (List.isEmpty_iff.mp hfetch)
      next hfetch => exact startRead_bankWorks fun h => hfetch (List.isEmpty_iff.mpr h)
    next op hop =>
      split
      next hsub =>
        split
        next => exact State.bankWorks_busy (congrArg Bank.op (State.setBank_bank_same s b _)) (by simp)
        next hfetch => exact startRead_bankWorks fun h => hfetch (List.isEmpty_iff.mpr h)
      next hsub => exact State.bankWorks_busy hop hsub

/-- Every bank but `b` is at work. -/
def State.worksBut (s : State) (b : BankId) : Prop := ∀ d, b ≠ d → s.bankWorks d

theorem State.worksBut_of_banksWork {s : State} (hs : s.banksWork) (b : BankId) : s.worksBut b :=
  fun d _ => banksWork_iff.mp hs d

/-- Once the one bank has settled, all are at work. -/
theorem bankSettle_banksWork {b : BankId} {s : State} (hs : s.worksBut b) : (bankSettle b s).banksWork := by
  refine banksWork_iff.mpr fun d => ?_
  by_cases hd : b = d
  · subst hd
    exact bankSettle_bankWorks b s
  · exact (bankWorks_other hd).bankSettle s (hs d hd)

theorem bankSettle_keeps {b d : BankId} {s : State} (hs : s.bankWorks b) : (bankSettle d s).bankWorks b := by
  by_cases hd : d = b
  · subst hd
    exact bankSettle_bankWorks d s
  · exact (bankWorks_other hd).bankSettle s hs

theorem settleAll_banksWork (s : State) : (forEach allFour (fun s b => bankSettle b s) s).banksWork := by
  have hall (bs : List BankId) (u : State) : ∀ b ∈ bs, (forEach bs (fun s b => bankSettle b s) u).bankWorks b := by
    induction bs generalizing u with
    | nil => exact fun _ h => by cases h
    | cons d ds ih =>
      intro b hb
      obtain rfl | hb := List.mem_cons.mp hb
      · exact forEach_inv ds (fun s d => bankSettle d s) (fun v => v.bankWorks b) (fun _ _ hv => bankSettle_keeps hv) _
          (bankSettle_bankWorks b u)
      · exact ih (bankSettle d u) b hb
  exact banksWork_iff.mpr fun b => hall allFour s b (List.mem_finRange b)

/-- A change that touches the record of one bank alone, and dirties no sector of another. -/
theorem State.worksBut_of {s u : State} {b : BankId} (hs : s.worksBut b) (hb : ∀ d, b ≠ d → u.bank d = s.bank d)
    (hscan : u.store.scanning = s.store.scanning) (hdirt : ∀ d, b ≠ d → s.noDirtier u d) : u.worksBut b :=
  fun d hd => State.bankWorks_of (hs d hd) (hb d hd) hscan (hdirt d hd)

theorem State.worksBut_setBank {s : State} {b : BankId} (hs : s.worksBut b) (k : Bank) : (s.setBank b k).worksBut b :=
  State.worksBut_of hs (fun d hd => State.setBank_bank_other s b d k hd) rfl fun d _ => State.noDirtier_of_eq d rfl

theorem State.worksBut_setClip {s : State} {b : BankId} (hs : s.worksBut b) (c : ClipId) (r : ClipRecord) :
    (s.setClip c r).worksBut b :=
  State.worksBut_of hs (fun _ _ => rfl) rfl fun d _ => State.noDirtier_of_eq d rfl

theorem State.worksBut_congr {s u : State} {b : BankId} (hs : s.worksBut b) (h : s.core = u.core) : u.worksBut b :=
  fun d hd => State.bankWorks_congr (hs d hd) h

/-! ### Playback and the lookahead -/

theorem banksWork_of {s u : State} (hs : s.banksWork) (hbanks : u.banks = s.banks) (hstore : u.store = s.store) :
    u.banksWork :=
  banksWork_iff.mpr fun b => State.bankWorks_of (banksWork_iff.mp hs b) (by simp only [State.bank, hbanks])
    (by rw [hstore]) (State.noDirtier_of_eq b (by rw [hstore]))

theorem banksWork_congr {s u : State} (hs : s.banksWork) (h : s.core = u.core) : u.banksWork := by
  obtain ⟨-, -, hstore, hbanks, -⟩ := core_eq_iff.mp h
  exact banksWork_of hs hbanks.symm hstore.symm

theorem banksWork_blind : BlindToParams State.banksWork where
  congr hs h := banksWork_congr hs h.core
  setTrack _ _ _ _ hs := hs

theorem withdrawFrom_banksWork {dead : List Nat} {b : BankId} {s : State} (hs : s.banksWork) :
    (withdrawFrom dead s b).banksWork := by
  simp only [withdrawFrom]
  split
  · refine bankSettle_banksWork fun d hd => (bankWorks_other hd).offerPlaces _ _ ?_
    exact State.worksBut_setBank (State.worksBut_of_banksWork hs b) _ d hd
  · exact hs

theorem banksWork_playback : KeptByPlayback State.banksWork where
  congr hs h := banksWork_congr hs h.core
  setTrack _ _ _ _ hs := hs
  takeCopy _ _ _ _ _ hs := hs
  formSplit _ _ _ _ hs := hs
  addSlot t c id k gated s _ _ _ hs := by
    have hpush : State.banksWork { s.modTrack t fun tr => { tr with ring := tr.ring ++ [c.slot id k gated] } with
        slotSeq := s.slotSeq + 1 } := banksWork_of hs rfl rfl
    simp only [addSlot]
    split
    next => exact hpush
    next r _ =>
      split
      next hroom =>
        refine bankSettle_banksWork fun d hd => (bankWorks_other hd).joinFetch r _ hroom ?_
        exact banksWork_iff.mp hpush d
      next => exact hpush
  dropSlots t dead s hs := by
    unfold dropSlots
    exact forEach_inv allFour _ State.banksWork (fun u b hu => withdrawFrom_banksWork hu) _ (banksWork_of hs rfl rfl)
  clampTrack _ c _ _ := banksWork_blind.clampTrack _ c.entry _
  levelTick _ c data _ _ := banksWork_blind.levelTick _ c data _

/-! ### The store operations -/

theorem dirtyRun_noDirtier {s : State} {r : ClipRecord} (hr : r.fits) {d : BankId} (hd : r.bank ≠ d) :
    s.noDirtier (dirtyRun r s) d := by
  intro e he hlow hhigh hdirty
  obtain ⟨x, hx, rfl⟩ := List.mem_map.mp he
  dsimp only at hlow hhigh hdirty ⊢
  have hout : r.inRun x.1 = false := by
    by_contra hin
    simp only [ClipRecord.inRun, Bool.not_eq_false, Bool.and_eq_true, decide_eq_true_eq] at hin
    simp only [sectorKey] at hin hlow hhigh
    have hfits := hr.1
    exact hd (Fin.ext (by omega))
  simp only [hout, Bool.false_and, Bool.false_eq_true, if_false] at hdirty ⊢
  exact hx

theorem allocate_noDirtier (s : State) (b : BankId) (k n : Nat) (d : BankId) : s.noDirtier (allocate b k n s) d := by
  intro e he _ _ hdirty
  have hcells (n a : Nat) : ∀ e ∈ tableCells SectorState.free a (List.replicate n .allocated), e.2 = .allocated := by
    induction n generalizing a with
    | zero => exact fun _ h => by cases h
    | succ n ih =>
      intro e he
      rw [List.replicate_succ, tableCells, if_neg (by decide)] at he
      obtain rfl | he := List.mem_cons.mp he
      · rfl
      · exact ih (a + 1) e he
  simp only [allocate, tableSplice, List.mem_append, List.mem_filter] at he
  obtain (⟨he, -⟩ | he) | ⟨he, -⟩ := he
  · exact he
  · rw [hcells _ _ e he] at hdirty
    obtain h | h := hdirty <;> cases h
  · exact he

theorem State.worksBut_endOperation {s : State} {b : BankId} (hs : s.worksBut b) : (endOperation b s).worksBut b :=
  State.worksBut_setBank hs _

theorem State.worksBut_damageClip {s : State} {b : BankId} (hs : s.worksBut b) (c : ClipId) :
    (damageClip b c s).worksBut b :=
  State.worksBut_setBank (State.worksBut_setClip hs _ _) _

theorem State.worksBut_setSector {s : State} {b : BankId} {n : Nat} {x : SectorState} (hs : s.worksBut b)
    (h : (x ≠ .dirty ∧ x ≠ .unsettled) ∨ n < 8192) : (s.setSector b n x).worksBut b :=
  State.worksBut_of hs (fun _ _ => rfl) rfl fun _ hd => State.noDirtier_setSector (h.imp_right fun hn => ⟨hn, hd⟩)

theorem stopOperation_worksBut {s : State} {b : BankId} (hruns : s.runsOk) (hs : s.worksBut b) :
    (stopOperation b s).worksBut b := by
  unfold stopOperation
  split
  next => exact hs
  next op hop =>
    split
    next c _ _ => exact State.worksBut_endOperation (State.worksBut_damageClip hs c)
    next n hkind => exact State.worksBut_endOperation (State.worksBut_setSector hs (.inr (hruns.2 b op n hop hkind)))

theorem sweepBank_banksWork {b : BankId} {s : State} (hs : s.banksWork) : (sweepBank b s).banksWork := by
  have hbut := State.worksBut_of_banksWork hs b
  simp only [sweepBank]
  split
  next => exact hs
  next =>
    split
    next hempty =>
      simp only [Bool.and_eq_true, List.isEmpty_iff] at hempty
      refine banksWork_congr (banksWork_iff.mpr fun d => ?_) (State.raise_core _ _ _).symm
      by_cases hd : b = d
      · subst hd
        intro hscan hflight
        rw [State.setBank_bank_same] at hflight ⊢
        obtain ⟨hfree, hsub⟩ := banksWork_iff.mp hs b hscan hflight
        exact ⟨fun hop => ⟨(hfree hop).1, (hfree hop).2.1, fun _ => hempty.1⟩, hsub⟩
      · exact State.worksBut_setBank hbut _ d hd
    next => exact bankSettle_banksWork (State.worksBut_setBank hbut _)

theorem completeProgram_banksWork {b : BankId} {success : Bool} {s : State} (hs : s.banksWork) :
    (completeProgram b success s).banksWork := by
  have hbut := State.worksBut_of_banksWork hs b
  unfold completeProgram
  split
  next op page r _ _ =>
    split
    next c q _ =>
      split
      next => exact hs
      next =>
        split
        · refine bankSettle_banksWork (State.worksBut_endOperation ?_)
          unfold programPage
          exact State.worksBut_of hbut (fun d hd => State.modBank_bank_other _ b d _ hd) rfl fun d _ =>
            State.noDirtier_of_eq d rfl
        · refine bankSettle_banksWork (State.worksBut_endOperation ?_)
          unfold failProgram
          refine State.worksBut_congr (State.worksBut_damageClip (s := s.setSector b _ .retired) ?_ c)
            (State.raise_core _ _ _).symm
          exact State.worksBut_setSector hbut (.inl ⟨by decide, by decide⟩)
    next => exact hs
  next => exact hs

theorem completeErase_banksWork {b : BankId} {success : Bool} {s : State} (hs : s.banksWork) :
    (completeErase b success s).banksWork := by
  have hbut := State.worksBut_of_banksWork hs b
  have hended (n : Nat) : (endErase b n success s).worksBut b := by
    unfold endErase
    split
    · have hfree := State.worksBut_setSector (n := n) (x := .free) hbut (.inl ⟨by decide, by decide⟩)
      exact State.worksBut_of hfree (fun _ _ => rfl) rfl fun d _ => State.noDirtier_of_eq d rfl
    · exact State.worksBut_congr (State.worksBut_setSector hbut (.inl ⟨by decide, by decide⟩)) (State.raise_core _ _ _).symm
  unfold completeErase
  split
  next => exact hs
  next op _ =>
    split
    next => exact hs
    next n _ =>
      split
      next => exact hs
      next =>
        refine bankSettle_banksWork ?_
        unfold endSweep
        split
        · exact State.worksBut_congr (State.worksBut_setBank (State.worksBut_endOperation (hended n)) _)
            (State.raise_core _ _ _).symm
        · exact State.worksBut_endOperation (hended n)

theorem completeRead_banksWork {b : BankId} {correct : Bool} {s : State} (hs : s.banksWork) :
    (completeRead b correct s).banksWork := by
  unfold completeRead
  split
  next => exact hs
  next r _ =>
    have hdelivered : (deliverRead r correct s).banksWork := banksWork_of hs rfl rfl
    have hprimed := banksWork_playback.checkPriming r.track _ hdelivered
    exact bankSettle_banksWork (State.worksBut_setBank (State.worksBut_of_banksWork hprimed b) _)

theorem completeSuspend_banksWork {b : BankId} {s : State} (hs : s.banksWork) : (completeSuspend b s).banksWork := by
  unfold completeSuspend
  split
  next => exact hs
  next =>
    split
    · exact bankSettle_banksWork (State.worksBut_setBank (State.worksBut_of_banksWork hs b) _)
    · exact hs

theorem completeScan_banksWork {s : State} (hs : s.banksWork) : (completeScan s).banksWork := by
  unfold completeScan
  split
  · exact settleAll_banksWork _
  · exact hs

theorem putEntries_banksWork {i : CueIndex} {es : List CueEntry} {s : State} (hs : s.banksWork) :
    (putEntries i es s).banksWork := by
  induction es generalizing i s with
  | nil => exact hs
  | cons e es ih =>
    rw [putEntries]
    exact ih (banksWork_of hs rfl rfl)

/-- The banks at work, with the runs and erases that lie within their banks. -/
theorem banksWork_kept : KeptByCore fun s => s.runsOk ∧ s.banksWork where
  congr hs h := ⟨runsOk_congr hs.1 h.core, banksWork_congr hs.2 h.core⟩
  trackTick t s hs := ⟨runsOk_kept.trackTick t s hs.1, banksWork_playback.trackTick t s hs.2⟩
  putEntries i n p es s hread hs := ⟨runsOk_kept.putEntries i n p es s hread hs.1, putEntries_banksWork hs.2⟩
  armTrack t home s hstate hs := ⟨runsOk_kept.armTrack t home s hstate hs.1, banksWork_playback.armTrack t home s hs.2⟩
  goTrack t c s hstate hs := ⟨runsOk_kept.goTrack t c s hstate hs.1, banksWork_playback.goTrack t c s hs.2⟩
  stopTrack t m tr s hstop hs := ⟨runsOk_kept.stopTrack t m tr s hstop hs.1, banksWork_of hs.2 rfl rfl⟩
  breakPlay t c r s hqueue hs := ⟨runsOk_kept.breakPlay t c r s hqueue hs.1, banksWork_playback.breakPlay t s hs.2⟩
  breakHold t s hs := ⟨runsOk_kept.breakHold t s hs.1, banksWork_of hs.2 rfl rfl⟩
  tuneTrack t v p s hread hs := ⟨runsOk_kept.tuneTrack t v p s hread hs.1, banksWork_of hs.2 rfl rfl⟩
  feedTrack t now fs p s hread hs := ⟨runsOk_kept.feedTrack t now fs p s hread hs.1, banksWork_of hs.2 rfl rfl⟩
  clearTrack t s hs := ⟨runsOk_kept.clearTrack t s hs.1, banksWork_playback.clearTrack t s hs.2⟩
  openClip v first p s hread hscan hempty hrun hs := by
    refine ⟨runsOk_kept.openClip v first p s hread hscan hempty hrun hs.1, banksWork_iff.mpr fun d => ?_⟩
    exact State.bankWorks_of (banksWork_iff.mp hs.2 d) rfl rfl (allocate_noDirtier s v.bank first v.sectors d)
  acceptPage c data s hscan hopen hroom hs := by
    refine ⟨runsOk_kept.acceptPage c data s hscan hopen hroom hs.1, ?_⟩
    rw [acceptPage_eq]
    exact bankSettle_banksWork
      (State.worksBut_setBank (State.worksBut_setClip (State.worksBut_of_banksWork hs.2 _) _ _) _)
  closeClip c s hscan hopen hpages hs := ⟨runsOk_kept.closeClip c s hscan hopen hpages hs.1, banksWork_iff.mpr fun d =>
    State.bankWorks_of (banksWork_iff.mp hs.2 d) rfl rfl (State.noDirtier_of_eq d rfl)⟩
  dropClip c s hscan huse hpages hs := by
    refine ⟨runsOk_kept.dropClip c s hscan huse hpages hs.1, bankSettle_banksWork (State.worksBut_setClip ?_ _ _)⟩
    exact State.worksBut_of (State.worksBut_of_banksWork hs.2 _) (fun _ _ => rfl) rfl fun d hd =>
      dirtyRun_noDirtier (hs.1.1 c) hd
  sweepBank b s hs := ⟨runsOk_kept.sweepBank b s hs.1, sweepBank_banksWork hs.2⟩
  haltBank b s hs := by
    refine ⟨runsOk_kept.haltBank b s hs.1, bankSettle_banksWork ?_⟩
    have hstopped := stopOperation_worksBut hs.1 (State.worksBut_of_banksWork hs.2 b)
    exact State.worksBut_congr (State.worksBut_setBank hstopped _) (State.raise_core _ _ _).symm
  setPolicy b policy auto s hs := by
    refine ⟨runsOk_kept.setPolicy b policy auto s hs.1, bankSettle_banksWork fun d hd => ?_⟩
    refine (bankWorks_other hd).suspendReact _ ?_
    exact State.worksBut_setBank (State.worksBut_of_banksWork hs.2 b) _ d hd
  warmReset s hs := ⟨runsOk_kept.warmReset s hs.1, settleAll_banksWork _⟩
  meetTrigger n s hs := ⟨runsOk_kept.meetTrigger n s hs.1, banksWork_playback.meetTrigger n s hs.2⟩
  completeRead b correct s hs := ⟨runsOk_kept.completeRead b correct s hs.1, completeRead_banksWork hs.2⟩
  completeProgram b success s hs := ⟨runsOk_kept.completeProgram b success s hs.1, completeProgram_banksWork hs.2⟩
  completeErase b success s hs := ⟨runsOk_kept.completeErase b success s hs.1, completeErase_banksWork hs.2⟩
  completeSuspend b s hs := ⟨runsOk_kept.completeSuspend b s hs.1, completeSuspend_banksWork hs.2⟩
  completeScan s hs := ⟨runsOk_kept.completeScan s hs.1, completeScan_banksWork hs.2⟩
  hardReset s hs := ⟨runsOk_kept.hardReset s hs.1, fun hscan => by cases hscan⟩

end Sys2Proof.Machine

namespace Sys2Proof.Proofs.BanksAtWork
open Sys2Proof Sys2Proof.Machine

/-- Settles O59: the runs stay within their banks, and every bank an event reaches settles. -/
theorem noBankIdles : Obligations.NoBankIdles := by
  unfold Obligations.NoBankIdles
  intro s t h hruns
  exact ⟨runsOk_kept.step (fun _ _ hs => hs) h hruns,
    fun hwork => (banksWork_kept.step (fun _ _ hs => hs) h ⟨hruns, hwork⟩).2⟩

end Sys2Proof.Proofs.BanksAtWork
end

section
/-! PROOFS. What the level unit leaves of a track that plays a block (R55, R79, R81, R90, R91, R93): the detune swept and
clamped, the accumulator advanced, the gate moved on, SHORT and EDGE latched, and its interpolators. -/

namespace Sys2Proof.Machine

/-- The active detune of a track once the clamp has met it (R90). -/
def State.clampedDetune (s : State) (e : CueEntry) (detune : Int) : Int :=
  clampDetune (freqLimit (s.entryD e)) e.freq detune

/-- The clamp rewrites the detune (R90). -/
def State.clampsDetune (s : State) (e : CueEntry) (detune : Int) : Bool :=
  clampActs (freqLimit (s.entryD e)) e.freq detune

theorem clampDetune_of_not_acts {limit offset detune : Int} (h : clampActs limit offset detune = false) :
    clampDetune limit offset detune = detune := by
  simp only [clampActs, Bool.or_eq_false_iff, decide_eq_false_iff_not] at h
  rw [clampDetune, if_neg h.1, if_neg h.2]

theorem clampTrack_own (t : TrackId) (e : CueEntry) (s : State) :
    (clampTrack t e s).track t =
      { s.track t with
        active := { (s.track t).active with detune := s.clampedDetune e (s.track t).active.detune }
        edge := (s.track t).edge || s.clampsDetune e (s.track t).active.detune } := by
  simp only [clampTrack]
  split
  next h => simp [State.clampedDetune, State.clampsDetune, h]
  next h =>
    rw [Bool.not_eq_true] at h
    simp [State.clampedDetune, State.clampsDetune, h, clampDetune_of_not_acts h]

theorem clampTrack_other (t j : TrackId) (e : CueEntry) (s : State) (h : t ≠ j) :
    (clampTrack t e s).track j = s.track j := by
  simp only [clampTrack]
  split
  · rw [State.raise_track, State.setTrack_track_other s t j _ h]
  · rfl

/-- The feeds of a tick leave of a track all but its interpolators. -/
theorem computeFeeds_own (t : TrackId) (tr : Track) (c : Copy) (word : BitVec 32) (data : Option (List Byte))
    (fs : List Feed) (s : State) :
    { (forEach fs (computeFeed t tr c word data) s).track t with interps := (s.track t).interps } = s.track t := by
  refine forEach_inv fs _ (fun u => { u.track t with interps := (s.track t).interps } = s.track t) (fun u f hu => ?_) s rfl
  simp only [computeFeed, State.modTrack_track_same, State.modPort_track]
  exact hu

theorem computeFeeds_other (t j : TrackId) (tr : Track) (c : Copy) (word : BitVec 32) (data : Option (List Byte))
    (fs : List Feed) (s : State) (h : t ≠ j) : (forEach fs (computeFeed t tr c word data) s).track j = s.track j :=
  forEach_keeps fs _ (fun u => u.track j) (fun u f => by
    simp only [computeFeed, State.modTrack_track_other _ t j _ h, State.modPort_track]) s

theorem computeFeeds_store (t : TrackId) (tr : Track) (c : Copy) (word : BitVec 32) (data : Option (List Byte))
    (fs : List Feed) (s : State) : (forEach fs (computeFeed t tr c word data) s).store = s.store :=
  forEach_keeps fs (computeFeed t tr c word data) State.store (fun _ _ => rfl) s

/-- The NCO word of a track's tick (R92). -/
def Track.tickWord (tr : Track) (c : Copy) : BitVec 32 := ncoWord (c.entry.freq + tr.active.detune)

/-- The detune the sweep and the clamp of a tick leave (R90, R91). -/
def State.sweptDetune (s : State) (tr : Track) (c : Copy) : Int :=
  s.clampedDetune c.entry (tr.active.detune + tr.active.sweep)

/-- A feed that is computed in this tick has its base clamped (R81). -/
def State.short (s : State) (tr : Track) (c : Copy) : Bool := (s.liveFeeds tr).any (s.feedShort tr c)

/-- The gate after a tick in which a block plays, from its two values, its phase and its counter (R55). -/
def gateAfter (gateOn gateOff : Nat) (phase : GatePhase) (counter : Nat) : GatePhase × Nat :=
  if gateOn ≠ 0 && gateOff ≠ 0 then
    if (match phase with
      | .on => gateOn
      | .off => gateOff) ≤ counter + 1 then (phase.other, 0)
    else (phase, counter + 1)
  else (phase, counter)

/-- The gate of a track after the tick. -/
def Track.gateNext (tr : Track) : GatePhase × Nat :=
  gateAfter tr.active.gateOn tr.active.gateOff tr.gatePhase tr.gateCounter

theorem Track.gateNext_eq (tr : Track) :
    tr.gateNext =
      if tr.gateRuns then
        if tr.gateLength ≤ tr.gateCounter + 1 then (tr.gatePhase.other, 0) else (tr.gatePhase, tr.gateCounter + 1)
      else (tr.gatePhase, tr.gateCounter) :=
  rfl

theorem Track.advanceGate_eq (tr : Track) :
    tr.advanceGate = { tr with gatePhase := tr.gateNext.1, gateCounter := tr.gateNext.2 } := by
  rw [Track.gateNext_eq]
  unfold Track.advanceGate
  split
  · split <;> rfl
  · rfl

@[simp] theorem State.raiseIf_track (s : State) (b : Bool) (n : SourceId) (c : Cause) (t : TrackId) :
    (s.raiseIf b n c).track t = s.track t := by
  unfold State.raiseIf
  split <;> rfl

@[simp] theorem State.raiseIf_store (s : State) (b : Bool) (n : SourceId) (c : Cause) :
    (s.raiseIf b n c).store = s.store := by
  unfold State.raiseIf
  split <;> rfl

theorem clampedDetune_congr {s u : State} (h : u.store = s.store) (e : CueEntry) (v : Int) :
    u.clampedDetune e v = s.clampedDetune e v := by
  simp only [State.clampedDetune, State.entryD, State.clip, h]

theorem clampsDetune_congr {s u : State} (h : u.store = s.store) (e : CueEntry) (v : Int) :
    u.clampsDetune e v = s.clampsDetune e v := by
  simp only [State.clampsDetune, State.entryD, State.clip, h]

/-- What the level unit leaves of the track that plays. -/
theorem levelTick_own (t : TrackId) (c : Copy) (data : Option (List Byte)) (s : State) :
    ∃ interps, (levelTick t c data s).track t =
      { s.track t with
        active := { (s.track t).active with detune := s.sweptDetune (s.track t) c }
        edge := (s.track t).edge || s.clampsDetune c.entry ((s.track t).active.detune + (s.track t).active.sweep)
        short := (s.track t).short || s.short (s.track t) c
        nco := (s.track t).nco + 4096 * (s.track t).tickWord c
        gatePhase := (s.track t).gateNext.1
        gateCounter := (s.track t).gateNext.2
        interps := interps } := by
  simp only [levelTick]
  have hown := computeFeeds_own t (s.track t) c (ncoWord (c.entry.freq + (s.track t).active.detune)) data
    (s.liveFeeds (s.track t)) (s.setTrack t (s.track t).silent)
  have hstore := computeFeeds_store t (s.track t) c (ncoWord (c.entry.freq + (s.track t).active.detune)) data
    (s.liveFeeds (s.track t)) (s.setTrack t (s.track t).silent)
  generalize forEach (s.liveFeeds (s.track t)) _ (s.setTrack t (s.track t).silent) = u at hown hstore
  rw [State.setTrack_track_same] at hown
  have hfed : u.track t = { s.track t with interps := (u.track t).interps } :=
    congrArg (fun x : Track => { x with interps := (u.track t).interps }) hown
  generalize hword : ncoWord (c.entry.freq + (s.track t).active.detune) = word
  generalize hraised : State.raiseIf (State.modTrack u t _) _ (trackSource t) .short = v
  have hmoved : v.track t = { u.track t with
      short := (u.track t).short || s.short (s.track t) c
      nco := (u.track t).nco + 4096 * word
      active := { (u.track t).active with detune := (u.track t).active.detune + (u.track t).active.sweep } } := by
    rw [← hraised, State.raiseIf_track, State.modTrack_track_same]
    rfl
  have hstored : v.store = s.store := by
    rw [← hraised, State.raiseIf_store, State.modTrack_store, hstore]
    rfl
  refine ⟨(u.track t).interps, ?_⟩
  rw [State.modTrack_track_same, Track.advanceGate_eq, clampTrack_own, clampedDetune_congr hstored,
    clampsDetune_congr hstored, hmoved, hfed, ← hword]
  rfl

theorem levelTick_other (t j : TrackId) (c : Copy) (data : Option (List Byte)) (s : State) (h : t ≠ j) :
    (levelTick t c data s).track j = s.track j := by
  simp only [levelTick]
  rw [State.modTrack_track_other _ t j _ h, clampTrack_other t j _ _ h, State.raiseIf_track,
    State.modTrack_track_other _ t j _ h, computeFeeds_other t j _ _ _ _ _ _ h, State.setTrack_track_other s t j _ h]

end Sys2Proof.Machine
end

section
/-! PROOFS. The bounds of notices, link, captures, backoffs and live parameters (O56, R51, R90, R91, R108, R173, R186,
R189). -/

namespace Sys2Proof.Machine

/-! ### Notice records and backoffs -/

/-- A property that no record of a track or a bank touches. -/
theorem prefetch_of_rests {P : State → Prop} (congr : ∀ {s u : State}, P s → s.Rests u → P u)
    (tracks : ∀ t tr s, P s → P (s.setTrack t tr)) (banks : ∀ b k s, P s → P (s.setBank b k))
    (sectors : ∀ b n x s, P s → P (s.setSector b n x)) : KeptByPrefetch P := by
  have hblind : BlindToParams P := ⟨congr, fun t tr s _ => tracks t tr s⟩
  refine
    { congr := congr
      setTrack := fun t tr s _ => tracks t tr s
      takeCopy := fun t _ _ s _ => tracks t _ s
      formSplit := fun t _ s _ => tracks t _ s
      pushSlot := fun t _ _ _ _ s _ _ _ => tracks t _ s
      clampTrack := fun t c s _ => hblind.clampTrack t c.entry s
      levelTick := fun t c data s _ => hblind.levelTick t c data s
      bank := fun b => hblind.bank (fun k s _ => banks b k s) (fun _ _ s _ => banks b _ s)
        (fun n s _ _ hs => banks b _ _ (sectors b n _ s hs)) }

theorem noticesOk_of_notices {s u : State} (hs : s.noticesOk) (h : u.notices.records = s.notices.records) :
    u.noticesOk :=
  noticesOk_of hs fun n => .inl (by rw [State.notice, State.notice, h])

theorem noticesOk_prefetch : KeptByPrefetch State.noticesOk :=
  prefetch_of_rests (fun hs h => h.notices hs) (fun _ _ _ => id) (fun _ _ _ => id) (fun _ _ _ _ => id)

theorem putEntries_sansCue (i : CueIndex) (es : List CueEntry) (s : State) :
    { putEntries i es s with cue := s.cue } = s := by
  induction es generalizing i s with
  | nil => rfl
  | cons e es ih =>
    rw [putEntries]
    exact congrArg (fun u : State => { u with cue := s.cue }) (ih (i + 1) (s.setCueEntry i e))

theorem putEntries_field {β : Type} (f : State → β) (hf : ∀ (s : State) x, f { s with cue := x } = f s) (i : CueIndex)
    (es : List CueEntry) (s : State) : f (putEntries i es s) = f s := by
  rw [← hf (putEntries i es s) s.cue, putEntries_sansCue]

theorem stopOperation_field {β : Type} (f : State → β)
    (hf : ∀ (s : State) x y, f { s with store := x, banks := y } = f s) (b : BankId) (s : State) :
    f (stopOperation b s) = f s := by
  unfold stopOperation
  repeat' split
  · rfl
  · exact hf s _ _
  · exact hf s _ _

theorem noticesOk_cleared {s : State} (h : s.notices.records = Vector.replicate 59 none) : s.noticesOk := by
  intro n r hr
  simp [State.notice, h] at hr

theorem noticesOk_storeOps : KeptByStoreOps State.noticesOk where
  putEntries i _ _ es s _ hs := noticesOk_of_notices hs (putEntries_field (·.notices.records) (fun _ _ => rfl) i es s)
  tuneTrack _ _ _ _ _ hs := hs
  feedTrack _ _ _ _ _ _ hs := hs
  openClip _ _ _ _ _ _ _ _ hs := hs
  withPage _ _ _ _ _ _ hs := hs
  closeClip _ _ _ _ _ hs := hs
  dropClip _ _ _ _ _ hs := hs
  marks _ _ _ _ _ _ hs := hs
  stopOperation b s hs := noticesOk_of_notices hs (stopOperation_field (·.notices.records) (fun _ _ _ => rfl) b s)
  warm _ _ := noticesOk_cleared rfl
  programPage _ _ _ _ _ _ _ _ _ _ hs := hs
  failProgram b _ c q s _ _ hs :=
    noticesOk_raise (s := damageClip b c (s.setSector b ((s.clip c).first + q / Config.pagesPerSector) .retired)) hs _ _
  endErase b _ n success s _ _ hs := by
    unfold endErase
    split
    · exact hs
    · exact noticesOk_raise (s := s.setSector b n .retired) hs _ _
  suspended _ _ _ _ _ hs := hs
  scanned _ _ hs := hs
  hardReset _ _ := noticesOk_cleared rfl

theorem portsOk_of_ports {s u : State} (hs : s.portsOk) (h : u.ports = s.ports) : u.portsOk :=
  portsOk_of hs fun p => by rw [State.port, State.port, h]

theorem portsOk_prefetch : KeptByPrefetch State.portsOk :=
  prefetch_of_rests (fun hs h => h.ports hs) (fun _ _ _ => id) (fun _ _ _ => id) (fun _ _ _ _ => id)

theorem endErase_ports (b : BankId) (n : Nat) (success : Bool) (s : State) :
    (endErase b n success s).ports = s.ports := by
  unfold endErase
  split <;> rfl

theorem portsOk_storeOps : KeptByStoreOps State.portsOk where
  putEntries i _ _ es s _ hs := portsOk_of_ports hs (putEntries_field State.ports (fun _ _ => rfl) i es s)
  tuneTrack _ _ _ _ _ hs := hs
  feedTrack _ _ _ _ _ _ hs := hs
  openClip _ _ _ _ _ _ _ _ hs := hs
  withPage _ _ _ _ _ _ hs := hs
  closeClip _ _ _ _ _ hs := hs
  dropClip _ _ _ _ _ hs := hs
  marks _ _ _ _ _ _ hs := hs
  stopOperation b s hs := portsOk_of_ports hs (stopOperation_field State.ports (fun _ _ _ => rfl) b s)
  warm s _ p := by simp [State.warm, State.port, Port.warmReset]
  programPage _ _ _ _ _ _ _ _ _ _ hs := hs
  failProgram _ _ _ _ _ _ _ hs := hs
  endErase b _ n success s _ _ hs := portsOk_of_ports hs (endErase_ports b n success s)
  suspended _ _ _ _ _ hs := hs
  scanned _ _ hs := hs
  hardReset s _ p := by simp [hardReset, State.reset, State.port, Port.reset]

/-! ### The link and the captures -/

/-- A property of the link and the captures, kept by the operations that touch those. -/
structure KeptAside (P : State → Prop) : Prop where
  congr : ∀ {s u : State}, P s → u.aside = s.aside → P u
  serve : ∀ c r s, P s → P (serve (handlerOf c) r s)
  arbitrate : ∀ s, P s → P (arbitrate s)
  receive : ∀ b s, P s → P (receive b s)
  completeFrame : ∀ s, P s → P (completeFrame s)
  gapTick : ∀ s, P s → P (gapTick s)
  offerCapture : ∀ c s, P s → P (offerCapture c s)
  hardReset : ∀ s, P s → P (hardReset s)

theorem timelineTick_aside (s : State) : (timelineTick s).aside = s.aside := by
  simp only [timelineTick, State.raiseIf]
  repeat' split
  all_goals rfl

theorem portTick_aside (p : PortId) (s : State) : (portTick s p).aside = s.aside := by
  simp only [portTick]
  repeat' split
  all_goals rfl

theorem triggerFall_aside (n : LineId) (s : State) : (triggerFall s n).aside = s.aside := by
  unfold triggerFall
  split <;> rfl

theorem markerFall_aside (m : LineId) (s : State) : (markerFall s m).aside = s.aside := by
  unfold markerFall
  split <;> rfl

theorem hearMarker_aside (m : Marker) (s : State) : (hearMarker m s).aside = s.aside := by
  simp only [hearMarker, State.raiseIf]
  repeat' split
  all_goals rfl

theorem releaseReset_aside (levels : BitVec 4) (s : State) : (releaseReset levels s).aside = s.aside := by
  unfold releaseReset
  split <;> rfl

namespace KeptAside

variable {P : State → Prop}

theorem sampleTrigger (h : KeptAside P) (levels : BitVec 4) (offset : BitVec 12) (s : State) (n : LineId) (hs : P s) :
    P (sampleTrigger levels offset s n) := by
  simp only [Machine.sampleTrigger, acceptEdge]
  split
  · exact h.congr hs rfl
  · split
    · refine h.congr ?_ (meetTrigger_aside n _)
      have hoffer (c : Capture) (x y : TriggerLine) :
          P (Machine.offerCapture c ((s.setTrigger n x).setTrigger n y)) :=
        h.offerCapture c _ (h.congr hs rfl)
      split
      · exact h.congr (hoffer _ _ _) rfl
      · exact hoffer _ _ _
    · exact h.congr hs rfl

theorem units (h : KeptAside P) : KeptByUnits P where
  serve := h.serve
  arbitrate := h.arbitrate
  receive := h.receive
  completeFrame := h.completeFrame
  timelineTick s hs := h.congr hs (timelineTick_aside s)
  portTick p s hs := h.congr hs (portTick_aside p s)
  triggerFall n s hs := h.congr hs (triggerFall_aside n s)
  markerFall m s hs := h.congr hs (markerFall_aside m s)
  gapTick := h.gapTick
  judgeFlags s hs := h.congr hs (judgeFlags_field State.aside (fun _ _ => rfl) s)
  trackTick t s hs := h.congr hs (trackTick_aside t s)
  endTick _ hs := h.congr hs rfl
  sendMarker _ hs := h.congr hs rfl
  hearMarker m s hs := h.congr hs (hearMarker_aside m s)
  triggerEdge levels offset s hs := forEach_inv allFour _ P (fun s n => h.sampleTrigger levels offset s n) s hs
  completeRead b correct s hs := h.congr hs (completeRead_aside b correct s)
  completeProgram b success s hs := h.congr hs (completeProgram_aside b success s)
  completeErase b success s hs := h.congr hs (completeErase_aside b success s)
  completeSuspend b s hs := h.congr hs (completeSuspend_aside b s)
  completeScan s hs := h.congr hs (completeScan_aside s)
  hardReset := h.hardReset
  releaseReset levels s hs := h.congr hs (releaseReset_aside levels s)

end KeptAside

theorem linkOk_arrive {s : State} (hs : s.linkOk) (r : Request) : (arrive r s).linkOk := by
  unfold arrive
  split
  next hroom => exact ⟨by simpa [State.modLink] using hroom, hs.2⟩
  next =>
    split
    next hplace => exact ⟨hs.1, by simpa [State.pushAnswer, State.modLink] using hplace⟩
    next => exact hs

theorem linkOk_met {s : State} (hs : s.linkOk) (r : Request) : (s.met r).linkOk := by
  unfold State.met
  split
  · exact hs
  · exact linkOk_arrive hs r

/-- The answer takes the free place that the handler has found (R187). -/
theorem linkOk_answerFront {s u : State} {r : Request} (hs : s.linkOk) (hcan : s.canHandle r = true)
    (hu : u.link = s.link ∨ u.link = { s.link with requests := s.link.requests.take 1 }) (tag : Byte)
    (code : AnswerCode) (payload : List Byte) : (u.answerFront tag code payload).linkOk := by
  obtain ⟨-, hroom⟩ := Bool.and_eq_true_iff.mp hcan
  have hplace : s.link.answers.length < Config.answerList := of_decide_eq_true hroom
  have hrequests := hs.1
  unfold State.linkOk
  simp only [State.answerFront, State.pushAnswer, State.modLink, List.length_append, List.length_singleton,
    List.length_tail]
  obtain h | h := hu
  · rw [h]
    omega
  · rw [h]
    simp only [List.length_take]
    omega

theorem linkOk_serve {s : State} (hs : s.linkOk) (c : Instr) (r : Request) : (serve (handlerOf c) r s).linkOk := by
  have hmet := linkOk_met hs r
  simp only [serve, ← State.met.eq_1]
  split
  next hcan =>
    cases hreply : handlerOf c r.payload (s.met r) with
    | error code => exact linkOk_answerFront hmet hcan (.inl rfl) _ _ _
    | ok reply => exact linkOk_answerFront hmet hcan (handlerOf_link hreply) _ _ _
  next => exact hmet

theorem linkOk_setRx {s : State} (hs : s.linkOk) (rx : Receiver) : (s.setRx rx).linkOk := hs

theorem linkOk_receive {s : State} (hs : s.linkOk) (b : Byte) : (receive b s).linkOk := by
  unfold receive judgeHeader endFrame
  dsimp only
  repeat' split
  all_goals first
    | exact hs
    | exact linkOk_arrive (linkOk_setRx hs _) _

theorem linkOk_arbitrate {s : State} (hs : s.linkOk) : (arbitrate s).linkOk := by
  obtain ⟨-, -, -, hrequests, -, -, -, hanswers⟩ := arbitrate_frame s
  exact ⟨hrequests ▸ hs.1, hanswers.trans hs.2⟩

theorem linkOk_offerCapture {s : State} (hs : s.linkOk) (c : Capture) : (offerCapture c s).linkOk := by
  unfold offerCapture State.raiseIf
  repeat' split
  all_goals exact hs

theorem linkOk_gapTick {s : State} (hs : s.linkOk) : (gapTick s).linkOk := by
  simp only [gapTick]
  repeat' split
  all_goals exact hs

theorem linkOk_kept : KeptAside State.linkOk where
  congr hs h := by
    obtain ⟨hlink, -⟩ := aside_eq_iff.mp h
    unfold State.linkOk
    rwa [hlink]
  serve c r _ hs := linkOk_serve hs c r
  arbitrate _ hs := linkOk_arbitrate hs
  receive b _ hs := linkOk_receive hs b
  completeFrame _ hs := hs
  gapTick _ hs := linkOk_gapTick hs
  offerCapture c _ hs := linkOk_offerCapture hs c
  hardReset _ _ := ⟨Nat.zero_le _, Nat.zero_le _⟩

theorem capturesOk_of_captures {s u : State} (hs : s.capturesOk) (h : u.lines.captures = s.lines.captures) :
    u.capturesOk := by
  unfold State.capturesOk
  rwa [h]

theorem arrive_lines (r : Request) (s : State) : (arrive r s).lines = s.lines := by
  obtain ⟨-, -, -, -, -, -, -, -, -, -, hlines, -⟩ := fields_of_sansLink (arrive_sansLink r s)
  exact hlines

theorem capturesOk_arrive {s : State} (hs : s.capturesOk) (r : Request) : (arrive r s).capturesOk :=
  capturesOk_of_captures hs (by rw [arrive_lines])

theorem capturesOk_handler {c : Instr} {p a : List Byte} {s u : State} (hdone : handlerOf c p s = .ok (a, u))
    (hs : s.capturesOk) : u.capturesOk := by
  obtain h | h | ⟨n, h⟩ := handlerOf_aside hdone
  · exact capturesOk_of_captures hs (aside_eq_iff.mp h).2.1
  · have hnone : u.lines.captures = [] := by
      rw [h]
      exact congrArg (·.2.1) (warmReset_aside s)
    rw [State.capturesOk, hnone]
    exact Nat.zero_le _
  · rw [h]
    exact (List.drop_sublist _ _).length_le.trans hs

theorem capturesOk_serve {s : State} (hs : s.capturesOk) (c : Instr) (r : Request) :
    (serve (handlerOf c) r s).capturesOk := by
  have hmet : (s.met r).capturesOk := by
    unfold State.met
    split
    · exact hs
    · exact capturesOk_arrive hs r
  simp only [serve, ← State.met.eq_1]
  split
  · cases hreply : handlerOf c r.payload (s.met r) with
    | error code => exact capturesOk_of_captures hmet rfl
    | ok reply => exact capturesOk_of_captures (capturesOk_handler hreply hmet) rfl
  · exact hmet

theorem capturesOk_receive {s : State} (hs : s.capturesOk) (b : Byte) : (receive b s).capturesOk := by
  unfold receive judgeHeader endFrame
  dsimp only
  repeat' split
  all_goals first
    | exact hs
    | exact capturesOk_arrive (s := s.setRx _) hs _

theorem capturesOk_offerCapture {s : State} (hs : s.capturesOk) (c : Capture) : (offerCapture c s).capturesOk := by
  unfold offerCapture State.raiseIf
  split
  next hroom =>
    have hjoined : (s.lines.captures ++ [c]).length ≤ Config.captureQueue := by simpa using hroom
    dsimp only
    split
    · exact hjoined
    · exact hjoined
  next => exact hs

theorem capturesOk_gapTick {s : State} (hs : s.capturesOk) : (gapTick s).capturesOk := by
  simp only [gapTick]
  repeat' split
  all_goals exact hs

theorem capturesOk_kept : KeptAside State.capturesOk where
  congr hs h := capturesOk_of_captures hs (aside_eq_iff.mp h).2.1
  serve c r _ hs := capturesOk_serve hs c r
  arbitrate s hs := capturesOk_of_captures hs (by rw [arbitrate_lines])
  receive b _ hs := capturesOk_receive hs b
  completeFrame _ hs := hs
  gapTick _ hs := capturesOk_gapTick hs
  offerCapture c _ hs := capturesOk_offerCapture hs c
  hardReset _ _ := Nat.zero_le _

/-! ### The live parameters -/

/-- Both copies of a track's live parameters are within their ranges, and so are the frequency offsets in its queue. -/
def Track.paramsOk (tr : Track) : Prop := tr.active.ok ∧ tr.staged.ok ∧ ∀ c ∈ tr.queue, c.entry.freqOk

theorem Track.paramsOk_within {a b : Track} (ha : a.paramsOk) (h : Track.Within a b) : b.paramsOk := by
  obtain ⟨hactive, hstaged, hqueue⟩ := ha
  refine ⟨?_, h.staged ▸ hstaged, fun c hc => ?_⟩
  · obtain heq | heq := h.active
    · exact heq ▸ hactive
    · exact heq ▸ hstaged
  · obtain ⟨d, hd, hplays⟩ := List.mem_map.mp (h.queue.subset (List.mem_map_of_mem hc))
    have hentry : d.entry = c.entry := congrArg (·.1) hplays
    exact hentry ▸ hqueue d hd

theorem paramsOk_setTrack {s : State} {t : TrackId} {tr : Track} (hs : s.paramsOk) (htr : tr.paramsOk) :
    (s.setTrack t tr).paramsOk := by
  refine ⟨fun k => ?_, hs.2⟩
  rw [State.setTrack_track]
  split
  · exact htr
  · exact hs.1 k

theorem paramsOk_of {s u : State} (hs : s.paramsOk) (htracks : ∀ k, u.track k = s.track k)
    (hcue : u.cue = s.cue) : u.paramsOk := by
  refine ⟨fun k => ?_, fun i => ?_⟩
  · rw [htracks k]
    exact hs.1 k
  · rw [State.cueEntry, hcue]
    exact hs.2 i

theorem paramsOk_of_track {s u : State} (t : TrackId) (hs : s.paramsOk) (hown : (u.track t).paramsOk)
    (hothers : ∀ k, t ≠ k → u.track k = s.track k) (hcue : u.cue = s.cue) : u.paramsOk := by
  refine ⟨fun k => ?_, fun i => ?_⟩
  · by_cases hk : t = k
    · exact hk ▸ hown
    · rw [hothers k hk]
      exact hs.1 k
  · rw [State.cueEntry, hcue]
    exact hs.2 i

theorem freqLimit_range (d : Option Nat) : 0 ≤ freqLimit d ∧ freqLimit d ≤ 16000000 := by
  cases d with
  | none => decide
  | some d =>
    have hdiv : 16000000 / d ≤ 16000000 := Nat.div_le_self _ _
    simp only [freqLimit]
    generalize 16000000 / d = q at hdiv
    omega

/-- The clamp leaves a detune in range, whatever it meets, at an entry whose frequency offset is (R90, R91). -/
theorem clampedDetune_range (s : State) {e : CueEntry} (he : e.freqOk) (v : Int) :
    -32000000 ≤ s.clampedDetune e v ∧ s.clampedDetune e v ≤ 32000000 := by
  obtain ⟨hlow, hhigh⟩ := he
  obtain ⟨hzero, hlimit⟩ := freqLimit_range (s.entryD e)
  unfold State.clampedDetune clampDetune
  generalize freqLimit (s.entryD e) = limit at hzero hlimit
  split
  · omega
  · split <;> omega

theorem LiveParams.ok_detune {l : LiveParams} (h : l.ok) {v : Int} (hv : -32000000 ≤ v ∧ v ≤ 32000000) :
    { l with detune := v }.ok :=
  ⟨hv.1, hv.2, h.2.2⟩

theorem clampTrack_cue (t : TrackId) (e : CueEntry) (s : State) : (clampTrack t e s).cue = s.cue := by
  simp only [clampTrack]
  split <;> rfl

theorem paramsOk_clampTrack {s : State} (hs : s.paramsOk) (t : TrackId) {e : CueEntry} (he : e.freqOk) :
    (clampTrack t e s).paramsOk := by
  refine paramsOk_of_track t hs ?_ (fun k hk => clampTrack_other t k e s hk) (clampTrack_cue t e s)
  obtain ⟨hactive, hrest⟩ := hs.1 t
  rw [clampTrack_own]
  exact ⟨LiveParams.ok_detune hactive (clampedDetune_range s he _), hrest⟩

theorem paramsOk_levelTick {s : State} (hs : s.paramsOk) (t : TrackId) {c : Copy} (hc : c.entry.freqOk)
    (data : Option (List Byte)) : (levelTick t c data s).paramsOk := by
  have hcue : (levelTick t c data s).cue = s.cue := (levelTick_work t c data s).cue
  refine paramsOk_of_track t hs ?_ (fun k hk => levelTick_other t k c data s hk) hcue
  obtain ⟨interps, hown⟩ := levelTick_own t c data s
  obtain ⟨hactive, hrest⟩ := hs.1 t
  rw [hown]
  exact ⟨LiveParams.ok_detune hactive (clampedDetune_range s hc _), hrest⟩

theorem Track.paramsOk_append {tr : Track} {cs : List Copy} {w : Walk} (h : tr.paramsOk)
    (hcs : ∀ c ∈ cs, c.entry.freqOk) : { tr with queue := tr.queue ++ cs, walk := w }.paramsOk := by
  obtain ⟨hactive, hstaged, hqueue⟩ := h
  exact ⟨hactive, hstaged, fun c hc => (List.mem_append.mp hc).elim (hqueue c) (hcs c)⟩

theorem paramsOk_prefetch : KeptByPrefetch State.paramsOk where
  congr hs h := paramsOk_of hs (fun k => (State.core_track h.core k).symm) (core_eq_iff.mp h.core).1.symm
  setTrack t tr s hw hs := paramsOk_setTrack hs (Track.paramsOk_within (hs.1 t) hw)
  takeCopy t i trailing s _ hs := by
    refine paramsOk_setTrack hs (Track.paramsOk_append (hs.1 t) fun c hc => ?_)
    rw [List.mem_singleton.mp hc]
    exact hs.2 i
  formSplit t c s _ hs := by
    refine paramsOk_setTrack hs (Track.paramsOk_append (hs.1 t) fun d hd => ?_)
    simp only [List.mem_cons, List.not_mem_nil, or_false] at hd
    obtain rfl | rfl := hd <;> exact hs.2 _
  pushSlot t _ _ _ _ s _ _ _ hs := paramsOk_setTrack hs (hs.1 t)
  clampTrack t c s hc hs := paramsOk_clampTrack hs t ((hs.1 t).2.2 c hc)
  levelTick t c data s hc hs := paramsOk_levelTick hs t ((hs.1 t).2.2 c hc) data
  bank b :=
    { congr := fun hs h => paramsOk_of hs (fun k => (State.core_track h.core k).symm) (core_eq_iff.mp h.core).1.symm
      setTrack := fun t tr s hw hs => paramsOk_setTrack hs (Track.paramsOk_within (hs.1 t) hw)
      move := fun _ _ _ hs => hs
      startProgram := fun _ _ _ _ hs => hs
      startErase := fun _ _ _ _ hs => hs }

/-! #### What the requests carry -/

theorem readEntry_freqOk {p : List Byte} {e : CueEntry} (h : readEntry p = some e) : e.freqOk := by
  simp only [readEntry, Option.bind_eq_bind, Option.bind_eq_some_iff] at h
  obtain ⟨_, -, _, -, _, -, _, -, _, -, _, -, h⟩ := h
  split at h
  next hrange =>
    cases h
    unfold CueEntry.freqOk
    simpa only [inRange, Bool.and_eq_true, decide_eq_true_eq] using hrange.2.2.1
  next => cases h

theorem readEntries_freqOk {n : Nat} {p : List Byte} {es : List CueEntry} (h : readEntries n p = some es) :
    ∀ e ∈ es, e.freqOk := by
  induction n generalizing p es with
  | zero =>
    cases h
    simp
  | succ n ih =>
    simp only [readEntries, Option.bind_eq_bind, Option.bind_eq_some_iff] at h
    obtain ⟨e, he, r, hr, h⟩ := h
    cases h
    exact List.forall_mem_cons.mpr ⟨readEntry_freqOk he, ih hr⟩

theorem paramsOk_putEntries {s : State} (hs : s.paramsOk) {es : List CueEntry} (hes : ∀ e ∈ es, e.freqOk)
    (i : CueIndex) : (putEntries i es s).paramsOk := by
  induction es generalizing i s with
  | nil => exact hs
  | cons e es ih =>
    obtain ⟨he, hrest⟩ := List.forall_mem_cons.mp hes
    refine ih (s := s.setCueEntry i e) ⟨hs.1, fun j => ?_⟩ hrest (i + 1)
    rw [State.setCueEntry_cueEntry]
    split
    · exact he
    · exact hs.2 j

theorem byteAt_le (p : List Byte) (i : Nat) : byteAt p i ≤ 255 := Nat.le_of_lt_succ (p.getD i 0).isLt

theorem word16_le (p : List Byte) (i : Nat) : word16 p i ≤ 65535 := by
  have hlow := byteAt_le p i
  have hhigh := byteAt_le p (i + 1)
  unfold word16
  omega

theorem readTune_ok {p : List Byte} {v : TuneValues} (h : readTune p = some v) :
    ∀ l : LiveParams, l.ok → (l.tuned v).ok := by
  simp only [readTune, Option.bind_eq_bind, Option.bind_eq_some_iff] at h
  obtain ⟨mode, -, now, -, h⟩ := h
  split at h
  next hrange =>
    cases h
    rintro l ⟨-, -, -, -, -, -, -, hfeeds⟩
    simp only [inRange, Bool.and_eq_true, decide_eq_true_eq] at hrange
    obtain ⟨-, hdetune, hsweep, htrim, -⟩ := hrange
    exact ⟨hdetune.1, hdetune.2, hsweep.1, hsweep.2, htrim, word16_le p 14, word16_le p 16, hfeeds⟩
  next => cases h

theorem readFeeds_offsets {n : Nat} {p : List Byte} {fs : List Feed} (h : readFeeds n p = some fs) :
    ∀ f ∈ fs, f.offset ≤ 120 := by
  induction n generalizing p fs with
  | zero =>
    cases h
    simp
  | succ n ih =>
    simp only [readFeeds, Option.bind_eq_bind, Option.bind_eq_some_iff] at h
    obtain ⟨port, -, r, hr, h⟩ := h
    split at h
    next hrange =>
      cases h
      exact List.forall_mem_cons.mpr ⟨hrange, ih hr⟩
    next => cases h

theorem readFeedList_ok {p : List Byte} {now : Bool} {fs : List Feed} (h : readFeedList p = some (now, fs)) :
    ∀ l : LiveParams, l.ok → { l with feeds := fs }.ok := by
  simp only [readFeedList, Option.bind_eq_bind, Option.bind_eq_some_iff] at h
  obtain ⟨now', -, feeds, hfeeds, h⟩ := h
  split at h
  next hrange =>
    cases h
    rintro l ⟨hlow, hhigh, hslow, hshigh, htrim, hon, hoff, -⟩
    simp only [feedsDistinct, Bool.and_eq_true, decide_eq_true_eq] at hrange
    exact ⟨hlow, hhigh, hslow, hshigh, htrim, hon, hoff, hrange.2.1, hrange.2.2, readFeeds_offsets hfeeds⟩
  next => cases h

theorem Track.tune_paramsOk {tr : Track} {v : TuneValues} (htr : tr.paramsOk)
    (hv : ∀ l : LiveParams, l.ok → (l.tuned v).ok) : (tr.tune v).paramsOk := by
  obtain ⟨hactive, hstaged, hqueue⟩ := htr
  unfold Track.tune
  split
  · exact ⟨hv _ hactive, hv _ hstaged, hqueue⟩
  · exact ⟨hactive, hv _ hstaged, hqueue⟩

theorem Track.feed_paramsOk {tr : Track} {now : Bool} {fs : List Feed} (htr : tr.paramsOk)
    (hfs : ∀ l : LiveParams, l.ok → { l with feeds := fs }.ok) : (tr.feed now fs).paramsOk := by
  obtain ⟨hactive, hstaged, hqueue⟩ := htr
  unfold Track.feed
  split
  · exact ⟨hfs _ hactive, hfs _ hstaged, hqueue⟩
  · exact ⟨hactive, hfs _ hstaged, hqueue⟩

theorem LiveParams.ok_default : LiveParams.default.ok := by
  refine ⟨?_, ?_, ?_, ?_, ?_, ?_, ?_, ?_, ?_, ?_⟩ <;> decide

theorem Track.reset_paramsOk : Track.reset.paramsOk :=
  ⟨LiveParams.ok_default, LiveParams.ok_default, fun _ h => by cases h⟩

theorem CueEntry.empty_freqOk : CueEntry.empty.freqOk := ⟨by decide, by decide⟩

theorem paramsOk_storeOps : KeptByStoreOps State.paramsOk where
  putEntries i _ _ _ _ hread hs := paramsOk_putEntries hs (readEntries_freqOk hread) i
  tuneTrack t v _ s hread hs := paramsOk_setTrack hs (Track.tune_paramsOk (hs.1 t) (readTune_ok hread))
  feedTrack t now fs _ s hread hs := paramsOk_setTrack hs (Track.feed_paramsOk (hs.1 t) (readFeedList_ok hread))
  openClip _ _ _ _ _ _ _ _ hs := hs
  withPage _ _ _ _ _ _ hs := hs
  closeClip _ _ _ _ _ hs := hs
  dropClip _ _ _ _ _ hs := hs
  marks _ _ _ _ _ _ hs := hs
  stopOperation b s hs := paramsOk_of hs
    (fun k => congrFun (stopOperation_field State.track (fun _ _ _ => rfl) b s) k)
    (stopOperation_field State.cue (fun _ _ _ => rfl) b s)
  warm s hs := ⟨fun k => by
    simp only [State.warm, State.track, Fin.getElem_fin, Vector.getElem_replicate]
    exact Track.reset_paramsOk, hs.2⟩
  programPage _ _ _ _ _ _ _ _ _ _ hs := hs
  failProgram _ _ _ _ _ _ _ hs := hs
  endErase _ _ _ success _ _ _ hs := by
    unfold endErase
    split <;> exact hs
  suspended _ _ _ _ _ hs := hs
  scanned _ _ hs := hs
  hardReset s _ := ⟨fun k => by
    simp only [hardReset, State.reset, State.track, Fin.getElem_fin, Vector.getElem_replicate]
    exact Track.reset_paramsOk, fun _ => CueEntry.empty_freqOk⟩

end Sys2Proof.Machine

namespace Sys2Proof.Proofs.Bounds

open Sys2Proof Sys2Proof.Machine

/-- Settles O56. Each bound is a property that the units keep: the notice records and backoffs do not hang on tracks or
banks, the link and the captures stand aside of both, and the live parameters move only within their ranges. -/
theorem stepsKeepTheirBounds : Obligations.StepsKeepTheirBounds := by
  unfold Obligations.StepsKeepTheirBounds
  intro s t hstep
  exact ⟨(noticesOk_storeOps.core noticesOk_prefetch).step (fun _ _ h => h) hstep,
    linkOk_kept.units.step (fun _ _ h => h) hstep,
    capturesOk_kept.units.step (fun _ _ h => h) hstep,
    (portsOk_storeOps.core portsOk_prefetch).step (fun _ _ h => h) hstep,
    (paramsOk_storeOps.core paramsOk_prefetch).step (fun _ _ h => h) hstep⟩

end Sys2Proof.Proofs.Bounds
end

section
/-! PROOFS. A track's entry queue follows its program (R6 to R13, R65 to R70): what the walk does at the back of the
queue keeps it so. -/

namespace Sys2Proof.Machine

/-! ### The parts of the statement -/

/-- Where a track stands as its front copy begins. -/
def Track.standing (tr : Track) : Standing := { link := tr.link, decision := tr.decision }

/-- The queue, its last two copies apart where they are the paths of a split, follows the program. -/
def Track.queueFollows (tr : Track) : Prop :=
  ∃ main split, tr.queue = main ++ split ∧ (∀ c ∈ main, c.path = .main) ∧ copiesLead tr.standing main ∧
    (split = [] ∨ ∃ before c a b, main = before ++ [c] ∧ split = [a, b] ∧ c.splits ∧ tr.walk.phase = .split ∧
      tr.walk.shadow = (standsAfter tr.standing before).link ∧ tr.walk.decided = none ∧
      a.path = .taken ∧ a.index = c.entry.target.index c.index ∧ a.trailing = false ∧
      b.path = .fall ∧ b.index = c.index + 1 ∧ b.trailing = false)

/-- The queue and the walk of a track follow its program, and where it holds there is a HOLD entry. -/
structure Track.Follows (tr : Track) : Prop where
  queue : tr.queueFollows
  walk : tr.walkFollows
  hold : tr.state = .holding → ∃ c, tr.queue.head? = some c ∧ c.isHold = true

theorem Track.Follows.program {tr : Track} (h : tr.Follows) : tr.followsProgram := by
  refine ⟨h.queue, h.walk, fun c hstate hhead => ?_⟩
  obtain ⟨d, hd, hhold⟩ := h.hold hstate
  cases hhead.symm.trans hd
  exact hhold

theorem Track.Follows.of_program {tr : Track} (h : tr.followsProgram) (hstate : tr.state ≠ .holding) : tr.Follows := by
  obtain ⟨hqueue, hwalk, -⟩ := h
  exact ⟨hqueue, hwalk, fun hh => absurd hh hstate⟩

/-- What the program of track `a` hangs on stands in `b`, which does not begin to hold. -/
structure Track.SameProgram (a b : Track) : Prop where
  queue : b.queue = a.queue
  walk : b.walk = a.walk
  link : b.link = a.link
  decision : b.decision = a.decision
  state : b.state = .holding → a.state = .holding

namespace Track.SameProgram

theorem refl (a : Track) : Track.SameProgram a a := ⟨rfl, rfl, rfl, rfl, id⟩

theorem trans {a b c : Track} (h : Track.SameProgram a b) (k : Track.SameProgram b c) : Track.SameProgram a c :=
  ⟨k.queue.trans h.queue, k.walk.trans h.walk, k.link.trans h.link, k.decision.trans h.decision,
    fun hc => h.state (k.state hc)⟩

theorem of_sameBut {a b : Track} (h : a.SameBut b) : Track.SameProgram a b := by
  obtain ⟨heq, -⟩ := h
  rw [← heq]
  exact ⟨rfl, rfl, rfl, rfl, id⟩

theorem standing {a b : Track} (h : Track.SameProgram a b) : b.standing = a.standing := by
  rw [Track.standing, Track.standing, h.link, h.decision]

theorem queueFollows {a b : Track} (h : Track.SameProgram a b) (ha : a.queueFollows) : b.queueFollows := by
  unfold Track.queueFollows
  rwa [h.queue, h.walk, h.standing]

theorem walkFollows {a b : Track} (h : Track.SameProgram a b) (ha : a.walkFollows) : b.walkFollows := by
  unfold Track.walkFollows
  rwa [h.queue, h.walk, h.link, h.decision]

theorem follows {a b : Track} (h : Track.SameProgram a b) (ha : a.Follows) : b.Follows :=
  ⟨h.queueFollows ha.queue, h.walkFollows ha.walk, fun hb => by
    rw [h.queue]
    exact ha.hold (h.state hb)⟩

theorem program {a b : Track} (h : Track.SameProgram a b) (ha : a.followsProgram) : b.followsProgram := by
  obtain ⟨hqueue, hwalk, hhold⟩ := ha
  refine ⟨h.queueFollows hqueue, h.walkFollows hwalk, fun c hb => ?_⟩
  rw [h.queue]
  exact hhold c (h.state hb)

end Track.SameProgram

/-! ### Copies that lead to one another -/

theorem standsAfter_concat (x : Standing) (cs : List Copy) (c : Copy) :
    standsAfter x (cs ++ [c]) = c.leaves (standsAfter x cs) := by
  simp [standsAfter]

theorem copiesLead_concat (x : Standing) (cs : List Copy) (d : Copy) :
    copiesLead x (cs ++ [d]) ↔
      copiesLead x cs ∧ ∀ c, cs.getLast? = some c → c.leadsTo (standsAfter x cs.dropLast) d.index d.trailing := by
  induction cs generalizing x with
  | nil => simp [copiesLead]
  | cons a r ih =>
    cases r with
    | nil => simp [copiesLead, standsAfter]
    | cons b r =>
      have hlast : (a :: b :: r).getLast? = (b :: r).getLast? := List.getLast?_cons_cons
      have hdrop : (a :: b :: r).dropLast = a :: (b :: r).dropLast := rfl
      rw [hlast, hdrop]
      simp only [List.cons_append, copiesLead] at ih ⊢
      rw [ih (a.leaves x), and_assoc]
      rfl

theorem copiesLead_concat_of {x : Standing} {cs : List Copy} {c d : Copy} (hindex : d.index = c.index)
    (htrailing : d.trailing = c.trailing) (h : copiesLead x (cs ++ [c])) : copiesLead x (cs ++ [d]) := by
  rw [copiesLead_concat] at h ⊢
  rwa [hindex, htrailing]

/-- Outside a split the whole queue is on the track's one path. -/
theorem Track.queueFollows.unsplit {tr : Track} (h : tr.queueFollows) (hphase : tr.walk.phase ≠ .split) :
    (∀ c ∈ tr.queue, c.path = .main) ∧ copiesLead tr.standing tr.queue := by
  obtain ⟨main, split, hqueue, hmain, hlead, rfl | ⟨_, _, _, _, -, -, -, hsplit, -⟩⟩ := h
  · rw [List.append_nil] at hqueue
    rw [hqueue]
    exact ⟨hmain, hlead⟩
  · exact absurd hsplit hphase

theorem Track.queueFollows_of_leads {tr : Track} (hmain : ∀ c ∈ tr.queue, c.path = .main)
    (hlead : copiesLead tr.standing tr.queue) : tr.queueFollows :=
  ⟨tr.queue, [], (List.append_nil _).symm, hmain, hlead, .inl rfl⟩

/-! ### The walk at the back copy -/

/-- The walk goes on from back copy `c`, which begins where the track stands at `x` (R65 to R68). -/
def Walk.goesOnFrom (w : Walk) (x : Standing) (c : Copy) : Prop :=
  match w.phase with
  | .copy i trailing => c.leadsTo x i trailing ∧
      if trailing then w.decided = none ∧ w.agrees (c.leaves x)
      else w.shadow = (c.leaves x).link ∧ w.decided = none
  | .slots _ | .hold => if c.trailing then w.agrees x else w.shadow = x.link ∧ w.decided = none
  | .await => c.trailing = true ∧ w.shadow = x.link ∧ w.decided = none
  | .splitWait => c.splits ∧ w.shadow = x.link ∧ w.decided = none
  | .split | .done _ | .stopped => True

theorem Track.walkFollows_iff {tr : Track} {c : Copy} (h : tr.queue.getLast? = some c) :
    tr.walkFollows ↔ tr.walk.goesOnFrom (standsAfter tr.standing tr.queue.dropLast) c := by
  unfold Track.walkFollows Walk.goesOnFrom
  rw [h]
  cases tr.walk.phase <;> exact Iff.rfl

/-- A walk about to make slots of copy `c`, or at rest beyond a HOLD, knows where the track then stands. -/
def Walk.stands (w : Walk) (x : Standing) (c : Copy) : Prop :=
  if c.trailing then w.agrees x else w.shadow = x.link ∧ w.decided = none

theorem Walk.goesOnFrom_slots {w : Walk} {k : Nat} (hw : w.phase = .slots k) (x : Standing) (c : Copy) :
    w.goesOnFrom x c ↔ w.stands x c := by
  simp only [Walk.goesOnFrom, hw, Walk.stands]

theorem Walk.stands_setPhase {w : Walk} {x : Standing} {c : Copy} (h : w.stands x c) (p : WalkPhase) :
    ({ w with phase := p } : Walk).stands x c := h

/-- Behind a trailing copy the walk copies the decided successor, awaits it or stops (R66). -/
theorem Track.afterTrailing_goesOn {tr : Track} {x : Standing} {c : Copy} (hc : c.trailing = true)
    (h : tr.walk.agrees x) : tr.afterTrailing.walk.goesOnFrom x c := by
  have hlink : (c.leaves x).link = x.link := by simp [Copy.leaves, hc]
  have hleads {i : CueIndex} (hi : x.decision = .go i) : c.leadsTo x i false := by
    rw [Copy.leadsTo, if_pos hc]
    exact ⟨rfl, hi⟩
  unfold Walk.agrees at h
  unfold Track.afterTrailing
  split at h
  next i hafter =>
    obtain ⟨hgo, hshadow, hdecided⟩ := h
    simp only [hafter]
    exact ⟨hleads hgo, hshadow.trans hlink.symm, hdecided⟩
  next i l hafter =>
    obtain ⟨hgo, hset, hdecided⟩ := h
    simp only [hafter]
    exact ⟨hleads hgo, hset.symm.trans hlink.symm, hdecided⟩
  next hafter =>
    obtain ⟨hshadow, hgo⟩ := h
    simp only [hafter]
    split
    next i hdecided => exact ⟨hleads (hgo i hdecided), hshadow.trans hlink.symm, rfl⟩
    next hdecided => exact ⟨hc, hshadow, hdecided⟩
  next hafter =>
    simp only [hafter]
    exact trivial
  next hafter =>
    simp only [hafter]
    exact trivial

/-- Behind a late branch the walk copies the trailing entry and keeps what follows that (R13, R66). -/
theorem Track.afterBranch_agrees {tr : Track} {x : Standing} {c : Copy} (hc : c.trailing = false)
    (hlate : c.entry.isLateBranch = true) (hshadow : tr.walk.shadow = x.link) (hdecided : tr.walk.decided = none)
    (p : WalkPhase) : ({ tr.walk with phase := p, after := tr.afterBranch c } : Walk).agrees (c.leaves x) := by
  simp only [CueEntry.isLateBranch, Bool.and_eq_true] at hlate
  obtain ⟨hlate, hbranches⟩ := hlate
  cases hnext : c.entry.next <;> simp only [hnext, NextKind.branches, Bool.false_eq_true] at hbranches
  case goto | call | ifSet | ifClear =>
    simp [Walk.agrees, Track.afterBranch, Copy.leaves, hc, hnext, hlate, hshadow, hdecided]
  case ret =>
    cases hlink : x.link <;>
      simp [Walk.agrees, Track.afterBranch, Copy.leaves, hc, hnext, hlate, hshadow, hdecided, hlink]

/-- Behind a copy whose next kind is not late the walk copies what that names, forms a split or stops (R65, R69). -/
theorem Track.walkOn_goesOn {tr : Track} {x : Standing} {c : Copy} (h : tr.walk.stands x c) :
    (tr.walkOn c).walk.goesOnFrom x c := by
  unfold Walk.stands at h
  unfold Track.walkOn
  split
  next hc =>
    rw [if_pos hc] at h
    exact Track.afterTrailing_goesOn hc h
  next hc =>
    rw [if_neg hc] at h
    obtain ⟨hshadow, hdecided⟩ := h
    have hplays : c.trailing = false := Bool.eq_false_iff.mpr hc
    split
    next hlate =>
      refine ⟨?_, hdecided, Track.afterBranch_agrees hplays hlate hshadow hdecided _⟩
      rw [Copy.leadsTo, if_neg hc, if_pos hlate]
      exact ⟨rfl, rfl⟩
    next hlate =>
      have hleads {i : CueIndex} (hi : match c.entry.next with
          | .next | .hold => i = c.index + 1
          | .goto | .call => i = c.entry.target.index c.index
          | .ret => x.link = some i
          | .ifSet | .ifClear => i = c.index + 1 ∧ c.entry.target.index c.index = c.index + 1
          | .finish => False) : c.leadsTo x i false := by
        rw [Copy.leadsTo, if_neg hc, if_neg hlate]
        exact ⟨rfl, hi⟩
      simp only [CueEntry.isLateBranch, Bool.and_eq_true, not_and, Bool.not_eq_true] at hlate
      have hsoon (hb : c.entry.next.branches = true) : c.entry.late = false := by
        by_contra hl
        rw [hlate (Bool.not_eq_false _ ▸ hl)] at hb
        cases hb
      cases hnext : c.entry.next <;> rw [hnext] at hleads hsoon <;> dsimp only at hleads ⊢
      case next | hold =>
        refine ⟨hleads rfl, ?_, hdecided⟩
        simpa [Track.setPhase, Copy.leaves, hplays, hnext] using hshadow
      case goto =>
        refine ⟨hleads rfl, ?_, hdecided⟩
        simpa [Track.setPhase, Copy.leaves, hplays, hnext, hsoon rfl] using hshadow
      case call =>
        refine ⟨hleads rfl, ?_, hdecided⟩
        simp [Copy.leaves, hplays, hnext, hsoon rfl]
      case ret =>
        split
        next l hl =>
          refine ⟨hleads (hshadow.symm.trans hl), ?_, hdecided⟩
          simpa [Track.setPhase, Copy.leaves, hplays, hnext, hsoon rfl] using hshadow
        next => exact trivial
      case ifSet | ifClear =>
        split
        next hsame =>
          refine ⟨hleads ⟨rfl, hsame⟩, ?_, hdecided⟩
          simpa [Track.setPhase, Copy.leaves, hplays, hnext, hsoon rfl] using hshadow
        next hdiffer => exact ⟨⟨hplays, hsoon rfl, by simp [hnext], hdiffer⟩, hshadow, hdecided⟩
      case finish => exact trivial

end Sys2Proof.Machine
end

section
/-! PROOFS. The program of a track stands under its walk, its play and its requests (O60, R4 to R13, R39 to R47, R64 to
R70, R75). -/

namespace Sys2Proof.Machine

/-! ### Steps of the walk (R64 to R69) -/

theorem Track.Follows.setPhase {tr : Track} (h : tr.Follows) {p : WalkPhase} (hphase : tr.walk.phase ≠ .split)
    (hwalk : (tr.setPhase p).walkFollows) : (tr.setPhase p).Follows := by
  obtain ⟨hmain, hlead⟩ := h.queue.unsplit hphase
  exact ⟨Track.queueFollows_of_leads hmain hlead, hwalk, h.hold⟩

theorem Track.Follows.stands {tr : Track} {c : Copy} {k : Nat} (h : tr.Follows) (hc : tr.queue.getLast? = some c)
    (hphase : tr.walk.phase = .slots k) : tr.walk.stands (standsAfter tr.standing tr.queue.dropLast) c :=
  (Walk.goesOnFrom_slots hphase _ c).mp ((Track.walkFollows_iff hc).mp h.walk)

theorem Track.Follows.setSlots {tr : Track} {c : Copy} (h : tr.Follows) (hc : tr.queue.getLast? = some c)
    (hphase : tr.walk.phase ≠ .split) (hstands : tr.walk.stands (standsAfter tr.standing tr.queue.dropLast) c)
    (k : Nat) : (tr.setPhase (.slots k)).Follows :=
  h.setPhase hphase ((Track.walkFollows_iff (tr := tr.setPhase (.slots k)) hc).mpr
    ((Walk.goesOnFrom_slots rfl _ c).mpr hstands))

/-- The back copy is replaced by one of the same entry at the same place, and the walk goes on from it. -/
theorem Track.Follows.replaceBack {tr u : Track} {c d : Copy} (h : tr.Follows) (hc : tr.queue.getLast? = some c)
    (hphase : tr.walk.phase ≠ .split) (hindex : d.index = c.index) (htrailing : d.trailing = c.trailing)
    (hentry : d.entry = c.entry) (hpath : d.path = c.path) (hqueue : u.queue = tr.queue.dropLast ++ [d])
    (hstanding : u.standing = tr.standing) (hstate : u.state = tr.state)
    (hwalk : u.walk.goesOnFrom (standsAfter tr.standing tr.queue.dropLast) d) : u.Follows := by
  have hback : tr.queue = tr.queue.dropLast ++ [c] := (List.dropLast_append_getLast? c hc).symm
  obtain ⟨hmain, hlead⟩ := h.queue.unsplit hphase
  refine ⟨Track.queueFollows_of_leads ?_ ?_, ?_, fun hholding => ?_⟩
  · rw [hqueue]
    rw [hback] at hmain
    intro x hx
    obtain hx | hx := List.mem_append.mp hx
    · exact hmain x (List.mem_append_left _ hx)
    · rw [List.mem_singleton.mp hx, hpath]
      exact hmain c (by simp)
  · rw [hqueue, hstanding]
    rw [hback] at hlead
    exact copiesLead_concat_of hindex htrailing hlead
  · rw [Track.walkFollows_iff (c := d) (by rw [hqueue]; simp), hqueue, hstanding, List.dropLast_concat]
    exact hwalk
  · obtain ⟨e, he, hhold⟩ := h.hold (hstate.symm.trans hholding)
    rw [hback] at he
    rw [hqueue]
    cases hdrop : tr.queue.dropLast with
    | nil =>
      rw [hdrop] at he
      cases he
      refine ⟨d, rfl, ?_⟩
      rwa [Copy.isHold, hentry, htrailing]
    | cons a r =>
      rw [hdrop] at he
      exact ⟨e, he, hhold⟩

theorem Copy.prepared_stands {w : Walk} {x : Standing} {c : Copy} (h : w.stands x c) (n : Nat) :
    w.stands x { c with prepared := n } := h

theorem Track.endOfPlay_follows {tr : Track} {c : Copy} {k : Nat} (h : tr.Follows)
    (hc : tr.queue.getLast? = some c) (hphase : tr.walk.phase = .slots k) : (tr.endOfPlay c).Follows := by
  have hsplit : tr.walk.phase ≠ .split := by simp [hphase]
  have hstands := h.stands hc hphase
  unfold Track.endOfPlay
  dsimp only
  split
  · exact h.setPhase hsplit ((Track.walkFollows_iff (tr := tr.setPhase .hold) hc).mpr hstands)
  · split
    · exact h.replaceBack (d := { c with prepared := c.prepared + 1 }) hc hsplit rfl rfl rfl rfl rfl rfl rfl ((Walk.goesOnFrom_slots rfl _ _).mpr hstands)
    · have hgoes := Track.walkOn_goesOn (tr := { tr with queue := tr.queue.dropLast ++ [{ c with
        prepared := c.prepared + 1 }] }) (Copy.prepared_stands hstands (c.prepared + 1))
      rw [Track.walkOn_eq]
      exact h.replaceBack (d := { c with prepared := c.prepared + 1 }) hc hsplit rfl rfl rfl rfl rfl rfl rfl hgoes

/-- A copy that the back copy leads to joins the queue (R57, R65). -/
theorem Track.Follows.pushCopy {tr : Track} {c : Copy} (h : tr.Follows) {w : Walk}
    (hphase : tr.walk.phase = .copy c.index c.trailing) (hpath : c.path = .main)
    (hw : w.phase = .slots 0 ∨ ∃ r, w.phase = .done r) (hshadow : w.shadow = tr.walk.shadow)
    (hdecided : w.decided = tr.walk.decided) (hafter : w.after = tr.walk.after) :
    { tr with queue := tr.queue ++ [c], walk := w }.Follows := by
  obtain ⟨hmain, hlead⟩ := h.queue.unsplit (by simp [hphase])
  have hwalk := h.walk
  have hagrees (x : Standing) (ha : tr.walk.agrees x) : w.agrees x := by
    unfold Walk.agrees at ha ⊢
    rwa [hshadow, hdecided, hafter]
  have hback : (∀ d, tr.queue.getLast? = some d →
      d.leadsTo (standsAfter tr.standing tr.queue.dropLast) c.index c.trailing) ∧
      w.stands (standsAfter tr.standing tr.queue) c := by
    unfold Walk.stands
    cases hlast : tr.queue.getLast? with
    | none =>
      simp only [Track.walkFollows, hphase, hlast] at hwalk
      obtain ⟨htrailing, hplain, hnone⟩ := hwalk
      have hnil := List.getLast?_eq_none_iff.mp hlast
      refine ⟨fun d hd => (nomatch hd), ?_⟩
      rw [htrailing, hnil, hshadow, hdecided]
      exact ⟨hplain, hnone⟩
    | some d =>
      have hgoes := (Track.walkFollows_iff hlast).mp hwalk
      simp only [Walk.goesOnFrom, hphase] at hgoes
      obtain ⟨hleads, hrest⟩ := hgoes
      have hjoined : standsAfter tr.standing tr.queue = d.leaves (standsAfter tr.standing tr.queue.dropLast) := by
        conv_lhs => rw [(List.dropLast_append_getLast? d hlast).symm, standsAfter_concat]
      refine ⟨fun e he => Option.some.inj he ▸ hleads, ?_⟩
      rw [hjoined, hshadow, hdecided]
      split at hrest
      next ht =>
        rw [if_pos ht]
        exact hagrees _ hrest.2
      next ht =>
        rw [if_neg ht]
        exact hrest
  obtain ⟨hleads, hstands⟩ := hback
  refine ⟨Track.queueFollows_of_leads (fun x hx => ?_) ((copiesLead_concat _ _ _).mpr ⟨hlead, hleads⟩), ?_,
    fun hholding => ?_⟩
  · obtain hx | hx := List.mem_append.mp hx
    · exact hmain x hx
    · exact List.mem_singleton.mp hx ▸ hpath
  · rw [Track.walkFollows_iff (c := c) (by simp), List.dropLast_concat]
    obtain hslots | ⟨r, hdone⟩ := hw
    · exact (Walk.goesOnFrom_slots hslots _ c).mpr hstands
    · simp only [Walk.goesOnFrom, hdone]
  · obtain ⟨e, he, hhold⟩ := h.hold hholding
    exact ⟨e, by simp [he], hhold⟩

/-- The two paths of a split join the queue behind the IF entry that forms it (R69). -/
theorem Track.Follows.pushSplit {tr : Track} {c a b : Copy} (h : tr.Follows) (hc : tr.queue.getLast? = some c)
    (hphase : tr.walk.phase = .splitWait)
    (ha : a.path = .taken ∧ a.index = c.entry.target.index c.index ∧ a.trailing = false)
    (hb : b.path = .fall ∧ b.index = c.index + 1 ∧ b.trailing = false) :
    (Track.setPhase { tr with queue := tr.queue ++ [a, b] } .split).Follows := by
  obtain ⟨hmain, hlead⟩ := h.queue.unsplit (by simp [hphase])
  have hgoes := (Track.walkFollows_iff hc).mp h.walk
  simp only [Walk.goesOnFrom, hphase] at hgoes
  obtain ⟨hsplits, hshadow, hdecided⟩ := hgoes
  obtain ⟨hataken, haindex, hatrailing⟩ := ha
  obtain ⟨hbfall, hbindex, hbtrailing⟩ := hb
  refine ⟨⟨tr.queue, [a, b], rfl, hmain, hlead, .inr ⟨tr.queue.dropLast, c, a, b, ?_, rfl, hsplits, rfl, hshadow,
    hdecided, hataken, haindex, hatrailing, hbfall, hbindex, hbtrailing⟩⟩, ?_, fun hholding => ?_⟩
  · exact (List.dropLast_append_getLast? c hc).symm
  · simp [Track.walkFollows, Track.setPhase]
  · obtain ⟨e, he, hhold⟩ := h.hold hholding
    exact ⟨e, by simp [Track.setPhase, he], hhold⟩

theorem addSlot_program (t : TrackId) (x : Slot) (s : State) :
    Track.SameProgram (s.track t) ((addSlot t x s).track t) := by
  have hpushed : Track.SameProgram (s.track t)
      ((s.modTrack t fun tr => { tr with ring := tr.ring ++ [x] }).track t) := by
    rw [State.modTrack_track_same]
    exact ⟨rfl, rfl, rfl, rfl, id⟩
  replace hpushed : Track.SameProgram (s.track t)
      (({ s.modTrack t fun tr => { tr with ring := tr.ring ++ [x] } with slotSeq := s.slotSeq + 1 } : State).track t) :=
    hpushed
  unfold addSlot
  generalize ({ s.modTrack t fun tr => { tr with ring := tr.ring ++ [x] } with slotSeq := s.slotSeq + 1 } : State) = u
    at hpushed ⊢
  dsimp only
  split
  · exact hpushed
  · split
    · exact hpushed.trans (.of_sameBut (((bankSettle_work _ _).after (joinFetch_work _ _ _)).tracks t))
    · exact hpushed

theorem dropSlots_program (t : TrackId) (dead : List Nat) (s : State) :
    Track.SameProgram (s.track t) ((dropSlots t dead s).track t) := by
  refine .trans ?_ (.of_sameBut ((dropSlots_work t dead s).tracks t))
  rw [State.modTrack_track_same]
  exact ⟨rfl, rfl, rfl, rfl, id⟩

theorem dropSlots_own (t : TrackId) (dead : List Nat) (s : State) :
    (dropSlots t dead s).track t = { s.track t with ring := ((dropSlots t dead s).track t).ring } := by
  have hown := ((dropSlots_work t dead s).tracks t).1
  rw [State.modTrack_track_same] at hown
  generalize (dropSlots t dead s).track t = v at hown ⊢
  exact congrArg (fun x : Track => { x with ring := v.ring }) hown

theorem walkStep_follows {t : TrackId} {s u : State} (hu : walkStep t s = some u) (h : (s.track t).Follows) :
    (u.track t).Follows := by
  simp only [walkStep] at hu
  split at hu
  case h_1 | h_2 | h_3 | h_4 => cases hu
  case h_5 i trailing hphase =>
    split at hu
    next =>
      cases hu
      rw [takeCopy, State.modTrack_track_same]
      refine h.pushCopy (c := s.copyOf i .main trailing) hphase rfl ?_ rfl rfl rfl
      dsimp only
      split
      · exact .inl rfl
      · exact .inr ⟨_, rfl⟩
    next => cases hu
  case h_6 k hphase =>
    split at hu
    next => cases hu
    next c hc =>
      split at hu
      next =>
        cases hu
        rw [State.setTrack_track_same]
        exact Track.endOfPlay_follows h hc hphase
      next =>
        split at hu
        next =>
          cases hu
          refine (addSlot_program t _ _).follows ?_
          rw [State.setTrack_track_same]
          exact h.setSlots hc (by simp [hphase]) (h.stands hc hphase) _
        next => cases hu
  case h_7 hphase =>
    split at hu
    next => cases hu
    next c hc =>
      split at hu
      next =>
        cases hu
        rw [formSplit, State.modTrack_track_same]
        exact h.pushSplit hc hphase ⟨rfl, rfl, rfl⟩ ⟨rfl, rfl, rfl⟩
      next => cases hu
  case h_8 =>
    split at hu
    next => cases hu
    next c k hsplit =>
      split at hu
      next =>
        cases hu
        exact (addSlot_program t _ _).follows h
      next => cases hu

theorem walkLoop_follows (t : TrackId) (n : Nat) (s : State) (h : (s.track t).Follows) :
    ((walkLoop t n s).track t).Follows := by
  induction n generalizing s with
  | zero => exact h
  | succ n ih =>
    rw [walkLoop]
    split
    next => exact h
    next u hu => exact ih u (walkStep_follows hu h)

theorem checkPriming_program (t : TrackId) (s : State) :
    Track.SameProgram (s.track t) ((checkPriming t s).track t) := by
  simp only [checkPriming]
  split
  · split
    · rw [State.raise_track, State.setTrack_track_same]
      exact ⟨rfl, rfl, rfl, rfl, fun h => by cases h⟩
    · rw [State.setTrack_track_same]
      exact ⟨rfl, rfl, rfl, rfl, id⟩
  · exact .refl _

theorem walk_follows (t : TrackId) (s : State) (h : (s.track t).Follows) : ((walk t s).track t).Follows :=
  (checkPriming_program t _).follows (walkLoop_follows t walkBound s h)

/-! ### Playing a block -/

theorem Track.skipBlock_follows {tr : Track} (h : tr.Follows) : tr.skipBlock.Follows := by
  unfold Track.skipBlock
  split
  next k hphase =>
    split
    · cases hlast : tr.queue.getLast? with
      | none =>
        refine h.setPhase (by simp [hphase]) ?_
        simp [Track.walkFollows, Track.setPhase, hlast]
      | some c => exact h.setSlots hlast (by simp [hphase]) (h.stands hlast hphase) _
    · exact h
  next => exact h

theorem underrun_program (t : TrackId) (s : State) : Track.SameProgram (s.track t) ((underrun t s).track t) := by
  rw [underrun, State.raise_track, State.modTrack_track_same]
  exact ⟨rfl, rfl, rfl, rfl, id⟩

theorem readFault_program (t : TrackId) (s : State) : Track.SameProgram (s.track t) ((readFault t s).track t) := by
  rw [readFault, State.raise_track, State.modTrack_track_same]
  exact ⟨rfl, rfl, rfl, rfl, id⟩

theorem consume_follows (t : TrackId) (s : State) (h : (s.track t).Follows) : ((consume t s).2.track t).Follows := by
  have hskipped : ((underrun t (s.modTrack t Track.skipBlock)).track t).Follows := by
    refine (underrun_program t _).follows ?_
    rw [State.modTrack_track_same]
    exact Track.skipBlock_follows h
  unfold consume
  split
  · exact hskipped
  next x r _ =>
    split
    · exact hskipped
    · have hdrop := (dropSlots_program t [x.id] s).follows h
      generalize dropSlots t [x.id] s = u at hdrop
      dsimp only
      split
      · exact hdrop
      · exact (readFault_program t u).follows hdrop
      all_goals exact (underrun_program t u).follows hdrop

theorem Track.transfer_program (tr : Track) : Track.SameProgram tr tr.transfer := by
  unfold Track.transfer
  split
  · dsimp only
    split <;> exact ⟨rfl, rfl, rfl, rfl, id⟩
  · exact .refl tr

theorem Track.silent_program (tr : Track) : Track.SameProgram tr tr.silent := ⟨rfl, rfl, rfl, rfl, id⟩

theorem Track.idleTick_program (tr : Track) : Track.SameProgram tr tr.idleTick := by
  unfold Track.idleTick
  split
  · exact tr.transfer_program.trans (Track.silent_program _)
  · exact tr.silent_program

theorem clampTrack_program (t : TrackId) (e : CueEntry) (s : State) :
    Track.SameProgram (s.track t) ((clampTrack t e s).track t) := by
  rw [clampTrack_own]
  exact ⟨rfl, rfl, rfl, rfl, id⟩

theorem levelTick_program (t : TrackId) (c : Copy) (data : Option (List Byte)) (s : State) :
    Track.SameProgram (s.track t) ((levelTick t c data s).track t) := by
  obtain ⟨interps, hown⟩ := levelTick_own t c data s
  rw [hown]
  exact ⟨rfl, rfl, rfl, rfl, id⟩

theorem playBlock_follows (t : TrackId) (c : Copy) (entryStart : Bool) (s : State) (h : (s.track t).Follows) :
    ((playBlock t c entryStart s).track t).Follows := by
  unfold playBlock
  have htaken := consume_follows t s h
  generalize consume t s = taken at htaken
  dsimp only
  refine walk_follows t _ ((levelTick_program t c taken.1 _).follows ?_)
  generalize ((taken.2.track t).transferPoint entryStart c.entry && (taken.2.track t).stagedPending) = transfers
  have hmoved : ((if transfers then taken.2.setTrack t (taken.2.track t).transfer else taken.2).track t).Follows := by
    split
    · rw [State.setTrack_track_same]
      exact (Track.transfer_program _).follows htaken
    · exact htaken
  split
  · exact (clampTrack_program t c.entry _).follows hmoved
  · exact hmoved

/-! ### Stops, faults and entry starts -/

theorem Track.Follows.of_stopped {tr : Track} (hqueue : tr.queue = []) (hphase : tr.walk.phase = .stopped)
    (hstate : tr.state ≠ .holding) : tr.Follows := by
  refine ⟨Track.queueFollows_of_leads (by simp [hqueue]) (by simp [hqueue, copiesLead]), ?_, fun h => absurd h hstate⟩
  simp [Track.walkFollows, hphase, hqueue]

/-- A walk restarts at an entry of its own with an empty queue and an empty link (R64). -/
theorem Track.Follows.of_restart {tr : Track} {i : CueIndex} (hqueue : tr.queue = [])
    (hwalk : tr.walk = { phase := .copy i false, shadow := none, decided := none, after := .none })
    (hlink : tr.link = none) (hstate : tr.state ≠ .holding) : tr.Follows := by
  refine ⟨Track.queueFollows_of_leads (by simp [hqueue]) (by simp [hqueue, copiesLead]), ?_, fun h => absurd h hstate⟩
  simp [Track.walkFollows, hwalk, hqueue, hlink]

/-- A track whose queue has been discarded. -/
theorem discardAll_own (t : TrackId) (s : State) :
    ((discardAll t s).track t).queue = [] ∧ ((discardAll t s).track t).walk = Walk.stopped ∧
      ((discardAll t s).track t).link = (s.track t).link := by
  have hsame := dropSlots_program t ((s.track t).ring.map Slot.id)
    (s.modTrack t fun tr => { tr with queue := [], walk := Walk.stopped, decision := .none })
  rw [State.modTrack_track_same] at hsame
  exact ⟨hsame.queue, hsame.walk, hsame.link⟩

theorem Track.transfer_eq (tr : Track) : tr.transfer = { tr with
    active := tr.transfer.active, stagedPending := tr.transfer.stagedPending, nowMark := tr.transfer.nowMark
    gateMark := tr.transfer.gateMark, gatePhase := tr.transfer.gatePhase, gateCounter := tr.transfer.gateCounter } := by
  unfold Track.transfer
  split
  · dsimp only
    split <;> rfl
  · rfl

theorem faultTrack_follows (t : TrackId) (reason : FaultReason) (i : CueIndex) (s : State) :
    ((faultTrack t reason i s).track t).Follows := by
  obtain ⟨hqueue, hwalk, -⟩ := discardAll_own t s
  unfold faultTrack
  generalize discardAll t s = u at hqueue hwalk
  have hmoved := (Track.transfer_program (u.track t)).trans (Track.silent_program _)
  dsimp only
  rw [State.raise_track, State.modTrack_track_same]
  exact .of_stopped (hmoved.queue.trans hqueue) (congrArg Walk.phase (hmoved.walk.trans hwalk)) (by simp)

theorem restartWalk_follows (t : TrackId) (s : State) (hqueue : (s.track t).queue = []) (hlink : (s.track t).link = none)
    (hstate : (s.track t).state ≠ .holding) : ((restartWalk t s).track t).Follows := by
  unfold restartWalk
  refine walk_follows t _ ?_
  rw [State.modTrack_track_same]
  exact .of_restart hqueue rfl hlink hstate

theorem completeStop_follows (t : TrackId) (cause : Cause) (s : State) : ((completeStop t cause s).track t).Follows := by
  obtain ⟨hqueue, -, -⟩ := discardAll_own t s
  unfold completeStop
  generalize discardAll t s = u at hqueue
  have hmoved := (Track.transfer_program (u.track t)).trans (Track.silent_program _)
  dsimp only
  refine restartWalk_follows t _ ?_ ?_ ?_ <;> rw [State.raise_track, State.modTrack_track_same]
  · exact hmoved.queue.trans hqueue
  · simp

theorem beginFront_follows (t : TrackId) (s : State) (h : (s.track t).Follows) : ((beginFront t s).track t).Follows := by
  unfold beginFront
  split
  · exact h
  next c r _ =>
    split
    · exact faultTrack_follows t _ _ s
    · refine playBlock_follows t c true _ ?_
      rw [State.core_track (startActions_core t c.entry _), State.modTrack_track_same]
      exact Track.SameProgram.follows (a := s.track t) ⟨rfl, rfl, rfl, rfl, id⟩ h

theorem beginNext_follows (t : TrackId) {leave : Track → Track} (s : State)
    (h : (∀ d c r, (s.track t).queue ≠ d :: c :: r) → (s.track t).Follows)
    (hleave : ∀ d c r, (s.track t).queue = d :: c :: r → { leave (s.track t) with queue := c :: r }.Follows) :
    ((beginNext t leave s).track t).Follows := by
  unfold beginNext
  split
  next d c r hqueue =>
    refine beginFront_follows t _ ?_
    rw [State.modTrack_track_same]
    exact hleave d c r hqueue
  next hshort => exact h hshort

/-! ### The front copy leaves -/

theorem standsAfter_cons (x : Standing) (d : Copy) (cs : List Copy) :
    standsAfter x (d :: cs) = standsAfter (d.leaves x) cs := rfl

/-- Two tracks whose walks go on alike from the copies behind the front one, `b` standing where that has left `a`. -/
theorem Track.Follows.leaveFront {a b : Track} {d c : Copy} {r : List Copy} (h : a.Follows)
    (hqueue : a.queue = d :: c :: r) (hmain : c.path = .main) (hb : b.queue = c :: r) (hwalk : b.walk = a.walk)
    (hstanding : b.standing = d.leaves a.standing) (hstate : b.state ≠ .holding) : b.Follows := by
  refine ⟨?_, ?_, fun hh => absurd hh hstate⟩
  · obtain ⟨main, split, hparts, hpaths, hlead, hsplit⟩ := h.queue
    rw [hqueue] at hparts
    cases main with
    | nil =>
      obtain rfl | ⟨before, e, _, _, hnil, -⟩ := hsplit
      · cases hparts
      · exact absurd hnil (by simp)
    | cons m rest =>
      obtain ⟨rfl, htail⟩ := List.cons.inj hparts
      refine ⟨rest, split, hb.trans htail, fun e he => hpaths e (List.mem_cons_of_mem _ he), ?_, ?_⟩
      · rw [hstanding]
        cases rest with
        | nil => exact trivial
        | cons e rest => exact hlead.2
      · obtain rfl | ⟨before, e, x, y, hmine, hpair, hsplits, hphase, hshadow, hdecided, htaken, hrest⟩ := hsplit
        · exact .inl rfl
        · right
          cases before with
          | nil =>
            obtain ⟨-, rfl⟩ := List.cons.inj hmine
            rw [hpair] at htail
            obtain ⟨rfl, -⟩ := List.cons.inj htail
            rw [hmain] at htaken
            cases htaken
          | cons m before =>
            obtain ⟨rfl, hmore⟩ := List.cons.inj hmine
            rw [hwalk, hstanding]
            exact ⟨before, e, x, y, hmore, hpair, hsplits, hphase, hshadow, hdecided, htaken, hrest⟩
  · have hlast : a.queue.getLast? = b.queue.getLast? := by
      rw [hqueue, hb]
      exact List.getLast?_cons_cons
    obtain ⟨e, he⟩ : ∃ e, b.queue.getLast? = some e := by
      rw [hb]
      exact ⟨_, List.getLast?_eq_some_getLast (List.cons_ne_nil c r)⟩
    have hgoes := (Track.walkFollows_iff (hlast.trans he)).mp h.walk
    rw [Track.walkFollows_iff he, hwalk, hstanding, hb]
    rwa [hqueue, List.dropLast_cons_cons, standsAfter_cons] at hgoes

/-- Behind a front copy that has formed no split stands the copy it leads to. -/
theorem Track.queueFollows.front {tr : Track} {d c : Copy} {r : List Copy} (h : tr.queueFollows)
    (hqueue : tr.queue = d :: c :: r) (hd : ¬ d.splits) :
    c.path = .main ∧ d.leadsTo tr.standing c.index c.trailing := by
  obtain ⟨main, split, hparts, hpaths, hlead, hsplit⟩ := h
  rw [hqueue] at hparts
  match main with
  | [] =>
    obtain rfl | ⟨before, e, _, _, hnil, -⟩ := hsplit
    · cases hparts
    · exact absurd hnil (by simp)
  | [m] =>
    obtain ⟨rfl, htail⟩ := List.cons.inj hparts
    obtain rfl | ⟨before, e, _, _, hmine, -, hsplits, -⟩ := hsplit
    · cases htail
    · obtain rfl : e = d := by simpa using (congrArg List.getLast? hmine).symm
      exact absurd hsplits hd
  | m :: n :: rest =>
    obtain ⟨rfl, htail⟩ := List.cons.inj hparts
    obtain ⟨rfl, -⟩ := List.cons.inj htail
    exact ⟨hpaths c (by simp), hlead.1⟩

/-- The front copy of a split that stands behind it has formed that split (R69). -/
theorem Track.queueFollows.splitFront {tr : Track} {d a : Copy} {r : List Copy} (h : tr.queueFollows)
    (hqueue : tr.queue = d :: a :: r) (ha : a.path ≠ .main) :
    ∃ b, r = [b] ∧ d.path = .main ∧ tr.walk.shadow = tr.link ∧ tr.walk.decided = none ∧ a.path = .taken ∧
      a.trailing = false ∧ b.path = .fall ∧ b.trailing = false := by
  obtain ⟨main, split, hparts, hpaths, -, hsplit⟩ := h
  rw [hqueue] at hparts
  obtain rfl | ⟨before, e, x, y, hmine, hpair, -, -, hshadow, hdecided, htaken, -, hx, hfall, -, hy⟩ := hsplit
  · rw [List.append_nil] at hparts
    exact absurd (hpaths a (by simp [← hparts])) ha
  · cases before with
    | nil =>
      rw [hmine, hpair] at hparts
      obtain ⟨rfl, hpaired⟩ := List.cons.inj hparts
      obtain ⟨rfl, halone⟩ := List.cons.inj hpaired
      exact ⟨y, halone, hpaths d (by simp [hmine]), hshadow, hdecided, htaken, hx, hfall, hy⟩
    | cons m before =>
      obtain ⟨n, rest, hrest⟩ : ∃ n rest, before ++ [e] = n :: rest := List.exists_cons_of_ne_nil (by simp)
      rw [hmine, List.cons_append, hrest] at hparts hpaths
      obtain ⟨-, htail⟩ := List.cons.inj hparts
      obtain ⟨rfl, -⟩ := List.cons.inj htail
      exact absurd (hpaths a (by simp)) ha

/-- The decision of a late IF reaches the walk at a trailing entry with nothing behind it (R66). -/
theorem Track.Follows.handDecision {tr : Track} {c : Copy} (h : tr.Follows) (hqueue : tr.queue = [c])
    (hc : c.trailing = true) (hdecision : tr.decision = .none) (hstate : tr.state ≠ .holding) (i : CueIndex) :
    (({ tr with decision := .go i } : Track).handDecision i).Follows := by
  have hlast : tr.queue.getLast? = some c := by simp [hqueue]
  have hgoes := (Track.walkFollows_iff hlast).mp h.walk
  have hx : standsAfter tr.standing tr.queue.dropLast = { link := tr.link, decision := .none } := by
    simp [hqueue, standsAfter, Track.standing, hdecision]
  rw [hx] at hgoes
  have hmain : c.path = .main := by
    obtain ⟨main, split, hparts, hpaths, -, rfl | ⟨before, e, x, y, hmine, hpair, -⟩⟩ := h.queue
    · rw [List.append_nil] at hparts
      exact hpaths c (by simp [← hparts, hqueue])
    · have hlength := congrArg List.length hparts
      simp [hqueue, hmine, hpair] at hlength
  have hset {u : Track} (hu : u.queue = [c]) (hst : u.standing = { link := tr.link, decision := .go i })
      (hus : u.state = tr.state) (hwalk : u.walk.goesOnFrom { link := tr.link, decision := .go i } c) : u.Follows := by
    refine ⟨Track.queueFollows_of_leads (by simp [hu, hmain]) (by simp [hu, copiesLead]), ?_,
      fun hh => absurd (hus.symm.trans hh) hstate⟩
    rw [Track.walkFollows_iff (c := c) (by simp [hu]), hu, hst]
    exact hwalk
  unfold Track.handDecision
  split
  next hawait =>
    refine hset hqueue rfl rfl ?_
    replace hawait : tr.walk.phase = .await := hawait
    simp only [Walk.goesOnFrom, hawait] at hgoes
    obtain ⟨-, hshadow, hnone⟩ := hgoes
    refine ⟨?_, ?_, hnone⟩
    · rw [Copy.leadsTo, if_pos hc]
      exact ⟨rfl, rfl⟩
    · simpa [Copy.leaves, hc, Track.setPhase] using hshadow
  next hawait =>
    refine hset hqueue rfl rfl ?_
    have hagrees (ha : tr.walk.agrees { link := tr.link, decision := .none }) :
        ({ tr.walk with decided := some i } : Walk).agrees { link := tr.link, decision := .go i } := by
      unfold Walk.agrees at ha ⊢
      dsimp only
      split at ha
      next => cases ha.1
      next => cases ha.1
      next =>
        refine ⟨ha.1, fun j hj => ?_⟩
        cases hj
        rfl
      next => trivial
      next => trivial
    dsimp only
    unfold Walk.goesOnFrom at hgoes ⊢
    dsimp only
    split at hgoes
    next j trailing hphase =>
      rw [Copy.leadsTo, if_pos hc] at hgoes
      cases hgoes.1.2
    next =>
      rw [if_pos hc] at hgoes ⊢
      exact hagrees hgoes
    next =>
      rw [if_pos hc] at hgoes ⊢
      exact hagrees hgoes
    next hphase => exact absurd hphase hawait
    next =>
      obtain ⟨⟨hplain, -⟩, -⟩ := hgoes
      rw [hc] at hplain
      cases hplain
    next => trivial
    next => trivial
    next => trivial

theorem Track.handDecision_queue (tr : Track) (i : CueIndex) (q : List Copy) :
    ({ tr.handDecision i with queue := q } : Track) = Track.handDecision { tr with queue := q } i := by
  unfold Track.handDecision
  dsimp only
  split <;> rfl

theorem Copy.leaves_eq_of_not_late {c : Copy} {x : Standing} (hlate : c.entry.isLateBranch ≠ true)
    (htrailing : c.trailing = false) (hcall : c.entry.next ≠ .call) : c.leaves x = x := by
  unfold Copy.leaves
  cases hl : c.entry.late <;> cases hn : c.entry.next <;>
    simp [CueEntry.isLateBranch, NextKind.branches, hl, hn, htrailing] at hlate hcall ⊢

/-- At the end of a late branch its successor is decided, and the trailing entry begins (R13). -/
theorem Track.Follows.leaveLate {tr : Track} {d c : Copy} {r : List Copy} (h : tr.Follows)
    (hqueue : tr.queue = d :: c :: r) (hd : d.trailing = false) (hlate : d.entry.isLateBranch = true)
    (hstate : tr.state ≠ .holding) (taken : Bool) : { tr.decide taken d with queue := c :: r }.Follows := by
  have hl : d.entry.late = true ∧ d.entry.next.branches = true := by
    simpa [CueEntry.isLateBranch] using hlate
  obtain ⟨hl, hbranches⟩ := hl
  have hunsplit : ¬ d.splits := fun hsplits => by
    obtain ⟨-, hsoon, -⟩ := hsplits
    rw [hl] at hsoon
    cases hsoon
  obtain ⟨hmain, hleads⟩ := h.queue.front hqueue hunsplit
  have hc : c.trailing = true := by
    rw [Copy.leadsTo, if_neg (by simp [hd]), if_pos hlate] at hleads
    exact hleads.2
  cases hnext : d.entry.next <;> simp only [hnext, NextKind.branches, Bool.false_eq_true] at hbranches
  case goto | call =>
    refine h.leaveFront hqueue hmain rfl ?_ ?_ ?_
    · simp [Track.decide, hnext]
    · simp [Track.decide, hnext, Copy.leaves, hd, hl, Track.standing]
    · simpa [Track.decide, hnext] using hstate
  case ret =>
    refine h.leaveFront hqueue hmain rfl ?_ ?_ ?_ <;> cases hlink : tr.link <;>
      simp [Track.decide, hnext, hlink, hstate]
    · simp [Copy.leaves, hd, hl, hnext, Track.standing, hlink]
    · simp [Copy.leaves, hd, hl, hnext, Track.standing, hlink]
  case ifSet | ifClear =>
    have hleft : ({ tr with queue := c :: r, decision := .none } : Track).Follows := by
      refine h.leaveFront hqueue hmain rfl rfl ?_ hstate
      simp [Copy.leaves, hd, hl, hnext, Track.standing]
    have halone : r = [] := by
      match r with
      | [] => rfl
      | e :: r =>
        have hunsplit : ¬ c.splits := fun hsplits => by
          obtain ⟨hplain, -⟩ := hsplits
          rw [hc] at hplain
          cases hplain
        obtain ⟨-, hnone⟩ := hleft.queue.front rfl hunsplit
        rw [Copy.leadsTo, if_pos hc] at hnone
        cases hnone.2
    subst halone
    simp only [Track.decide, hnext]
    rw [Track.handDecision_queue]
    exact hleft.handDecision rfl hc rfl hstate _

theorem Track.releaseWalk_eq (tr : Track) : tr.releaseWalk =
    { tr with ring := tr.ring.map (fun x => { x with gated := false }), walk := tr.releaseWalk.walk } := by
  unfold Track.releaseWalk Track.setPhase
  dsimp only
  split <;> rfl

theorem Track.releaseWalk_follows {tr : Track} (h : tr.Follows) : tr.releaseWalk.Follows := by
  have hungated := Track.SameProgram.follows (a := tr)
    (b := { tr with ring := tr.ring.map (fun x => { x with gated := false }) }) ⟨rfl, rfl, rfl, rfl, id⟩ h
  unfold Track.releaseWalk
  dsimp only
  split
  next c hphase hlast =>
    refine hungated.setSlots hlast (by simp [hphase]) ?_ _
    have hgoes := (Track.walkFollows_iff hlast).mp hungated.walk
    simp only [Walk.goesOnFrom, hphase] at hgoes
    exact hgoes
  next => exact hungated

/-- A resolved split leaves the chosen path behind the IF entry, and the walk after the slots it has made of it (R70). -/
theorem resolveSplit_own (t : TrackId) (chosen : PathTag) (s : State) :
    ∃ ring k, (resolveSplit t chosen s).track t =
      { s.track t with
        queue := ((s.track t).queue.filter fun c => c.path = chosen || c.path = .main).map fun c =>
          { c with path := .main }
        ring := ring
        walk := { (s.track t).walk with phase := .slots k } } := by
  unfold resolveSplit
  dsimp only
  rw [State.modTrack_track_same]
  generalize hs1 : (s.modTrack t fun tr =>
    { tr with queue := tr.queue.filter (fun c => c.path = chosen || c.path = .main) }) = s1
  have hkept := dropSlots_own t (((s.track t).ring.filter fun x => x.path ≠ chosen && x.path ≠ .main).map Slot.id) s1
  generalize (dropSlots t _ s1).track t = v at hkept ⊢
  rw [← hs1, State.modTrack_track_same] at hkept
  refine ⟨(v.adoptPath chosen).ring, v.madeOn chosen, ?_⟩
  unfold Track.adoptPath
  rw [hkept]

/-! ### Boundaries (R6 to R13, R39) -/

/-- At the end of an IF entry the split behind it is resolved and its chosen path begins, or the one successor (R10,
R69, R70). -/
theorem resolveIf_follows {t : TrackId} {c : Copy} (s : State) (h : (s.track t).Follows)
    (hstate : (s.track t).state ≠ .holding)
    (hplain : ∀ d r, (s.track t).queue = c :: d :: r → d.path = .main →
      { s.track t with queue := d :: r }.Follows) (hhead : (s.track t).queue.head? = some c) :
    ((resolveIf t c s).track t).Follows := by
  unfold resolveIf
  dsimp only
  generalize hchosen : (if s.branchTaken c.entry then PathTag.taken else PathTag.fall) = chosen
  have hchoice : chosen = .taken ∨ chosen = .fall := by
    rw [← hchosen]
    split
    · exact .inl rfl
    · exact .inr rfl
  split
  next hsplits =>
    obtain ⟨d, a, r, hqueue, ha⟩ : ∃ d a r, (s.track t).queue = d :: a :: r ∧ a.path ≠ .main := by
      unfold Track.splitsHere at hsplits
      split at hsplits
      next d a r hqueue => exact ⟨d, a, r, hqueue, of_decide_eq_true hsplits⟩
      next => cases hsplits
    obtain ⟨b, rfl, hd, hshadow, hdecided, htaken, haplays, hfall, hbplays⟩ := h.queue.splitFront hqueue ha
    obtain ⟨ring, k, hown⟩ := resolveSplit_own t chosen s
    obtain ⟨e, hresolved, heplays⟩ : ∃ e : Copy, (((s.track t).queue.filter fun c => c.path = chosen || c.path = .main).map
        fun c => ({ c with path := .main } : Copy)) = [{ d with path := .main }, { e with path := .main }] ∧
        e.trailing = false := by
      obtain rfl | rfl := hchoice
      · exact ⟨a, by simp [hqueue, hd, htaken, hfall], haplays⟩
      · exact ⟨b, by simp [hqueue, hd, htaken, hfall], hbplays⟩
    rw [hresolved] at hown
    generalize resolveSplit t chosen s = u at hown ⊢
    have hbegun : ({ u.track t with queue := [{ e with path := .main }] } : Track).Follows := by
      refine ⟨Track.queueFollows_of_leads (by simp) trivial, ?_, fun hh => absurd ?_ hstate⟩
      · rw [Track.walkFollows_iff (c := { e with path := .main }) rfl, hown]
        refine (Walk.goesOnFrom_slots rfl _ _).mpr ?_
        rw [Walk.stands, if_neg (by simp [heplays])]
        exact ⟨hshadow, hdecided⟩
      · rw [hown] at hh
        exact hh
    refine beginNext_follows t _ (fun hshort => absurd (congrArg Track.queue hown) (hshort _ _ _))
      fun x y r hxy => ?_
    rw [hown] at hxy
    obtain ⟨-, hxy⟩ := List.cons.inj hxy
    rw [← hxy]
    exact hbegun
  next hone =>
    refine beginNext_follows t s (fun _ => h) fun d a r hqueue => ?_
    obtain rfl : d = c := by
      rw [hqueue] at hhead
      exact Option.some.inj hhead
    refine hplain a r hqueue ?_
    simpa [Track.splitsHere, hqueue] using hone

theorem holdBoundary_follows {t : TrackId} {c : Copy} (s : State) (h : (s.track t).Follows)
    (hplain : ∀ {tr : Track} {d : Copy} {r : List Copy}, tr.Follows → tr.queue = c :: d :: r →
      tr.state ≠ .holding → { tr with queue := d :: r }.Follows)
    (hstate : (s.track t).state ≠ .holding) (hhead : (s.track t).queue.head? = some c) (hc : c.isHold = true) :
    ((holdBoundary t s).track t).Follows := by
  unfold holdBoundary
  split
  · exact completeStop_follows t .stopped s
  · split
    · refine beginNext_follows t s (fun _ => h) fun d a r hqueue => ?_
      have hreleased := Track.releaseWalk_follows h
      obtain rfl : d = c := by
        rw [hqueue] at hhead
        exact Option.some.inj hhead
      refine hplain hreleased ?_ ?_ <;> rw [Track.releaseWalk_eq]
      · exact hqueue
      · exact hstate
    · rw [State.modTrack_track_same]
      have hidle := Track.idleTick_program (s.track t)
      have hsame : Track.SameProgram { s.track t with state := .holding } { (s.track t).idleTick with state := .holding } :=
        ⟨hidle.queue, hidle.walk, hidle.link, hidle.decision, id⟩
      exact hsame.follows ⟨h.queue, h.walk, fun _ => ⟨c, hhead, hc⟩⟩

theorem followEntry_follows {t : TrackId} {c : Copy} (s : State) (h : (s.track t).Follows)
    (hstate : (s.track t).state ≠ .holding) (hhead : (s.track t).queue.head? = some c) :
    ((followEntry t c s).track t).Follows := by
  have hfront {d a : Copy} {r : List Copy} (hqueue : (s.track t).queue = d :: a :: r) : d = c := by
    rw [hqueue] at hhead
    exact Option.some.inj hhead
  unfold followEntry
  split
  next hc =>
    have hunsplit : ¬ c.splits := fun hsplits => by
      rw [hsplits.1] at hc
      cases hc
    unfold afterTrailing
    split
    · exact faultTrack_follows t _ _ s
    · refine beginNext_follows t s (fun _ => h) fun d a r hqueue => ?_
      cases hfront hqueue
      refine h.leaveFront hqueue (h.queue.front hqueue hunsplit).1 rfl rfl ?_ hstate
      simp [Copy.leaves, hc, Track.standing]
  next hc =>
    rw [Bool.not_eq_true] at hc
    split
    next hlate =>
      refine beginNext_follows t s (fun _ => h) fun d a r hqueue => ?_
      cases hfront hqueue
      exact h.leaveLate hqueue hc hlate hstate _
    next hlate =>
      have hsame (hcall : c.entry.next ≠ .call) {tr : Track} {a : Copy} {r : List Copy} (htr : tr.Follows)
          (hqueue : tr.queue = c :: a :: r) (ha : a.path = .main) (hs : tr.state ≠ .holding) :
          { tr with queue := a :: r }.Follows :=
        htr.leaveFront hqueue ha rfl rfl (Copy.leaves_eq_of_not_late hlate hc hcall).symm hs
      have hwhole (hkind : c.entry.next ≠ .ifSet ∧ c.entry.next ≠ .ifClear) : ¬ c.splits := fun hsplits => by
        obtain ⟨-, -, hif, -⟩ := hsplits
        exact hif.elim hkind.1 hkind.2
      have hnext (hcall : c.entry.next ≠ .call) (hkind : c.entry.next ≠ .ifSet ∧ c.entry.next ≠ .ifClear) :
          ((beginNext t id s).track t).Follows := by
        refine beginNext_follows t s (fun _ => h) fun d a r hqueue => ?_
        cases hfront hqueue
        exact hsame hcall h hqueue (h.queue.front hqueue (hwhole hkind)).1 hstate
      split
      next hn => exact hnext (by simp [hn]) (by simp [hn])
      next hn => exact hnext (by simp [hn]) (by simp [hn])
      next hn =>
        refine beginNext_follows t s (fun _ => h) fun d a r hqueue => ?_
        cases hfront hqueue
        refine h.leaveFront hqueue (h.queue.front hqueue (hwhole (by simp [hn]))).1 rfl rfl ?_ hstate
        have hsoon : c.entry.late = false := by
          simpa [CueEntry.isLateBranch, hn, NextKind.branches] using hlate
        simp [Copy.leaves, hc, hn, hsoon, Track.standing]
      next hn =>
        split
        · exact hnext (by simp [hn]) (by simp [hn])
        · exact faultTrack_follows t _ _ s
      next hn =>
        exact resolveIf_follows s h hstate (fun d r hqueue hd => hsame (by simp [hn]) h hqueue hd hstate) hhead
      next hn =>
        exact resolveIf_follows s h hstate (fun d r hqueue hd => hsame (by simp [hn]) h hqueue hd hstate) hhead
      next hn =>
        refine holdBoundary_follows s h (fun htr hqueue hs => ?_) hstate hhead (by simp [Copy.isHold, hc, hn])
        exact hsame (by simp [hn]) htr hqueue (htr.queue.front hqueue (hwhole (by simp [hn]))).1 hs
      next => exact completeStop_follows t _ s

theorem boundary_follows {t : TrackId} {c : Copy} (s : State) (h : (s.track t).Follows)
    (hstate : (s.track t).state ≠ .holding) (hhead : (s.track t).queue.head? = some c) :
    ((boundary t c s).track t).Follows := by
  unfold boundary
  dsimp only
  split
  · exact completeStop_follows t _ s
  · split
    · refine playBlock_follows t c false _ ?_
      rw [State.setTrack_track_same]
      exact Track.SameProgram.follows (a := s.track t) ⟨rfl, rfl, rfl, rfl, id⟩ h
    · exact followEntry_follows s h hstate hhead

theorem Track.advanceStopFade_program (tr : Track) : Track.SameProgram tr tr.advanceStopFade := by
  rw [KeptByPlayback.advanceStopFade_eq]
  exact ⟨rfl, rfl, rfl, rfl, id⟩

theorem playTick_follows (t : TrackId) (s : State) (h : (s.track t).Follows) (hstate : (s.track t).state ≠ .holding) :
    ((playTick t s).track t).Follows := by
  have hfade := Track.advanceStopFade_program (s.track t)
  unfold playTick
  dsimp only
  split
  · exact completeStop_follows t _ s
  · split
    · exact h
    next c r hqueue =>
      split
      · refine boundary_follows _ ?_ ?_ ?_ <;> rw [State.setTrack_track_same]
        · exact hfade.follows h
        · exact fun hh => hstate (hfade.state hh)
        · rw [hfade.queue, hqueue]
          rfl
      · refine playBlock_follows t c false _ ?_
        rw [State.setTrack_track_same]
        exact Track.SameProgram.follows (a := (s.track t).advanceStopFade) ⟨rfl, rfl, rfl, rfl, id⟩ (hfade.follows h)

theorem startTick_follows (t : TrackId) (s : State) (h : (s.track t).Follows) :
    ((startTick t s).track t).Follows := by
  unfold startTick
  split
  · unfold beginTrack
    split
    · exact h
    · split
      · exact faultTrack_follows t _ _ s
      · dsimp only
        rw [State.raise_track]
        refine beginFront_follows t _ ?_
        rw [State.modTrack_track_same]
        exact Track.SameProgram.follows (a := s.track t) ⟨rfl, rfl, rfl, rfl, fun hh => by cases hh⟩ h
  · split
    · rw [State.raise_track, State.modTrack_track_same]
      exact Track.SameProgram.follows (a := (s.track t).idleTick) ⟨rfl, rfl, rfl, rfl, id⟩
        ((Track.idleTick_program _).follows h)
    · rw [State.modTrack_track_same]
      exact (Track.idleTick_program _).follows h

theorem holdTick_program (t : TrackId) (s : State) (h : (s.track t).followsProgram)
    (hstate : (s.track t).state = .holding) : ((holdTick t s).track t).followsProgram := by
  unfold holdTick
  dsimp only
  split
  · exact (completeStop_follows t _ s).program
  · split
    · unfold beginNext
      split
      next d c r hqueue =>
        obtain ⟨hfollows, hwalk, hhold⟩ := h
        have hd : d.isHold = true := hhold d hstate (by rw [hqueue]; rfl)
        have hholding : (s.track t).Follows := ⟨hfollows, hwalk, fun _ => ⟨d, by rw [hqueue]; rfl, hd⟩⟩
        have hreleased := Track.releaseWalk_follows hholding
        simp only [Copy.isHold, Bool.and_eq_true, Bool.not_eq_true', decide_eq_true_eq] at hd
        obtain ⟨hplays, hnext⟩ := hd
        have hunsplit : ¬ d.splits := fun hsplits => by
          obtain ⟨-, -, hif, -⟩ := hsplits
          rw [hnext] at hif
          simp at hif
        refine (beginFront_follows t _ ?_).program
        rw [State.modTrack_track_same]
        refine hreleased.leaveFront (d := d) (c := c) (r := r) ?_ ?_ rfl rfl ?_ (by simp)
        · rw [Track.releaseWalk_eq]
          exact hqueue
        · exact (hholding.queue.front hqueue hunsplit).1
        · rw [Copy.leaves_eq_of_not_late (by simp [CueEntry.isLateBranch, hnext, NextKind.branches]) hplays
            (by simp [hnext])]
          rfl
      next => exact h
    · rw [State.setTrack_track_same]
      exact (Track.idleTick_program _).program h

theorem trackTick_program (t : TrackId) (s : State) (h : (s.track t).followsProgram) :
    ((trackTick t s).track t).followsProgram := by
  have hfollows (hstate : (s.track t).state ≠ .holding) : ((s.markTrack t).track t).Follows :=
    .of_program h hstate
  unfold trackTick
  dsimp only
  split
  · exact h
  · split
    next hstate => exact (startTick_follows t _ (hfollows (by simp [hstate]))).program
    next hstate => exact holdTick_program t _ h hstate
    next hstate =>
      have hplays : (s.track t).state ≠ .holding := by simp [hstate]
      exact (playTick_follows t _ (hfollows hplays) hplays).program
    next hstate =>
      have hplays : (s.track t).state ≠ .holding := by simp [hstate]
      exact (playTick_follows t _ (hfollows hplays) hplays).program
    all_goals
      rw [State.modTrack_track_same]
      exact (Track.silent_program _).program h

end Sys2Proof.Machine
end

section
/-! PROOFS. Every command keeps every track on its program (O60): the requests begin a program anew or leave it as it
stands, and banks and store do not touch it. -/

namespace Sys2Proof.Machine

theorem programs_of_same {s u : State} (hs : s.programsFollowed)
    (h : ∀ k, Track.SameProgram (s.track k) (u.track k)) : u.programsFollowed :=
  fun k => (h k).program (hs k)

theorem programs_of_tracks {s u : State} (hs : s.programsFollowed) (h : u.tracks = s.tracks) : u.programsFollowed := by
  intro k
  rw [State.track, h]
  exact hs k

theorem programs_of_track {s u : State} (t : TrackId) (hs : s.programsFollowed) (hown : (u.track t).followsProgram)
    (hothers : ∀ k, k ≠ t → (s.track k).SameBut (u.track k)) : u.programsFollowed := by
  intro k
  by_cases hk : k = t
  · exact hk ▸ hown
  · exact (Track.SameProgram.of_sameBut (hothers k hk)).program (hs k)

theorem programs_setTrack {s : State} {t : TrackId} {tr : Track} (hs : s.programsFollowed) (htr : tr.followsProgram) :
    (s.setTrack t tr).programsFollowed :=
  programs_of_track t hs (by rwa [State.setTrack_track_same]) (TrackWork.setTrack t s tr).others

/-- The banks' own service does not touch a program. -/
theorem BankWork.programs {s u : State} (h : BankWork s u) (hs : s.programsFollowed) : u.programsFollowed :=
  programs_of_same hs fun k => .of_sameBut (h.tracks k)

theorem programs_settle (b : BankId) {s u : State} (hs : s.programsFollowed) (h : u.tracks = s.tracks) :
    (bankSettle b u).programsFollowed :=
  (bankSettle_work b u).programs (programs_of_tracks hs h)

theorem programs_settleAll {s u : State} (hs : s.programsFollowed) (h : u.tracks = s.tracks) :
    (forEach allFour (fun u b => bankSettle b u) u).programsFollowed :=
  (forEach_work allFour _ (fun u b => bankSettle_work b u) u).programs (programs_of_tracks hs h)

/-! ### The track requests -/

theorem armTrack_follows (t : TrackId) (home : CueIndex) (s : State) : ((armTrack t home s).track t).Follows := by
  obtain ⟨hqueue, -, -⟩ := discardAll_own t s
  unfold armTrack
  generalize discardAll t s = u at hqueue
  dsimp only
  refine restartWalk_follows t _ ?_ ?_ ?_ <;> rw [State.setNotice_track, State.modTrack_track_same]
  · exact hqueue
  · simp

theorem armTrack_others (t : TrackId) (home : CueIndex) (s : State) (k : TrackId) (hk : k ≠ t) :
    (s.track k).SameBut ((armTrack t home s).track k) := by
  unfold armTrack
  dsimp only
  refine ((discardAll_work t s).others k hk).trans (Track.SameBut.trans ?_ ((restartWalk_work t _).others k hk))
  rw [State.setNotice_track]
  exact (TrackWork.modTrack t _ _).others k hk

theorem clearTrack_follows (t : TrackId) (s : State) : ((clearTrack t s).track t).Follows := by
  obtain ⟨hqueue, hwalk, -⟩ := discardAll_own t s
  unfold clearTrack
  generalize discardAll t s = u at hqueue hwalk
  have hmoved := Track.transfer_program (u.track t)
  rw [State.modTrack_track_same]
  exact .of_stopped (hmoved.queue.trans hqueue) (congrArg Walk.phase (hmoved.walk.trans hwalk)) (by simp)

theorem clearTrack_others (t : TrackId) (s : State) (k : TrackId) (hk : k ≠ t) :
    (s.track k).SameBut ((clearTrack t s).track k) := by
  unfold clearTrack
  exact ((TrackWork.modTrack t _ _).after (discardAll_work t s)).others k hk

theorem goTrack_program (t : TrackId) (c : StartCond) (s : State) :
    Track.SameProgram (s.track t) ((goTrack t c s).track t) := by
  unfold goTrack
  split
  · split
    · rw [State.modTrack_track_same]
      exact ⟨rfl, rfl, rfl, rfl, fun h => by cases h⟩
    · rw [State.raise_track, State.modTrack_track_same]
      exact ⟨rfl, rfl, rfl, rfl, fun h => by cases h⟩
  · rw [State.modTrack_track_same]
    exact ⟨rfl, rfl, rfl, rfl, fun h => by cases h⟩

theorem goTrack_others (t : TrackId) (c : StartCond) (s : State) : TrackWork t s (goTrack t c s) := by
  unfold goTrack
  split
  · split
    · exact .modTrack t s _
    · exact (TrackWork.modTrack t s _).trans (.raise t _ _)
  · exact .modTrack t s _

theorem stopRequest_program {tr u : Track} {m : StopMode} (h : tr.stopRequest m = .ok u) : Track.SameProgram tr u := by
  unfold Track.stopRequest at h
  split at h
  · cases h
    have hmoved := Track.transfer_program tr
    refine ⟨hmoved.queue, hmoved.walk, hmoved.link, hmoved.decision, fun hh => ?_⟩
    dsimp only [Track.cancelStart] at hh
    split at hh <;> cases hh
  · cases h
    unfold Track.stopPlaying
    repeat' split
    · exact .refl tr
    · exact ⟨rfl, rfl, rfl, rfl, id⟩
    · exact ⟨rfl, rfl, rfl, rfl, fun hh => by cases hh⟩
  · cases h
    exact ⟨rfl, rfl, rfl, rfl, id⟩
  · split at h
    · cases h
      exact ⟨rfl, rfl, rfl, rfl, id⟩
    · cases h
  all_goals cases h

theorem tune_program (tr : Track) (v : TuneValues) : Track.SameProgram tr (tr.tune v) := by
  unfold Track.tune
  split <;> exact ⟨rfl, rfl, rfl, rfl, id⟩

theorem feed_program (tr : Track) (now : Bool) (fs : List Feed) : Track.SameProgram tr (tr.feed now fs) := by
  unfold Track.feed
  split <;> exact ⟨rfl, rfl, rfl, rfl, id⟩

/-- The walk of a TRACK BREAK goes on from the front copy alone (R75). -/
theorem Track.Follows.keepFront {tr u : Track} {c : Copy} {r : List Copy} {n k : Nat} (h : tr.followsProgram)
    (hqueue : tr.queue = c :: r) (hkept : u.queue = [{ c with prepared := n }])
    (hwalk : u.walk = { phase := .slots k, shadow := tr.link, decided := none, after := .none })
    (hstanding : u.standing = tr.standing) (hstate : u.state = tr.state) : u.Follows := by
  obtain ⟨⟨main, split, hparts, hpaths, -, hsplit⟩, -, hhold⟩ := h
  have hmain : c.path = .main := by
    rw [hqueue] at hparts
    cases main with
    | nil =>
      obtain rfl | ⟨before, e, _, _, hnil, -⟩ := hsplit
      · cases hparts
      · exact absurd hnil (by simp)
    | cons m rest =>
      obtain ⟨rfl, -⟩ := List.cons.inj hparts
      exact hpaths c (by simp)
  refine ⟨Track.queueFollows_of_leads (by simp [hkept, hmain]) (by simp [hkept, copiesLead]), ?_, fun hh => ?_⟩
  · rw [Track.walkFollows_iff (c := { c with prepared := n }) (by simp [hkept]), hkept, hwalk, hstanding]
    refine (Walk.goesOnFrom_slots rfl _ _).mpr ?_
    unfold Walk.stands
    split
    · trivial
    · exact ⟨rfl, rfl⟩
  · exact ⟨{ c with prepared := n }, by rw [hkept]; rfl, hhold c (hstate.symm.trans hh) (by rw [hqueue]; rfl)⟩

theorem breakWalk_follows (t : TrackId) (s : State) {c : Copy} {r : List Copy} (h : (s.track t).followsProgram)
    (hqueue : (s.track t).queue = c :: r) : ((breakWalk t s).track t).Follows := by
  unfold breakWalk
  dsimp only
  split
  next hnil =>
    rw [hqueue] at hnil
    cases hnil
  next d e hd =>
    obtain ⟨rfl, -⟩ := List.cons.inj (hqueue.symm.trans hd)
    refine walk_follows t _ ((dropSlots_program t _ _).follows ?_)
    rw [State.setTrack_track_same]
    exact .keepFront h hqueue rfl rfl rfl rfl

theorem breakPlay_follows (t : TrackId) (s : State) {c : Copy} {r : List Copy} (h : (s.track t).followsProgram)
    (hqueue : (s.track t).queue = c :: r) : ((breakPlay t s).track t).Follows := by
  unfold breakPlay
  refine breakWalk_follows t _ (c := c) (r := r) ?_ ?_ <;> rw [State.modTrack_track_same]
  · exact Track.SameProgram.program (a := s.track t) ⟨rfl, rfl, rfl, rfl, id⟩ h
  · exact hqueue

theorem breakPlay_others (t : TrackId) (s : State) : TrackWork t s (breakPlay t s) := by
  unfold breakPlay
  exact (TrackWork.modTrack t s _).trans (breakWalk_work t _).track

theorem meetTrigger_program (n : LineId) (s : State) (hs : s.programsFollowed) : (meetTrigger n s).programsFollowed := by
  unfold meetTrigger
  refine forEach_inv _ _ State.programsFollowed (fun u t hu => ?_) s hs
  refine programs_setTrack hu (Track.SameProgram.program (a := u.track t) ?_ (hu t))
  exact ⟨rfl, rfl, rfl, rfl, id⟩

/-! ### Banks and store -/

theorem haltBank_programs (b : BankId) {s : State} (hs : s.programsFollowed) : (haltBank b s).programsFollowed := by
  unfold haltBank
  exact programs_settle b hs (stopOperation_tracks b s)

theorem sweepBank_programs (b : BankId) {s : State} (hs : s.programsFollowed) : (sweepBank b s).programsFollowed := by
  simp only [sweepBank]
  split
  · exact hs
  · split
    · exact programs_of_tracks hs rfl
    · exact programs_settle b hs rfl

theorem setPolicy_programs (b : BankId) (policy : Policy) (auto : Bool) {s : State} (hs : s.programsFollowed) :
    (setPolicy b policy auto s).programsFollowed := by
  unfold setPolicy
  exact ((bankSettle_work b _).after (suspendReact_work b _)).programs (programs_of_tracks hs rfl)

theorem completeRead_programs (b : BankId) (correct : Bool) {s : State} (hs : s.programsFollowed) :
    (completeRead b correct s).programsFollowed := by
  unfold completeRead
  split
  · exact hs
  next r _ =>
    have hdelivered : (deliverRead r correct s).programsFollowed := by
      unfold deliverRead
      refine programs_setTrack hs (Track.SameProgram.program (a := s.track r.track) ?_ (hs r.track))
      exact ⟨rfl, rfl, rfl, rfl, id⟩
    have hchecked := programs_of_track r.track hdelivered
      ((checkPriming_program r.track _).program (hdelivered r.track)) (checkPriming_work r.track _).others
    exact programs_settle b hchecked rfl

theorem endSweep_tracks (b : BankId) (s : State) : (endSweep b s).tracks = s.tracks := by
  unfold endSweep
  split <;> rfl

theorem completeProgram_programs (b : BankId) (success : Bool) {s : State} (hs : s.programsFollowed) :
    (completeProgram b success s).programsFollowed := by
  unfold completeProgram
  repeat' split
  all_goals first
    | exact hs
    | exact programs_settle b hs rfl

theorem completeErase_programs (b : BankId) (success : Bool) {s : State} (hs : s.programsFollowed) :
    (completeErase b success s).programsFollowed := by
  unfold completeErase
  repeat' split
  all_goals first
    | exact hs
    | exact programs_settle b hs ((endSweep_tracks b _).trans (endErase_tracks b _ success s))

theorem completeSuspend_programs (b : BankId) {s : State} (hs : s.programsFollowed) :
    (completeSuspend b s).programsFollowed := by
  unfold completeSuspend
  repeat' split
  all_goals first
    | exact hs
    | exact programs_settle b hs rfl

theorem completeScan_programs {s : State} (hs : s.programsFollowed) : (completeScan s).programsFollowed := by
  unfold completeScan
  split
  · refine programs_settleAll hs ?_
    rw [forEach_keeps allFour (fun s b => s.raise (bankSource b) .scanDone) State.tracks (fun _ _ => rfl)]
  · exact hs

/-! ### All commands -/

theorem Track.reset_program : Track.reset.followsProgram :=
  (Track.Follows.of_stopped rfl rfl (by decide)).program

theorem programs_reset {s : State} (h : s.tracks = Vector.replicate 48 Track.reset) : s.programsFollowed := by
  intro k
  simp only [State.track, h, Fin.getElem_fin, Vector.getElem_replicate]
  exact Track.reset_program

theorem programs_core : KeptByCore State.programsFollowed where
  congr hs h := programs_of_tracks hs (core_eq_iff.mp h.core).2.1.symm
  trackTick t s hs := programs_of_track t hs (trackTick_program t s (hs t)) (trackTick_work t s).others
  putEntries i _ _ es s _ hs := programs_of_tracks hs (putEntries_tracks i es s)
  armTrack t home s _ hs := programs_of_track t hs (armTrack_follows t home s).program (armTrack_others t home s)
  goTrack t c s _ hs := programs_of_track t hs ((goTrack_program t c s).program (hs t)) (goTrack_others t c s).others
  stopTrack t _ _ _ hstop hs := programs_setTrack hs ((stopRequest_program hstop).program (hs t))
  breakPlay t _ _ s hqueue hs :=
    programs_of_track t hs (breakPlay_follows t s (hs t) hqueue).program (breakPlay_others t s).others
  breakHold t s hs := programs_setTrack hs (Track.SameProgram.program (a := s.track t) ⟨rfl, rfl, rfl, rfl, id⟩ (hs t))
  tuneTrack t v _ _ _ hs := programs_setTrack hs ((tune_program _ v).program (hs t))
  feedTrack t now fs _ _ _ hs := programs_setTrack hs ((feed_program _ now fs).program (hs t))
  clearTrack t s hs := programs_of_track t hs (clearTrack_follows t s).program (clearTrack_others t s)
  openClip _ _ _ _ _ _ _ _ hs := hs
  acceptPage _ _ _ _ _ _ hs := programs_settle _ hs rfl
  closeClip _ _ _ _ _ hs := hs
  dropClip _ _ _ _ _ hs := programs_settle _ hs rfl
  sweepBank b _ hs := sweepBank_programs b hs
  haltBank b _ hs := haltBank_programs b hs
  setPolicy b policy auto _ hs := setPolicy_programs b policy auto hs
  warmReset _ _ := programs_settleAll (programs_reset rfl) rfl
  meetTrigger := meetTrigger_program
  completeRead b correct _ hs := completeRead_programs b correct hs
  completeProgram b success _ hs := completeProgram_programs b success hs
  completeErase b success _ hs := completeErase_programs b success hs
  completeSuspend b _ hs := completeSuspend_programs b hs
  completeScan _ hs := completeScan_programs hs
  hardReset _ _ := programs_reset rfl

end Sys2Proof.Machine

namespace Sys2Proof.Proofs.Programs

open Sys2Proof Sys2Proof.Machine

/-- Settles O60. The walk extends a queue only by what its back copy leads to, a boundary moves the track's standing as
the front copy leaves it, and everything else begins a program anew or does not touch it. -/
theorem queuesFollowTheirPrograms : Obligations.QueuesFollowTheirPrograms := by
  unfold Obligations.QueuesFollowTheirPrograms
  intro s t hstep
  exact programs_core.step (fun _ _ h => h) hstep

end Sys2Proof.Proofs.Programs
end

section
/-! PROOFS. The state after reset (O55) and the two ends of a hard reset (O3): what a hard reset makes of every block,
and what its release begins (R155, R169, R197). -/

namespace Sys2Proof.Machine

theorem State.reset_track (t : TrackId) : State.reset.track t = Track.reset := by
  simp [State.reset, State.track]

theorem State.reset_bank (b : BankId) : State.reset.bank b = Bank.reset := by
  simp [State.reset, State.bank]

theorem State.reset_port (p : PortId) : State.reset.port p = Port.reset := by
  simp [State.reset, State.port]

theorem State.reset_clip (c : ClipId) : State.reset.clip c = ClipRecord.empty := rfl

theorem noticesOk_reset : State.reset.noticesOk := noticesOk_cleared rfl

theorem portsOk_reset : State.reset.portsOk := by
  intro p
  rw [State.reset_port]
  decide

theorem paramsOk_reset : State.reset.paramsOk := by
  refine ⟨fun t => ?_, fun _ => CueEntry.empty_freqOk⟩
  rw [State.reset_track]
  exact Track.reset_paramsOk

theorem banksOk_reset : State.reset.banksOk := by
  intro b
  rw [State.reset_bank]
  exact ⟨Nat.zero_le _, Nat.zero_le _, fun _ h => (by cases h)⟩

theorem tracksOk_reset : State.reset.tracksOk := by
  intro t
  rw [State.reset_track]
  exact ⟨Nat.zero_le _, Nat.zero_le _⟩

theorem referencesReady_reset : State.reset.referencesReady := by
  intro t
  rw [State.reset_track]
  exact ⟨fun _ h => (by cases h), fun _ h => (by cases h)⟩

theorem pagesOpen_reset : State.reset.pagesOpen := by
  intro b
  rw [State.reset_bank]
  exact ⟨fun _ h => (by cases h), fun _ _ _ h => (by cases h), fun _ => ⟨rfl, rfl⟩⟩

theorem runsOk_reset : State.reset.runsOk := by
  refine ⟨fun c => ?_, fun b op n h => ?_⟩
  · rw [State.reset_clip]
    decide
  · rw [State.reset_bank] at h
    cases h

/-- A hard reset of the reset state, released with low trigger inputs, is the reset state. -/
theorem releaseReset_hardReset_reset : releaseReset 0 (hardReset State.reset) = State.reset := by
  rfl

theorem State.reset_notice (n : SourceId) : State.reset.notice n = none := by
  simp [State.reset, State.notice, NoticeTable.reset]

theorem State.reset_trigger (n : LineId) : State.reset.trigger n = TriggerLine.reset := by
  simp [State.reset, State.trigger]

theorem State.reset_marker (m : LineId) : State.reset.marker m = MarkerLine.reset := by
  simp [State.reset, State.marker]

theorem releaseReset_trigger (levels : BitVec 4) {s : State} (hheld : s.held = true) (n : LineId) :
    (releaseReset levels s).trigger n = { s.trigger n with level := levels.getLsbD n.1 } := by
  rw [releaseReset, if_pos hheld]
  simp [State.trigger, TriggerLine.sampled]

theorem releaseReset_rest (levels : BitVec 4) {s : State} (hheld : s.held = true) :
    (releaseReset levels s).held = false ∧
      { releaseReset levels s with
        held := s.held, lines := { (releaseReset levels s).lines with triggers := s.lines.triggers } } = s := by
  rw [releaseReset, if_pos hheld]
  exact ⟨rfl, rfl⟩

/-- While a hard reset is held no other command acts (R197). -/
theorem exec_held {c : Instr} {s : State} (hheld : s.held = true) (hreset : c ≠ .hardReset)
    (hrelease : ∀ levels, c ≠ .resetRelease levels) : exec c s = .next s := by
  have hevent (f : State → State) : s.event f = s := by
    rw [State.event, if_pos hheld]
  obtain ⟨r, hr⟩ | hc | rfl | ⟨levels, rfl⟩ := command_kinds c
  · obtain h | h := exec_request_cases hr s
    · exact h
    · rw [h, hevent]
  · rw [exec_event hc, hevent]
  · exact absurd rfl hreset
  · exact absurd rfl (hrelease levels)

end Sys2Proof.Machine

namespace Sys2Proof.Proofs.Reset

open Sys2Proof Sys2Proof.Machine

/-- Settles O55. The reset state holds nothing that a bound could meet, and its power-up scan runs. -/
theorem resetMeetsTheInvariants : Obligations.ResetMeetsTheInvariants := by
  unfold Obligations.ResetMeetsTheInvariants
  refine ⟨noticesOk_reset, ⟨Nat.zero_le _, Nat.zero_le _⟩, Nat.zero_le _, portsOk_reset, paramsOk_reset, banksOk_reset,
    tracksOk_reset, ⟨rfl, rfl, rfl, rfl⟩, referencesReady_reset, pagesOpen_reset, runsOk_reset, fun h => (by cases h),
    programs_reset rfl, hardReset State.reset, rfl, ?_⟩
  exact congrArg Host.Outcome.next releaseReset_hardReset_reset

/-- Settles O3. A hard reset writes the reset state but for the persistent record; while it is held every other command
is dropped before its effect; a release samples the trigger inputs and begins the tick. -/
theorem hardResetAndRelease : Obligations.HardResetAndRelease := by
  unfold Obligations.HardResetAndRelease
  refine ⟨fun s => ⟨hardReset s, rfl, rfl, rfl, State.reset_notice, fun k => ?_, rfl, rfl, rfl, rfl, rfl, rfl, rfl, rfl,
    rfl, rfl, rfl, fun _ => rfl, rfl, State.reset_track, State.reset_port, rfl, State.reset_bank, fun n => ?_,
    fun m => ?_, rfl, rfl, rfl⟩, fun c s hheld hreset hrelease => exec_held hheld hreset hrelease, fun s levels =>
    ⟨fun hheld => ?_, fun hheld => ?_, hardReset s, releaseReset levels (hardReset s), rfl, rfl, rfl, rfl⟩⟩
  · simp [hardReset, State.reset, NoticeTable.reset]
  · have htrigger : (hardReset s).trigger n = TriggerLine.reset := State.reset_trigger n
    rw [htrigger]
    decide
  · have hmarker : (hardReset s).marker m = MarkerLine.reset := State.reset_marker m
    refine ⟨hmarker, ?_⟩
    simp [State.markerLevel, State.markerActive, hmarker, MarkerLine.reset]
  · have hidle : releaseReset levels s = s := if_neg (by simp [hheld])
    exact congrArg Host.Outcome.next hidle
  · obtain ⟨hfree, hrest⟩ := releaseReset_rest levels hheld
    exact ⟨releaseReset levels s, rfl, hfree, releaseReset_trigger levels hheld, hrest⟩

end Sys2Proof.Proofs.Reset
end

section
/-! PROOFS. The opening of a tick start, unit by unit (R98, R156, R171, R176, R185): what each unit's part makes of its
own record, what it leaves, and what the tick start as a whole then shows. -/

namespace Sys2Proof.Machine

/-! ### Events -/

/-- An event outside a hard reset leaves what the transmit arbiter makes of its effect. -/
theorem acts_of {c : Instr} {f : State → State} {s : State} (he : exec c s = .next (s.event f)) (hheld : s.held = false) :
    Acts c s (f s) := by
  rw [Acts, he, State.event, if_neg (by simp [hheld])]

theorem acts_same {c : Instr} {s u v : State} (h : Acts c s u) (huv : u = v) : Acts c s v := huv ▸ h

/-! ### What each part leaves as it was -/

theorem raiseIf_frame (s : State) (b : Bool) (n : SourceId) (c : Cause) :
    { s.raiseIf b n c with notices := s.notices } = s := by
  unfold State.raiseIf
  split <;> rfl

theorem raiseIf_field {β : Type} (f : State → β) (hf : ∀ (u : State) n, f { u with notices := n } = f u) (s : State)
    (b : Bool) (n : SourceId) (c : Cause) : f (s.raiseIf b n c) = f s := by
  rw [← hf (s.raiseIf b n c) s.notices, raiseIf_frame]

theorem State.raiseIf_notice_other (s : State) (b : Bool) {n k : SourceId} (c : Cause) (h : k ≠ n) :
    (s.raiseIf b n c).notice k = s.notice k := by
  unfold State.raiseIf
  split
  · rw [State.raise_notice, if_neg (Ne.symm h)]
  · rfl

theorem timelineTick_frame (s : State) :
    { timelineTick s with timeline := s.timeline, notices := s.notices, work := s.work } = s := by
  simp only [timelineTick, State.raiseIf]
  repeat' split
  all_goals rfl

theorem portTick_frame (s : State) (p : PortId) :
    { portTick s p with ports := s.ports, notices := s.notices, work := s.work } = s := by
  simp only [portTick]
  repeat' split
  all_goals rfl

theorem triggerFall_frame (s : State) (n : LineId) :
    { triggerFall s n with lines := { (triggerFall s n).lines with triggers := s.lines.triggers }, work := s.work } =
      s := by
  unfold triggerFall
  split <;> rfl

theorem markerFall_frame (s : State) (m : LineId) :
    { markerFall s m with lines := { (markerFall s m).lines with markers := s.lines.markers }, work := s.work } = s := by
  unfold markerFall
  split <;> rfl

theorem gapTick_frame (s : State) : { gapTick s with link := s.link, notices := s.notices, work := s.work } = s := by
  simp only [gapTick]
  repeat' split
  all_goals rfl

/-! ### The timeline's part -/

theorem timelineTick_timeline {s : State} (h : s.work.timeline = false) : (timelineTick s).timeline = s.timeline.tick := by
  simp only [timelineTick, h, Bool.false_eq_true, if_false]
  simp only [raiseIf_field State.timeline (fun _ _ => rfl)]

theorem timelineTick_work_eq {s : State} (h : s.work.timeline = false) :
    (timelineTick s).work = { s.work with timeline := true } := by
  simp only [timelineTick, h, Bool.false_eq_true, if_false]
  simp only [raiseIf_field State.work (fun _ _ => rfl)]

/-- The timeline's part leaves the bookkeeping of the other parts. -/
theorem timelineTick_work_rest (s : State) :
    { (timelineTick s).work with timeline := s.work.timeline } = s.work := by
  cases h : s.work.timeline with
  | true =>
    rw [timelineTick, if_pos h, ← h]
  | false => rw [timelineTick_work_eq h, ← h]

theorem timelineTick_notice_other (s : State) {n : SourceId} (h : n ≠ clockSource) :
    (timelineTick s).notice n = s.notice n := by
  simp only [timelineTick]
  split
  · rfl
  · simp only [State.raiseIf_notice_other _ _ _ h]
    rfl

/-! ### The ports' part -/

/-- A port once it has closed the tick that ended and applied its pending set (R98). -/
def Port.closed (x : Port) : Port :=
  if x.overloaded then x.recorded.judged.applyPending else x.recorded.applyPending

/-- The cause a port raises as it closes a tick (R105). -/
def Port.closeCause (x : Port) : Option Cause := if x.overloaded then x.guardCause else none

/-- A port's notice record once it has closed the tick. -/
def State.closedNotice (s : State) (p : PortId) : Option Notice :=
  match (s.port p).closeCause with
  | none => s.notice (portSource p)
  | some c => some (mergeCause s.timeline.count c (s.notice (portSource p)))

theorem portTick_done {s : State} {p : PortId} (h : s.work.ports.getLsbD p.1 = true) : portTick s p = s := by
  rw [portTick, if_pos h]

theorem portTick_port_same {s : State} {p : PortId} (h : s.work.ports.getLsbD p.1 = false) :
    (portTick s p).port p = (s.port p).closed := by
  simp only [portTick, h, Bool.false_eq_true, if_false, Port.closed]
  split
  · split <;> simp
  · simp

theorem portTick_port_other {s : State} {p q : PortId} (h : q ≠ p) : (portTick s p).port q = s.port q := by
  have hset (u : State) (x : Port) : (u.setPort p x).port q = u.port q := State.setPort_port_other u p q x (Ne.symm h)
  simp only [portTick]
  repeat' split
  · rfl
  · exact hset _ _
  · rw [State.raise_port]
    exact hset _ _
  · exact hset _ _

theorem portTick_work_eq {s : State} {p : PortId} :
    (portTick s p).work = { s.work with ports := s.work.ports ||| BitVec.twoPow 4 p.1 } := by
  by_cases h : s.work.ports.getLsbD p.1 = true
  · have hsame : s.work.ports ||| BitVec.twoPow 4 p.1 = s.work.ports := by
      refine BitVec.eq_of_getLsbD_eq fun i hi => ?_
      rw [BitVec.getLsbD_or, BitVec.getLsbD_twoPow]
      by_cases hip : p.1 = i
      · subst hip
        simp [h]
      · simp [hip]
    rw [portTick_done h, hsame]
  · simp only [portTick, h]
    repeat' split
    all_goals first
      | rfl
      | contradiction

theorem portTick_notice_same {s : State} {p : PortId} (h : s.work.ports.getLsbD p.1 = false) :
    (portTick s p).notice (portSource p) = s.closedNotice p := by
  simp only [portTick, h, Bool.false_eq_true, if_false, State.closedNotice, Port.closeCause]
  by_cases ho : (s.port p).overloaded = true
  · simp only [if_pos ho]
    cases (s.port p).guardCause with
    | none => rfl
    | some c =>
      simp only [State.raise_notice, if_true]
      rfl
  · simp only [if_neg ho]
    rfl

theorem portTick_notice_other {s : State} {p : PortId} {n : SourceId} (h : n ≠ portSource p) :
    (portTick s p).notice n = s.notice n := by
  simp only [portTick]
  repeat' split
  · rfl
  · rfl
  · rw [State.raise_notice, if_neg (Ne.symm h)]
    rfl
  · rfl

theorem portSource_inj {p q : PortId} (h : portSource p = portSource q) : p = q := by
  simpa [portSource, Fin.ext_iff] using h

/-- A port as it stands once it has closed the tick, whether it has or not. -/
def State.portClosed (s : State) (p : PortId) : Port :=
  if s.work.ports.getLsbD p.1 then s.port p else (s.port p).closed

theorem workPort_bit (w : BitVec 4) (p q : PortId) :
    (w ||| BitVec.twoPow 4 p.1).getLsbD q.1 = (w.getLsbD q.1 || decide (p = q)) := by
  have hq := q.isLt
  simp only [BitVec.getLsbD_or, BitVec.getLsbD_twoPow, Fin.ext_iff]
  congr 1
  simp

theorem portTick_portClosed (s : State) (p q : PortId) : (portTick s p).portClosed q = s.portClosed q := by
  unfold State.portClosed
  rw [portTick_work_eq]
  dsimp only
  rw [workPort_bit]
  by_cases hpq : p = q
  · subst hpq
    cases h : s.work.ports.getLsbD p.1 with
    | true => simp [portTick_done h]
    | false => simp [portTick_port_same h]
  · rw [portTick_port_other (Ne.symm hpq)]
    simp [hpq]

/-- A port's notice record as it stands once the port has closed the tick, whether it has or not. -/
def State.portNotice (s : State) (p : PortId) : Option Notice :=
  if s.work.ports.getLsbD p.1 then s.notice (portSource p) else s.closedNotice p

theorem portTick_timeline (s : State) (p : PortId) : (portTick s p).timeline = s.timeline := by
  have h := congrArg State.timeline (portTick_frame s p)
  exact h

theorem portTick_portNotice (s : State) (p q : PortId) : (portTick s p).portNotice q = s.portNotice q := by
  unfold State.portNotice
  rw [portTick_work_eq]
  dsimp only
  rw [workPort_bit]
  by_cases hpq : p = q
  · subst hpq
    cases h : s.work.ports.getLsbD p.1 with
    | true => simp [portTick_done h]
    | false => simp [portTick_notice_same h]
  · have hsource : portSource q ≠ portSource p := fun h => hpq (portSource_inj h).symm
    simp only [State.closedNotice, portTick_port_other (Ne.symm hpq), portTick_notice_other hsource, portTick_timeline,
      hpq, decide_false, Bool.or_false]

/-- All four parts of a kind have been taken. -/
theorem forEach_allFour_bits (f : State → Fin 4 → State) (g : State → BitVec 4)
    (hf : ∀ s p, g (f s p) = g s ||| BitVec.twoPow 4 p.1) (s : State) (p : Fin 4) :
    (g (forEach allFour f s)).getLsbD p.1 = true := by
  have hfour : forEach allFour f s = f (f (f (f s 0) 1) 2) 3 := rfl
  rw [hfour, hf, hf, hf, hf, workPort_bit, workPort_bit, workPort_bit, workPort_bit]
  fin_cases p <;> simp

theorem portTicks_port (s : State) (p : PortId) : (forEach allFour portTick s).port p = s.portClosed p := by
  rw [← forEach_keeps allFour portTick (fun u => u.portClosed p) (fun u q => portTick_portClosed u q p) s]
  rw [State.portClosed, if_pos]
  exact forEach_allFour_bits portTick (fun u => u.work.ports) (fun u q => by rw [portTick_work_eq]) s p

theorem portTicks_notice (s : State) (p : PortId) :
    (forEach allFour portTick s).notice (portSource p) = s.portNotice p := by
  rw [← forEach_keeps allFour portTick (fun u => u.portNotice p) (fun u q => portTick_portNotice u q p) s]
  rw [State.portNotice, if_pos]
  exact forEach_allFour_bits portTick (fun u => u.work.ports) (fun u q => by rw [portTick_work_eq]) s p

/-! ### The lines' part -/

/-- A trigger line at a tick start: its holdoff runs down (R171). -/
def TriggerLine.fallen (x : TriggerLine) : TriggerLine := { x with remaining := x.remaining - 1 }

/-- A marker line at a tick start: its pulse runs down (R176). -/
def MarkerLine.fallen (x : MarkerLine) : MarkerLine := { x with remaining := x.remaining - 1 }

theorem twoPow_or_of_bit {w : BitVec 4} {p : Fin 4} (h : w.getLsbD p.1 = true) : w ||| BitVec.twoPow 4 p.1 = w := by
  refine BitVec.eq_of_getLsbD_eq fun i hi => ?_
  have hbit := workPort_bit w p ⟨i, hi⟩
  by_cases hip : p = ⟨i, hi⟩
  · subst hip
    rw [hbit, h, Bool.true_or]
  · rw [hbit, decide_eq_false hip, Bool.or_false]

theorem triggerFall_work_eq {s : State} {n : LineId} :
    (triggerFall s n).work = { s.work with triggers := s.work.triggers ||| BitVec.twoPow 4 n.1 } := by
  unfold triggerFall
  split
  next h => rw [twoPow_or_of_bit h]
  next => rfl

theorem markerFall_work_eq {s : State} {m : LineId} :
    (markerFall s m).work = { s.work with markers := s.work.markers ||| BitVec.twoPow 4 m.1 } := by
  unfold markerFall
  split
  next h => rw [twoPow_or_of_bit h]
  next => rfl

/-- A trigger line as it stands once its holdoff has run down, whether it has or not. -/
def State.triggerFallen (s : State) (n : LineId) : TriggerLine :=
  if s.work.triggers.getLsbD n.1 then s.trigger n else (s.trigger n).fallen

/-- A marker line as it stands once its pulse has run down, whether it has or not. -/
def State.markerFallen (s : State) (m : LineId) : MarkerLine :=
  if s.work.markers.getLsbD m.1 then s.marker m else (s.marker m).fallen

theorem triggerFall_trigger (s : State) (n k : LineId) :
    (triggerFall s n).trigger k = if n = k then s.triggerFallen k else s.trigger k := by
  unfold triggerFall State.triggerFallen
  by_cases hnk : n = k
  · subst hnk
    split
    next => simp
    next => simp [TriggerLine.fallen]
  · rw [if_neg hnk]
    split
    · rfl
    · exact State.setTrigger_trigger_other _ n k _ hnk

theorem markerFall_marker (s : State) (n k : LineId) :
    (markerFall s n).marker k = if n = k then s.markerFallen k else s.marker k := by
  unfold markerFall State.markerFallen
  by_cases hnk : n = k
  · subst hnk
    split
    next => simp
    next => simp [MarkerLine.fallen]
  · rw [if_neg hnk]
    split
    · rfl
    · exact State.setMarker_marker_other _ n k _ hnk

theorem triggerFall_fallen (s : State) (n k : LineId) : (triggerFall s n).triggerFallen k = s.triggerFallen k := by
  rw [State.triggerFallen, triggerFall_work_eq, triggerFall_trigger]
  dsimp only
  rw [workPort_bit]
  by_cases hnk : n = k
  · simp [hnk]
  · simp [hnk, State.triggerFallen]

theorem markerFall_fallen (s : State) (n k : LineId) : (markerFall s n).markerFallen k = s.markerFallen k := by
  rw [State.markerFallen, markerFall_work_eq, markerFall_marker]
  dsimp only
  rw [workPort_bit]
  by_cases hnk : n = k
  · simp [hnk]
  · simp [hnk, State.markerFallen]

theorem triggerFalls_trigger (s : State) (n : LineId) :
    (forEach allFour triggerFall s).trigger n = s.triggerFallen n := by
  rw [← forEach_keeps allFour triggerFall (fun u => u.triggerFallen n) (fun u k => triggerFall_fallen u k n) s]
  rw [State.triggerFallen, if_pos]
  exact forEach_allFour_bits triggerFall (fun u => u.work.triggers) (fun u q => by rw [triggerFall_work_eq]) s n

theorem markerFalls_marker (s : State) (m : LineId) : (forEach allFour markerFall s).marker m = s.markerFallen m := by
  rw [← forEach_keeps allFour markerFall (fun u => u.markerFallen m) (fun u k => markerFall_fallen u k m) s]
  rw [State.markerFallen, if_pos]
  exact forEach_allFour_bits markerFall (fun u => u.work.markers) (fun u q => by rw [markerFall_work_eq]) s m

/-! ### The opened tick start -/

theorem portTick_field {β : Type} (f : State → β) (hf : ∀ (u : State) x n w,
    f { u with ports := x, notices := n, work := w } = f u) (s : State) (p : PortId) : f (portTick s p) = f s := by
  rw [← hf (portTick s p) s.ports s.notices s.work, portTick_frame]

theorem timelineTick_field {β : Type} (f : State → β) (hf : ∀ (u : State) x n w,
    f { u with timeline := x, notices := n, work := w } = f u) (s : State) : f (timelineTick s) = f s := by
  rw [← hf (timelineTick s) s.timeline s.notices s.work, timelineTick_frame]

theorem gapTick_field {β : Type} (f : State → β) (hf : ∀ (u : State) x n w,
    f { u with link := x, notices := n, work := w } = f u) (s : State) : f (gapTick s) = f s := by
  rw [← hf (gapTick s) s.link s.notices s.work, gapTick_frame]

theorem triggerFall_field {β : Type} (f : State → β) (hf : ∀ (u : State) x w,
    f { u with lines := { u.lines with triggers := x }, work := w } = f u) (s : State) (n : LineId) :
    f (triggerFall s n) = f s := by
  rw [← hf (triggerFall s n) s.lines.triggers s.work, triggerFall_frame]

theorem markerFall_field {β : Type} (f : State → β) (hf : ∀ (u : State) x w,
    f { u with lines := { u.lines with markers := x }, work := w } = f u) (s : State) (m : LineId) :
    f (markerFall s m) = f s := by
  rw [← hf (markerFall s m) s.lines.markers s.work, markerFall_frame]

/-- What every part before the link's leaves, and the link's, the opened tick start shows. -/
theorem openTick_keeps {β : Type} (f : State → β)
    (ht : ∀ s, f (timelineTick s) = f s) (hp : ∀ s p, f (portTick s p) = f s) (hn : ∀ s n, f (triggerFall s n) = f s)
    (hm : ∀ s m, f (markerFall s m) = f s) (hg : ∀ s, f (gapTick s) = f s) (s : State) : f (openTick s) = f s := by
  unfold openTick
  rw [hg, forEach_keeps allFour markerFall f hm, forEach_keeps allFour triggerFall f hn,
    forEach_keeps allFour portTick f hp, ht]

/-- The lines' parts and the link's leave a field that they do not write. -/
theorem openTick_after_ports {β : Type} (f : State → β) (hn : ∀ s n, f (triggerFall s n) = f s)
    (hm : ∀ s m, f (markerFall s m) = f s) (hg : ∀ s, f (gapTick s) = f s) (s : State) :
    f (openTick s) = f (forEach allFour portTick (timelineTick s)) := by
  unfold openTick
  rw [hg, forEach_keeps allFour markerFall f hm, forEach_keeps allFour triggerFall f hn]

theorem openTick_timeline (s : State) : (openTick s).timeline = (timelineTick s).timeline := by
  rw [openTick_after_ports State.timeline (triggerFall_field _ fun _ _ _ => rfl)
    (markerFall_field _ fun _ _ _ => rfl) (gapTick_field _ fun _ _ _ _ => rfl)]
  exact forEach_keeps allFour portTick State.timeline portTick_timeline _

theorem timelineTick_portClosed (s : State) (p : PortId) : (timelineTick s).portClosed p = s.portClosed p := by
  have hports := timelineTick_field State.ports (fun _ _ _ _ => rfl) s
  have hwork := congrArg TickWork.ports (timelineTick_work_rest s)
  unfold State.portClosed
  dsimp only at hwork
  rw [hwork, State.port, State.port, hports]

theorem openTick_port (s : State) (p : PortId) : (openTick s).port p = s.portClosed p := by
  rw [openTick_after_ports (fun u => u.port p) (triggerFall_field (fun u => u.port p) fun _ _ _ => rfl)
    (markerFall_field (fun u => u.port p) fun _ _ _ => rfl) (gapTick_field (fun u => u.port p) fun _ _ _ _ => rfl), portTicks_port,
    timelineTick_portClosed]

/-- The link's part writes no record but that of its own source. -/
theorem gapTick_notice_other (s : State) {n : SourceId} (h : n ≠ linkSource) : (gapTick s).notice n = s.notice n := by
  simp only [gapTick]
  repeat' split
  · rfl
  · rw [State.raise_notice, if_neg (Ne.symm h)]
    rfl
  · rfl
  · rfl

theorem openTick_notice_afterPorts (s : State) {n : SourceId} (h : n ≠ linkSource) :
    (openTick s).notice n = (forEach allFour portTick (timelineTick s)).notice n :=
  openTick_after_ports (fun u => u.notice n) (triggerFall_field (fun u => u.notice n) fun _ _ _ => rfl)
    (markerFall_field (fun u => u.notice n) fun _ _ _ => rfl) (fun u => gapTick_notice_other u h) s

theorem portSource_ne_link (p : PortId) : portSource p ≠ linkSource := by
  intro h
  have hval := congrArg Fin.val h
  simp only [portSource, linkSource] at hval
  omega

theorem portSource_ne_clock (p : PortId) : portSource p ≠ clockSource := by
  intro h
  have hval := congrArg Fin.val h
  simp only [portSource, clockSource] at hval
  omega

theorem openTick_portNotice {s : State} {p : PortId} (h : s.work.ports.getLsbD p.1 = false) :
    (openTick s).notice (portSource p) =
      match (s.port p).closeCause with
      | none => s.notice (portSource p)
      | some c => some (mergeCause (timelineTick s).timeline.count c (s.notice (portSource p))) := by
  have hports := timelineTick_field State.ports (fun _ _ _ _ => rfl) s
  have hwork := congrArg TickWork.ports (timelineTick_work_rest s)
  dsimp only at hwork
  rw [openTick_notice_afterPorts s (portSource_ne_link p), portTicks_notice, State.portNotice, hwork, h]
  simp only [Bool.false_eq_true, if_false, State.closedNotice, timelineTick_notice_other s (portSource_ne_clock p),
    State.port, hports]

theorem openTick_notice_rest (s : State) {n : SourceId} (hl : n ≠ linkSource) (hp : ∀ p, n ≠ portSource p) :
    (openTick s).notice n = (timelineTick s).notice n := by
  rw [openTick_notice_afterPorts s hl]
  exact forEach_keeps allFour portTick (fun u => u.notice n) (fun u p => portTick_notice_other (hp p)) _

theorem openTick_trigger (s : State) (n : LineId) : (openTick s).trigger n = s.triggerFallen n := by
  have hlines := timelineTick_field State.lines (fun _ _ _ _ => rfl) s
  have hports := forEach_keeps allFour portTick State.lines (portTick_field _ fun _ _ _ _ => rfl) (timelineTick s)
  have htick := congrArg TickWork.triggers (timelineTick_work_rest s)
  have hwork := forEach_keeps allFour portTick (fun u => u.work.triggers) (fun u p => by rw [portTick_work_eq])
    (timelineTick s)
  dsimp only at htick hwork
  unfold openTick
  rw [gapTick_field (fun u => u.trigger n) (fun _ _ _ _ => rfl),
    forEach_keeps allFour markerFall (fun u => u.trigger n) (markerFall_field (fun u => u.trigger n) fun _ _ _ => rfl), triggerFalls_trigger,
    State.triggerFallen, State.triggerFallen, State.trigger, State.trigger, hwork, htick, hports, hlines]

theorem openTick_marker (s : State) (m : LineId) : (openTick s).marker m = s.markerFallen m := by
  have hlines := timelineTick_field State.lines (fun _ _ _ _ => rfl) s
  have hports := forEach_keeps allFour portTick State.lines (portTick_field _ fun _ _ _ _ => rfl) (timelineTick s)
  have htick := congrArg TickWork.markers (timelineTick_work_rest s)
  have hwork := forEach_keeps allFour portTick (fun u => u.work.markers) (fun u p => by rw [portTick_work_eq])
    (timelineTick s)
  have hfalls := forEach_keeps allFour triggerFall (fun u => u.work.markers)
    (fun u p => by rw [triggerFall_work_eq]) (forEach allFour portTick (timelineTick s))
  have hmarkers := forEach_keeps allFour triggerFall (fun u => u.lines.markers)
    (triggerFall_field (fun u => u.lines.markers) fun _ _ _ => rfl)
    (forEach allFour portTick (timelineTick s))
  dsimp only at htick hwork hfalls hmarkers
  unfold openTick
  rw [gapTick_field (fun u => u.marker m) (fun _ _ _ _ => rfl), markerFalls_marker, State.markerFallen,
    State.markerFallen, State.marker, State.marker, hfalls, hwork, htick, hmarkers, hports, hlines]

/-- The state in which the link takes its part. -/
theorem openTick_gap (s : State) :
    ∃ u, openTick s = gapTick u ∧ u.link = s.link ∧ u.work.gap = s.work.gap ∧ u.notice linkSource = s.notice linkSource ∧
      u.timeline = (timelineTick s).timeline := by
  have htick := congrArg TickWork.gap (timelineTick_work_rest s)
  dsimp only at htick
  refine ⟨_, rfl, ?_, ?_, ?_, ?_⟩
  · rw [forEach_keeps allFour markerFall State.link (markerFall_field _ fun _ _ _ => rfl),
      forEach_keeps allFour triggerFall State.link (triggerFall_field _ fun _ _ _ => rfl),
      forEach_keeps allFour portTick State.link (portTick_field _ fun _ _ _ _ => rfl),
      timelineTick_field State.link (fun _ _ _ _ => rfl)]
  · rw [forEach_keeps allFour markerFall (fun u => u.work.gap) (fun u m => by rw [markerFall_work_eq]),
      forEach_keeps allFour triggerFall (fun u => u.work.gap) (fun u m => by rw [triggerFall_work_eq]),
      forEach_keeps allFour portTick (fun u => u.work.gap) (fun u m => by rw [portTick_work_eq]), htick]
  · rw [forEach_keeps allFour markerFall (fun u => u.notice linkSource)
        (markerFall_field (fun u => u.notice linkSource) fun _ _ _ => rfl),
      forEach_keeps allFour triggerFall (fun u => u.notice linkSource)
        (triggerFall_field (fun u => u.notice linkSource) fun _ _ _ => rfl),
      forEach_keeps allFour portTick (fun u => u.notice linkSource)
        (fun u p => portTick_notice_other (Ne.symm (portSource_ne_link p)))]
    exact timelineTick_notice_other s (by decide)
  · rw [forEach_keeps allFour markerFall State.timeline (markerFall_field _ fun _ _ _ => rfl),
      forEach_keeps allFour triggerFall State.timeline (triggerFall_field _ fun _ _ _ => rfl),
      forEach_keeps allFour portTick State.timeline portTick_timeline]

/-! ### The whole tick start -/

theorem tickStart_link (s : State) : (tickStart s).link = (openTick s).link :=
  tickStart_keeps State.link (fun _ _ => rfl) (fun _ _ => rfl) (fun t u => (trackTick_work t u).link) s

theorem tickStart_trigger (s : State) (n : LineId) : (tickStart s).trigger n = (openTick s).trigger n :=
  tickStart_keeps (fun u => u.trigger n) (fun _ _ => rfl) (fun _ _ => rfl)
    (fun t u => by rw [State.trigger, (trackTick_work t u).triggers]; rfl) s

/-- A record of the link, the clock, a port or the lines is none that a track's part writes. -/
theorem tickStart_notice (s : State) {n : SourceId} (hn : n.1 < 2 ∨ 6 ≤ n.1) (ht : n.1 < 11) :
    (tickStart s).notice n = (openTick s).notice n := by
  refine tickStart_keeps (fun u => u.notice n) (fun _ _ => rfl) (fun _ _ => rfl) (fun t u => ?_) s
  refine (trackTick_work t u).notices n hn fun h => ?_
  rw [h] at ht
  simp only [trackSource] at ht
  omega

theorem tickStart_port (s : State) (p : PortId) :
    { (tickStart s).port p with feeds := 0, sum := [] } = { (openTick s).port p with feeds := 0, sum := [] } := by
  refine tickStart_keeps (fun u => ({ u.port p with feeds := 0, sum := [] } : Port)) (fun _ _ => rfl) (fun _ _ => rfl)
    (fun t u => ?_) s
  exact congrArg (fun x : Port => { x with feeds := 0, sum := [] }) ((trackTick_work t u).ports p)

theorem tickStart_work (s : State) : (tickStart s).work = TickWork.none := rfl

end Sys2Proof.Machine
end

section
/-! PROOFS. The control link (chapter 10): the receiver (O4, O5), the notice records (O6, O11) and the arbiter (O7). -/

namespace Sys2Proof.Machine

/-! ### The receiver byte by byte (R182 to R184) -/

theorem acts_linkByte (b : Byte) {s : State} (hheld : s.held = false) : Acts (.linkByte b) s (receive b s) :=
  acts_of rfl hheld

theorem receive_hunt {s : State} {mark : Bool} (b : Byte) (h : s.link.rx = .hunt mark) :
    receive b s = s.setRx (if b = 0xC6 then .hunt true
      else if b = 0x39 ∧ mark = true then .header [] else .hunt false) := by
  simp only [receive, h, huntByte]
  by_cases hmark : b = 0xC6
  · subst hmark
    simp
  · by_cases hstart : b = 0x39 ∧ mark = true
    · rw [if_pos hstart, if_neg hmark, if_pos hstart]
    · rw [if_neg hstart, if_neg hmark, if_neg hstart, decide_eq_false hmark]

theorem receive_header {s : State} {got : List Byte} (b : Byte) (h : s.link.rx = .header got) (hlength : got.length < 4) :
    receive b s = s.setRx (.header (got ++ [b])) := by
  simp only [receive, h]
  exact if_pos (by omega)

theorem receive_length {s : State} {kind tag code low : Byte} (high : Byte)
    (h : s.link.rx = .header [kind, tag, code, low]) :
    receive high s =
      if 16400 < low.toNat + 256 * high.toNat then (s.setRx (.hunt false)).raise linkSource .oversize
      else if low.toNat + 256 * high.toNat = 0 then s.setRx (.check kind tag code [] none)
      else s.setRx (.body kind tag code (low.toNat + 256 * high.toNat) []) := by
  simp only [receive, h]
  rw [if_neg (by simp)]
  rfl

theorem receive_body {s : State} {kind tag code : Byte} {length : Nat} {got : List Byte} (b : Byte)
    (h : s.link.rx = .body kind tag code length got) :
    receive b s =
      if got.length + 1 < length then s.setRx (.body kind tag code length (got ++ [b]))
      else s.setRx (.check kind tag code (got ++ [b]) none) := by
  simp only [receive, h]

theorem receive_checkHigh {s : State} {kind tag code : Byte} {payload : List Byte} (b : Byte)
    (h : s.link.rx = .check kind tag code payload none) :
    receive b s = s.setRx (.check kind tag code payload (some b)) := by
  simp only [receive, h]

theorem receive_checkLow {s : State} {kind tag code high : Byte} {payload : List Byte} (b : Byte)
    (h : s.link.rx = .check kind tag code payload (some high)) :
    receive b s =
      if fieldsCheck kind tag code payload ≠ high ++ b then (s.setRx (.hunt false)).raise linkSource .badCheck
      else if kind ≠ 0x01 then (s.setRx (.hunt false)).raise linkSource .unexpected
      else arrive { tag := tag, code := code, payload := payload } (s.setRx (.hunt false)) := by
  simp only [receive, h]
  rfl

/-! ### The gap (R185) -/

theorem gapTick_expires {s : State} (hgap : s.work.gap = false) (hrx : s.link.rx.receiving = true)
    (hcount : s.link.gap = 10) :
    gapTick s = (({ s with work := { s.work with gap := true } } : State).setRx (.hunt false)).raise linkSource
      .truncated := by
  simp only [gapTick, hgap, hrx, hcount, Bool.false_eq_true, if_false, if_true]
  rw [if_pos (by omega)]

theorem gapTick_counts {s : State} (hgap : s.work.gap = false) (hrx : s.link.rx.receiving = true)
    (hcount : s.link.gap < 10) : (gapTick s).link = { s.link with gap := s.link.gap + 1 } := by
  simp only [gapTick, hgap, hrx, Bool.false_eq_true, if_false, if_true]
  rw [if_neg (by omega)]
  rfl

theorem gapTick_stands {s : State} (hrx : s.link.rx.receiving = false) : (gapTick s).link = s.link := by
  simp only [gapTick, hrx, Bool.false_eq_true, if_false]
  split <;> rfl

theorem acts_tickStart {s : State} (hheld : s.held = false) : Acts .tickStart s (tickStart s) := acts_of rfl hheld

/-! ### Frames (R182 to R184) -/

theorem receive_held (b : Byte) (s : State) : (receive b s).held = s.held := by
  unfold receive judgeHeader endFrame
  dsimp only
  repeat' split
  all_goals first
    | rfl
    | exact (fields_of_sansLink (arrive_sansLink _ (s.setRx _))).1

theorem receive_tx (b : Byte) (s : State) : (receive b s).link.tx = s.link.tx := by
  have harrive (r : Request) (u : State) : (arrive r u).link.tx = u.link.tx := by
    unfold arrive
    repeat' split
    all_goals rfl
  unfold receive judgeHeader endFrame
  dsimp only
  repeat' split
  all_goals first
    | rfl
    | exact harrive _ (s.setRx _)

/-- A run of bytes taken by the receiver. -/
def receiveAll (bs : List Byte) (s : State) : State := bs.foldl (fun u b => receive b u) s

theorem receiveAll_append (as bs : List Byte) (s : State) :
    receiveAll (as ++ bs) s = receiveAll bs (receiveAll as s) := List.foldl_append

theorem receiveAll_cons (b : Byte) (bs : List Byte) (s : State) : receiveAll (b :: bs) s = receiveAll bs (receive b s) :=
  rfl

/-- While the transmitter sends, bytes leave what the receiver makes of them. -/
theorem afterAll_linkBytes {x : Frame} (bs : List Byte) {s : State} (hheld : s.held = false)
    (htx : s.link.tx = some x) : s.afterAll (bs.map .linkByte) = receiveAll bs s := by
  induction bs generalizing s with
  | nil => rfl
  | cons b bs ih =>
    have hsent : (receive b s).link.tx = some x := (receive_tx b s).trans htx
    have hacts := acts_linkByte b hheld
    have hafter : s.after (.linkByte b) = receive b s := by
      rw [State.after, hacts, arbitrate_busy _ x hsent]
    rw [List.map_cons, State.afterAll, List.foldl_cons, hafter]
    exact ih ((receive_held b s).trans hheld) hsent

@[simp] theorem State.setRx_setRx (s : State) (rx ry : Receiver) : (s.setRx rx).setRx ry = s.setRx ry := rfl

/-- From HUNT a run of C6h bytes and 39h begin a header (R182). -/
theorem receiveAll_start {s : State} {mark : Bool} (run : Nat) (h : s.link.rx = .hunt mark) :
    receiveAll (List.replicate (run + 1) 0xC6 ++ [0x39]) s = s.setRx (.header []) := by
  have hmarked (n : Nat) : receiveAll (List.replicate n 0xC6) (s.setRx (.hunt true)) = s.setRx (.hunt true) := by
    induction n with
    | zero => rfl
    | succ n ih =>
      rw [List.replicate_succ, receiveAll_cons, receive_hunt (mark := true) _ rfl]
      exact ih
  have hrun : receiveAll (List.replicate (run + 1) 0xC6) s = s.setRx (.hunt true) := by
    rw [List.replicate_succ, receiveAll_cons, receive_hunt _ h, if_pos rfl]
    exact hmarked run
  rw [receiveAll_append, hrun, receiveAll_cons, receive_hunt (mark := true) _ rfl]
  rfl

/-- The fields of a header, but for the high byte of its length. -/
theorem receiveAll_fields (s : State) (kind tag code low : Byte) :
    receiveAll [kind, tag, code, low] (s.setRx (.header [])) = s.setRx (.header [kind, tag, code, low]) := by
  simp only [receiveAll_cons]
  rw [receive_header (got := []) kind rfl (by simp), receive_header (got := [kind]) tag rfl (by simp),
    receive_header (got := [kind, tag]) code rfl (by simp), receive_header (got := [kind, tag, code]) low rfl (by simp)]
  rfl

/-- The payload bytes fill the body (R183). -/
theorem receiveAll_body (s : State) (kind tag code : Byte) (got bs : List Byte) (hbs : bs ≠ []) :
    receiveAll bs (s.setRx (.body kind tag code (got.length + bs.length) got)) =
      s.setRx (.check kind tag code (got ++ bs) none) := by
  induction bs generalizing got with
  | nil => exact absurd rfl hbs
  | cons b bs ih =>
    rw [receiveAll_cons, receive_body (got := got) b rfl]
    cases bs with
    | nil =>
      rw [if_neg (by simp)]
      rfl
    | cons d bs =>
      have hlength : got.length + (b :: d :: bs).length = (got ++ [b]).length + (d :: bs).length := by
        simp only [List.length_cons, List.length_append, List.length_nil]
        omega
      rw [if_pos (by simp), hlength, State.setRx_setRx, ih (got ++ [b]) (by simp), List.append_assoc]
      rfl

theorem le16_bytes {n : Nat} (h : n < 65536) : (BitVec.ofNat 8 n).toNat + 256 * (BitVec.ofNat 8 (n / 256)).toNat = n := by
  simp only [BitVec.toNat_ofNat]
  omega

/-- The header and the payload of a frame end before its check (R183). -/
theorem receiveAll_checked (s : State) (kind tag code : Byte) (payload : List Byte) (h : payload.length ≤ 16400) :
    receiveAll (checkedBytes kind tag code payload) (s.setRx (.header [])) =
      s.setRx (.check kind tag code payload none) := by
  have hsplit : checkedBytes kind tag code payload =
      [kind, tag, code, BitVec.ofNat 8 payload.length] ++ (BitVec.ofNat 8 (payload.length / 256) :: payload) := rfl
  have hlength := le16_bytes (n := payload.length) (by omega)
  rw [hsplit, receiveAll_append, receiveAll_fields, receiveAll_cons,
    receive_length (s := s.setRx (.header [kind, tag, code, BitVec.ofNat 8 payload.length])) _ rfl, hlength,
    if_neg (by omega)]
  cases payload with
  | nil => rfl
  | cons b bs =>
    rw [if_neg (by simp), State.setRx_setRx]
    have hbody := receiveAll_body s kind tag code [] (b :: bs) (by simp)
    rwa [List.length_nil, Nat.zero_add] at hbody

/-! ### Notice records (R189, R190) -/

theorem mergeCause_some (count : Count) (c : Cause) (r : Notice) :
    mergeCause count c (some r) =
      { causes := r.causes ||| BitVec.twoPow 16 c.bit, first := r.first, merge := min (r.merge + 1) 255 } := rfl

theorem noticeDetail_bank (s : State) (b : BankId) :
    s.noticeDetail (bankSource b) = match (s.bank b).op.map Operation.kind with
      | none => 0
      | some (.program _ _) => 1
      | some (.erase _) => 2 := by
  have hval : (bankSource b).1 = 2 + b.1 := rfl
  have hb : (⟨(bankSource b).1 - 2, by omega⟩ : BankId) = b := Fin.ext (by simp [hval])
  rw [State.noticeDetail, if_neg (by omega), if_neg (by omega), dif_pos (by omega), hb]
  cases (s.bank b).op with
  | none => rfl
  | some o =>
    simp only [opCode, Option.map_some]
    cases o.kind <;> rfl

theorem noticeDetail_port (s : State) (p : PortId) : s.noticeDetail (portSource p) = (s.port p).backoff / 12 := by
  have hval : (portSource p).1 = 6 + p.1 := rfl
  have hp : (⟨(portSource p).1 - 6, by omega⟩ : PortId) = p := Fin.ext (by simp [hval])
  rw [State.noticeDetail, if_neg (by omega), if_neg (by omega), dif_neg (by omega), dif_pos (by omega), hp]

theorem noticeDetail_track (s : State) (t : TrackId) : s.noticeDetail (trackSource t) = (s.track t).state.code := by
  have hval : (trackSource t).1 = 11 + t.1 := rfl
  have ht : (⟨(trackSource t).1 - 11, by omega⟩ : TrackId) = t := Fin.ext (by simp [hval])
  rw [State.noticeDetail, if_neg (by omega), if_neg (by omega), dif_neg (by omega), dif_neg (by omega),
    if_neg (by omega), ht]

/-! ### The arbiter (R188, R191) -/

theorem noticeLevel_le (s : State) (n : SourceId) : s.noticeLevel n ≤ 7 :=
  Nat.le_of_lt_succ (s.notices.levels[classOf n]).isLt

theorem State.eligible_iff (s : State) (n : SourceId) :
    s.eligible n = true ↔ (∃ r, s.notice n = some r) ∧ 1 ≤ s.noticeLevel n := by
  rw [State.eligible, Bool.and_eq_true, Option.isSome_iff_exists, decide_eq_true_eq]

theorem completeFrame_tx (s : State) : (completeFrame s).link.tx = none := rfl

theorem arbitrate_answer {s : State} {a : Answer} {r : List Answer} (htx : s.link.tx = none)
    (hanswers : s.link.answers = a :: r) :
    arbitrate s = s.modLink fun l => { l with answers := r, tx := some a.frame } := by
  simp only [arbitrate, htx, hanswers]

theorem arbitrate_free {s : State} (htx : s.link.tx = none) (hanswers : s.link.answers = [])
    (hchosen : s.chosenNotice = none) : arbitrate s = s := by
  simp only [arbitrate, htx, hanswers, hchosen]

theorem arbitrate_notice {s : State} {n : SourceId} (htx : s.link.tx = none) (hanswers : s.link.answers = [])
    (hchosen : s.chosenNotice = some n) :
    arbitrate s = (s.setNotice n none).modLink fun l => { l with
      tx := some { kind := noticeKind, tag := 0, code := BitVec.ofNat 8 n.1, payload := s.noticePayload n } } := by
  simp only [arbitrate, htx, hanswers, hchosen]

/-- The arbiter finds no record: the enable is off, or no record has a level above 0. -/
theorem chosenNotice_none {s : State}
    (h : s.notices.enable = false ∨ ∀ n r, s.notice n = some r → s.noticeLevel n = 0) : s.chosenNotice = none := by
  unfold State.chosenNotice
  split
  next henable =>
    obtain hoff | hlevels := h
    · rw [hoff] at henable
      cases henable
    · rw [leastBy_none, List.filter_eq_nil_iff]
      intro n _ hn
      obtain ⟨⟨r, hr⟩, hlevel⟩ := (s.eligible_iff n).mp hn
      have hzero := hlevels n r hr
      omega
  next => rfl

/-- The arbiter finds the record of the highest level, the lowest source first among equals. -/
theorem chosenNotice_some {s : State} {n : SourceId} {r : Notice} (henable : s.notices.enable = true)
    (hr : s.notice n = some r) (hlevel : 1 ≤ s.noticeLevel n)
    (hfirst : ∀ m q, s.notice m = some q →
      s.noticeLevel m < s.noticeLevel n ∨ (s.noticeLevel m = s.noticeLevel n ∧ n ≤ m)) :
    s.chosenNotice = some n := by
  have hmem : n ∈ allSources.filter s.eligible :=
    List.mem_filter.mpr ⟨List.mem_finRange n, (s.eligible_iff n).mpr ⟨⟨r, hr⟩, hlevel⟩⟩
  rw [State.chosenNotice, if_pos henable]
  cases hfound : leastBy (fun n : SourceId => (7 - s.noticeLevel n) * 59 + n.1) (allSources.filter s.eligible) with
  | none => simp [(leastBy_none _ _).mp hfound] at hmem
  | some m =>
    obtain ⟨-, hm⟩ := List.mem_filter.mp (leastBy_mem _ _ m hfound)
    obtain ⟨⟨q, hq⟩, -⟩ := (s.eligible_iff m).mp hm
    have hle := leastBy_le _ _ m hfound n hmem
    have hm7 := noticeLevel_le s m
    have hn7 := noticeLevel_le s n
    have hm59 := m.isLt
    have hn59 := n.isLt
    congr 1
    obtain hlow | ⟨hsame, hnm⟩ := hfirst m q hq
    · omega
    · have hval := Fin.le_def.mp hnm
      rw [hsame] at hle
      exact Fin.ext (by omega)

/-! ### NOTICE SET and NOTICE TAKE (R193, R194) -/

/-- The levels and the enable that NOTICE SET writes. -/
def State.withLevels (s : State) (l0 l1 l2 l3 l4 l5 e : Byte) : State :=
  { s with notices := { s.notices with
      levels := #v[l0.setWidth 3, l1.setWidth 3, l2.setWidth 3, l3.setWidth 3, l4.setWidth 3, l5.setWidth 3]
      enable := decide (e = 1) } }

theorem handleNoticeSet_eq (s : State) (l0 l1 l2 l3 l4 l5 e : Byte) :
    handleNoticeSet [l0, l1, l2, l3, l4, l5, e] s =
      if (∀ l ∈ [l0, l1, l2, l3, l4, l5], l.toNat ≤ 7) ∧ e.toNat ≤ 1 then .done [] (s.withLevels l0 l1 l2 l3 l4 l5 e)
      else .error .range := by
  have henable : byteAt [l0, l1, l2, l3, l4, l5, e] 6 = e.toNat := rfl
  have hlevels : [l0, l1, l2, l3, l4, l5, e].take 6 = [l0, l1, l2, l3, l4, l5] := rfl
  rw [handleNoticeSet, if_neg (by simp), henable, hlevels, readBool_toNat]
  by_cases he : e.toNat ≤ 1
  · simp only [if_pos (show e.toNat < 2 by omega)]
    by_cases hl : ∀ l ∈ [l0, l1, l2, l3, l4, l5], l.toNat ≤ 7
    · rw [if_pos (by simpa only [List.all_eq_true, decide_eq_true_eq] using hl), if_pos ⟨hl, he⟩]
      rfl
    · rw [if_neg (by simpa only [List.all_eq_true, decide_eq_true_eq] using hl), if_neg fun h => hl h.1]
  · simp only [if_neg (show ¬ e.toNat < 2 by omega)]
    rw [if_neg fun h => he h.2]

theorem handleNoticeTake_eq (s : State) (n : Byte) :
    handleNoticeTake [n] s =
      if n.toNat ≤ 59 then
        .done (le8 (s.pendingSources.take n.toNat).length ++ le8 (s.pendingSources.drop n.toNat).length ++
            (s.pendingSources.take n.toNat).flatMap s.noticePayload)
          (forEach (s.pendingSources.take n.toNat) (fun u k => u.setNotice k none) s)
      else .error .range := by
  have hcount : byteAt [n] 0 = n.toNat := rfl
  rw [handleNoticeTake, if_neg (by simp), hcount]
  by_cases hn : n.toNat ≤ 59
  · rw [if_neg (by omega), if_pos hn]
  · rw [if_pos (by omega), if_neg hn]

/-- The records of a list of sources leave the table, and nothing else changes. -/
theorem withdrawAll_notice (ns : List SourceId) (s : State) (k : SourceId) :
    (forEach ns (fun u n => u.setNotice n none) s).notice k = if k ∈ ns then none else s.notice k := by
  induction ns generalizing s with
  | nil => simp [forEach]
  | cons n ns ih =>
    rw [forEach, List.foldl_cons]
    refine (ih (s.setNotice n none)).trans ?_
    by_cases hk : k ∈ ns
    · simp [hk]
    · by_cases hkn : n = k
      · subst hkn
        simp
      · rw [if_neg hk, State.setNotice_notice_other s n k none hkn, if_neg]
        simp [hk, Ne.symm hkn]

theorem withdrawAll_frame (ns : List SourceId) (s : State) :
    { forEach ns (fun u n => u.setNotice n none) s with
      notices := { (forEach ns (fun u n => u.setNotice n none) s).notices with records := s.notices.records } } = s :=
  forEach_keeps ns (fun u n => u.setNotice n none)
    (fun u => ({ u with notices := { u.notices with records := s.notices.records } } : State)) (fun _ _ => rfl) s

theorem withdrawAll_sansLink (ns : List SourceId) {s u : State} (h : s.sansLink = u.sansLink) :
    (forEach ns (fun u n => u.setNotice n none) s).sansLink =
      (forEach ns (fun u n => u.setNotice n none) u).sansLink := by
  induction ns generalizing s u with
  | nil => exact h
  | cons n ns ih => exact ih (congrArg (fun v : State => v.setNotice n none) h)

theorem withdrawAll_link (ns : List SourceId) (s : State) :
    (forEach ns (fun u n => u.setNotice n none) s).link = s.link :=
  forEach_keeps ns (fun u n => u.setNotice n none) State.link (fun _ _ => rfl) s

end Sys2Proof.Machine

namespace Sys2Proof.Proofs.ControlLink

open Sys2Proof Sys2Proof.Machine

/-- Settles O5. Each state of the receiver has its equation; the gap count is the link's part of a tick start. -/
theorem receiverTakesBytesAndGaps : Obligations.ReceiverTakesBytesAndGaps := by
  unfold Obligations.ReceiverTakesBytesAndGaps
  refine ⟨fun s b hheld => ⟨fun mark h => ?_, fun got h hlength => ?_, fun kind tag code low h => ?_,
    fun kind tag code length got h => ?_, fun kind tag code payload h => ?_, fun kind tag code payload high h => ?_⟩,
    fun s hheld hgap => ?_, fun s hheld hgap hrx hcount => ?_⟩
  · exact acts_same (acts_linkByte b hheld) (receive_hunt b h)
  · exact acts_same (acts_linkByte b hheld) (receive_header b h hlength)
  · exact acts_same (acts_linkByte b hheld) (receive_length b h)
  · exact acts_same (acts_linkByte b hheld) (receive_body b h)
  · exact acts_same (acts_linkByte b hheld) (receive_checkHigh b h)
  · exact acts_same (acts_linkByte b hheld) (receive_checkLow b h)
  · obtain ⟨u, hopen, hlink, hwork, hnotice, htimeline⟩ := openTick_gap s
    have hlinks : (tickStart s).link = (gapTick u).link := by rw [tickStart_link, hopen]
    rw [← hlink]
    refine ⟨fun hrx hcount => ⟨tickStart s, acts_tickStart hheld, ?_⟩,
      fun hrx hcount => ⟨tickStart s, acts_tickStart hheld, ?_, ?_⟩,
      fun hrx => ⟨tickStart s, acts_tickStart hheld, hlinks.trans (gapTick_stands hrx)⟩⟩
    · exact hlinks.trans (gapTick_counts (hwork.trans hgap) hrx hcount)
    · rw [hlinks, gapTick_expires (hwork.trans hgap) hrx hcount]
      rfl
    · rw [tickStart_notice s (by decide) (by decide), tickStart_timeline, openTick_timeline, ← htimeline, hopen,
        gapTick_expires (hwork.trans hgap) hrx hcount, State.raise_notice, if_pos rfl, ← hnotice]
      rfl
  · have hlink := timelineTick_field State.link (fun _ _ _ _ => rfl) s
    have hwork := congrArg TickWork.gap (timelineTick_work_rest s)
    dsimp only at hwork
    refine acts_same (acts_of rfl hheld) ?_
    rw [gapExpires, takePart, if_pos (by simp [State.gapDue, hgap, hrx, hcount])]
    exact gapTick_expires (hwork.trans hgap) (by rw [hlink]; exact hrx) (by rw [hlink]; exact hcount)

/-- Settles O4. The bytes of a frame take the receiver from HUNT through header and body to the judgement of its check. -/
theorem framesAreReadAsSent : Obligations.FramesAreReadAsSent := by
  unfold Obligations.FramesAreReadAsSent
  refine ⟨fun s f x mark run high low hheld htx hrx hlength => ?_,
    fun s x mark kind tag code low high hheld htx hrx hlength => ?_⟩
  · rw [afterAll_linkBytes _ hheld htx, receiveAll_append, receiveAll_append, receiveAll_start run hrx,
      receiveAll_checked s f.kind f.tag f.code f.payload hlength, receiveAll_cons, receive_checkHigh high rfl,
      receiveAll_cons, receive_checkLow low rfl]
    rfl
  · have hstart : [0xC6, 0x39, kind, tag, code, low, high] =
        (List.replicate (0 + 1) 0xC6 ++ [0x39]) ++ ([kind, tag, code, low] ++ [high]) := rfl
    rw [afterAll_linkBytes _ hheld htx, hstart, receiveAll_append, receiveAll_start 0 hrx, receiveAll_append,
      receiveAll_fields, receiveAll_cons, receive_length high rfl, if_pos hlength]
    rfl

/-- Settles O6. `mergeCause` makes or joins a record, and `State.raise` writes no other. -/
theorem causesGatherInRecords : Obligations.CausesGatherInRecords := by
  unfold Obligations.CausesGatherInRecords
  intro s n c
  refine ⟨fun h => ?_, fun r h => ?_, fun m hm => ?_, rfl, rfl, rfl, rfl, rfl, rfl, rfl, rfl, rfl, fun _ => rfl,
    fun _ => rfl, rfl, fun _ => rfl, rfl, ?_, noticeDetail_bank s, noticeDetail_port s, rfl, fun t => ?_⟩
  · rw [State.raise_notice, if_pos rfl, h]
    rfl
  · rw [State.raise_notice, if_pos rfl, h, mergeCause_some]
  · rw [State.raise_notice, if_neg (Ne.symm hm)]
  · cases hseen : s.timeline.leaderSeen <;> simp [State.noticeDetail, clockSource, hseen]
  · rw [noticeDetail_track]
    cases (s.track t).state <;> rfl

/-- Settles O7. Once the transmitter is free the arbiter takes the front answer, then the record `chosenNotice` finds. -/
theorem arbiterChoosesNextFrame : Obligations.ArbiterChoosesNextFrame := by
  unfold Obligations.ArbiterChoosesNextFrame
  intro s hheld
  have hacts : Acts .frameCompletion s (completeFrame s) := acts_of rfl hheld
  refine ⟨fun a r hanswers => ?_, fun hanswers hnone => ?_, fun n r hanswers henable hr hlevel hfirst => ?_⟩
  · rw [hacts, arbitrate_answer (completeFrame_tx s) hanswers]
    rfl
  · rw [hacts, arbitrate_free (completeFrame_tx s) hanswers (chosenNotice_none hnone)]
    rfl
  · have hchosen : (completeFrame s).chosenNotice = some n := chosenNotice_some henable hr hlevel hfirst
    have hpayload : (completeFrame s).noticePayload n = le8 n.1 ++ r.bytes (s.noticeDetail n) := by
      have hnotice : (completeFrame s).notice n = some r := hr
      rw [State.noticePayload, hnotice]
      rfl
    rw [hacts, arbitrate_notice (completeFrame_tx s) hanswers hchosen, hpayload]
    rfl

/-- Settles O11. The two handlers' equations in the state the request is met in, whose notice table is that of `s`. -/
theorem noticeRequests : Obligations.NoticeRequests := by
  unfold Obligations.NoticeRequests
  refine ⟨fun s tag l0 l1 l2 l3 l4 l5 e h => ?_, fun s tag n h => ?_⟩
  · have hreply := handleNoticeSet_eq (s.met { tag := tag, code := 0x03, payload := [l0, l1, l2, l3, l4, l5, e] })
      l0 l1 l2 l3 l4 l5 e
    split
    next hrange =>
      rw [if_pos hrange] at hreply
      refine completes_of (c := .noticeSet tag [l0, l1, l2, l3, l4, l5, e]) rfl h hreply rfl ?_
      exact congrArg (fun u : State => u.withLevels l0 l1 l2 l3 l4 l5 e) (s.met_sansLink _)
    next hrange =>
      rw [if_neg hrange] at hreply
      exact refuses_of (c := .noticeSet tag [l0, l1, l2, l3, l4, l5, e]) rfl h hreply
  · intro pending taken met
    have hreply := handleNoticeTake_eq met n
    have hsame : ∀ k, met.notice k = s.notice k := s.met_notice _
    have hpending : met.pendingSources = pending := by
      simp only [State.pendingSources, hsame]
      rfl
    rw [hpending] at hreply
    split
    next hn =>
      rw [if_pos hn] at hreply
      refine ⟨forEach taken (fun u k => u.setNotice k none) s, ?_, withdrawAll_notice taken s,
        withdrawAll_frame taken s⟩
      refine completes_of (c := .noticeTake tag [n]) rfl h (hreply.trans ?_) (withdrawAll_link taken met)
        (withdrawAll_sansLink taken (s.met_sansLink _))
      have hleft : (pending.drop n.toNat).length = pending.length - taken.length := by
        simp only [taken, List.length_drop, List.length_take]
        omega
      have hpayload (k : SourceId) : met.noticePayload k = match s.notice k with
          | some r => [BitVec.ofNat 8 k.1] ++ r.bytes (met.noticeDetail k)
          | none => [] := by
        rw [State.noticePayload, hsame]
        cases s.notice k <;> rfl
      rw [hleft, funext hpayload]
      rfl
    next hn =>
      rw [if_neg hn] at hreply
      exact refuses_of (c := .noticeTake tag [n]) rfl h hreply

end Sys2Proof.Proofs.ControlLink
end

section
/-! PROOFS. The timeline (chapter 08: O15 to O18) and the output ports (chapter 05: O19, O21, O22). -/

namespace Sys2Proof.Machine

/-! ### CLOCK SET and SYNC SET (R157, R160) -/

/-- A four-byte field taken as a word of 32 bits. -/
theorem ofNat_word32 (p : List Byte) (i : Nat) :
    BitVec.ofNat 32 (word32 p i) = p.getD (i + 3) 0 ++ p.getD (i + 2) 0 ++ p.getD (i + 1) 0 ++ p.getD i 0 := by
  refine BitVec.eq_of_toNat_eq ?_
  have h0 := (p.getD i 0).isLt
  have h1 := (p.getD (i + 1) 0).isLt
  have h2 := (p.getD (i + 2) 0).isLt
  have h3 := (p.getD (i + 3) 0).isLt
  simp only [BitVec.toNat_ofNat, BitVec.toNat_append, word32, word16, byteAt]
  rw [show i + 2 + 1 = i + 3 from rfl]
  rw [← Nat.shiftLeft_add_eq_or_of_lt h0, ← Nat.shiftLeft_add_eq_or_of_lt h1, ← Nat.shiftLeft_add_eq_or_of_lt h2]
  simp only [Nat.shiftLeft_eq]
  omega

/-- The pending set that CLOCK SET makes. -/
def State.withClock (s : State) (v : Count) : State := { s with timeline := { s.timeline with pendingSet := some v } }

theorem handleClockSet_eq (s : State) (b0 b1 b2 b3 : Byte) :
    handleClockSet [b0, b1, b2, b3] s =
      if s.timeline.role = .follow then .error .state else .done [] (s.withClock (b3 ++ b2 ++ b1 ++ b0)) := by
  have hvalue : BitVec.ofNat 32 (word32 [b0, b1, b2, b3] 0) = b3 ++ b2 ++ b1 ++ b0 := ofNat_word32 _ 0
  rw [handleClockSet, if_neg (by simp), hvalue]
  rfl

/-- The role that a byte names (R160). -/
def roleOf (b : Byte) : Role := if b = 0 then .alone else if b = 1 then .lead else .follow

theorem readRole_toNat (b : Byte) : readRole b.toNat = if b.toNat < 3 then some (roleOf b) else none := by
  obtain rfl | rfl | rfl | habove := byte_cases b
  · rfl
  · rfl
  · rfl
  · rw [if_neg (by omega), readRole.eq_4] <;> omega

/-- The role and id that SYNC SET takes. -/
def State.withSync (s : State) (role : Role) (id : UnitId) : State := { s with timeline := s.timeline.syncSet role id }

theorem handleSyncSet_eq (s : State) (role id : Byte) :
    handleSyncSet [role, id] s =
      if 2 < role.toNat ∨ 7 < id.toNat then .error .range else .done [] (s.withSync (roleOf role) (id.setWidth 3)) := by
  have hrole : byteAt [role, id] 0 = role.toNat := rfl
  have hid : byteAt [role, id] 1 = id.toNat := rfl
  rw [handleSyncSet, if_neg (by simp), hrole, hid, readRole_toNat]
  by_cases hr : role.toNat < 3
  · simp only [if_pos hr]
    by_cases hi : 8 ≤ id.toNat
    · rw [if_pos hi, if_pos (by omega)]
    · rw [if_neg hi, if_neg (by omega)]
      rfl
  · simp only [if_neg hr]
    rw [if_pos (by omega)]

/-! ### The tick start of the timeline (R156, R163, R165, R166) -/

theorem arbitrate_acts {c : Instr} {s u : State} (h : Acts c s u) :
    ∃ t, exec c s = .next t ∧ t.timeline = u.timeline ∧ t.work = u.work :=
  ⟨arbitrate u, h, arbitrate_timeline u, arbitrate_work u⟩

theorem takePart_acts {c : Instr} {due : Bool} {f : State → State} {s : State}
    (he : exec c s = .next (s.event (takePart due f))) (hheld : s.held = false) (hdue : due = true) :
    Acts c s (f s) := by
  have hacts := acts_of he hheld
  rwa [takePart, if_pos hdue] at hacts

theorem timelineTick_clockNotice {s : State} (h : s.work.timeline = false) :
    (timelineTick s).notice clockSource =
      let x := s.timeline
      let raise (b : Bool) (c : Cause) (r : Option Notice) := if b then some (mergeCause x.brings c r) else r
      raise x.losesMarker .holdover (raise x.raisesSlip .slip (raise x.raisesLocked .locked (s.notice clockSource))) := by
  have hraise (u : State) (b : Bool) (c : Cause) : (u.raiseIf b clockSource c).notice clockSource =
      if b then some (mergeCause u.timeline.count c (u.notice clockSource)) else u.notice clockSource := by
    unfold State.raiseIf
    split
    · rw [State.raise_notice, if_pos rfl]
    · rfl
  simp only [timelineTick, h, Bool.false_eq_true, if_false, hraise, raiseIf_field State.timeline (fun _ _ => rfl)]
  rfl

theorem timelineTick_quiet {s : State} (h : s.work.timeline = false) (hlocked : s.timeline.raisesLocked = false)
    (hslip : s.timeline.raisesSlip = false) (hloss : s.timeline.losesMarker = false) :
    timelineTick s = { s with timeline := s.timeline.tick, work := { s.work with timeline := true } } := by
  simp only [timelineTick, h, Bool.false_eq_true, if_false, hlocked, hslip, hloss, State.raiseIf]

/-- A marker heard by a LEAD unit (R162): it yields to a lower or an equal id, and holds a contention against a higher. -/
theorem hearMarker_lead {m : Marker} {s : State} (hrole : s.timeline.role = .lead) :
    hearMarker m s =
      if m.id.toNat < s.timeline.unitId.toNat then
        ({ s with timeline := s.timeline.yields.accept m } : State).raise clockSource .leadLost
      else if m.id = s.timeline.unitId then
        ({ s with timeline := s.timeline.yields.accept m } : State).raise clockSource .idClash
      else ({ s with timeline := { s.timeline with contention := true, heardHigher := true } } : State).raiseIf
        (!s.timeline.contention) clockSource .contend := by
  unfold hearMarker
  dsimp only
  split
  next h => cases hrole.symm.trans h
  next h => cases hrole.symm.trans h
  next => rfl

theorem Timeline.contends_iff (x : Timeline) : x.contends = true ↔ x.role = .lead ∧ x.contention = true := by
  rw [Timeline.contends, Bool.and_eq_true, decide_eq_true_eq]

/-- A contention that is watched ends at quiet count 16, and its quiet count grows before that (R163). -/
theorem Timeline.tick_watching {x : Timeline} (h : x.contends = true) :
    (16 ≤ x.quietNext → x.tick.contention = false ∧ x.tick.quiet = 0) ∧
      (x.quietNext < 16 → x.tick.contention = true ∧ x.tick.quiet = x.quietNext) := by
  have hmark := ((x.contends_iff).mp h).2
  refine ⟨fun hq => ?_, fun hq => ?_⟩
  · have hends : x.contentionEnds = true := by simp [Timeline.contentionEnds, h, hq]
    simp [Timeline.tick, hends]
  · have hends : x.contentionEnds = false := by simp [Timeline.contentionEnds, h, hq]
    simp [Timeline.tick, hends, h, hmark]

theorem Timeline.tick_unwatched {x : Timeline} (h : x.contends = false) :
    x.tick.contention = x.contention ∧ x.tick.quiet = x.quiet := by
  have hends : x.contentionEnds = false := by simp [Timeline.contentionEnds, h]
  simp [Timeline.tick, hends, h]

theorem Timeline.nextFollow_eq (x : Timeline) :
    x.nextFollow = if x.adopts.isSome then .locked
      else if x.role = .follow ∧ x.follow = .locked ∧ x.nextAge = some 16 then .holdover else x.follow := by
  simp only [Timeline.nextFollow, Timeline.losesMarker, Bool.and_eq_true, decide_eq_true_eq, and_assoc]

end Sys2Proof.Machine

namespace Sys2Proof.Proofs.TimelineUnit

open Sys2Proof Sys2Proof.Machine

/-- Settles O15. -/
theorem clockAndSyncRequests : Obligations.ClockAndSyncRequests := by
  unfold Obligations.ClockAndSyncRequests
  refine ⟨fun s tag b0 b1 b2 b3 h => ?_, fun s tag role id h => ?_⟩
  · have hreply := handleClockSet_eq (s.met { tag := tag, code := 0x10, payload := [b0, b1, b2, b3] }) b0 b1 b2 b3
    rw [State.met_timeline] at hreply
    split
    next hfollow =>
      rw [if_pos hfollow] at hreply
      exact refuses_of (c := .clockSet tag [b0, b1, b2, b3]) rfl h hreply
    next hfollow =>
      rw [if_neg hfollow] at hreply
      refine completes_of (c := .clockSet tag [b0, b1, b2, b3]) rfl h hreply rfl ?_
      exact congrArg (fun u : State => u.withClock (b3 ++ b2 ++ b1 ++ b0)) (s.met_sansLink _)
  · have hreply := handleSyncSet_eq (s.met { tag := tag, code := 0x12, payload := [role, id] }) role id
    split
    next hrange =>
      rw [if_pos hrange] at hreply
      exact refuses_of (c := .syncSet tag [role, id]) rfl h hreply
    next hrange =>
      rw [if_neg hrange] at hreply
      have hfollow : roleOf role = .follow ↔ role = 2 := by
        obtain rfl | rfl | rfl | habove := byte_cases role
        · decide
        · decide
        · decide
        · omega
      refine ⟨s.withSync (roleOf role) (id.setWidth 3), ?_, rfl, rfl, rfl, rfl, rfl, rfl, rfl, rfl, rfl, fun hr => ?_,
        fun hr => ?_, rfl, rfl⟩
      · refine completes_of (c := .syncSet tag [role, id]) rfl h hreply rfl ?_
        exact congrArg (fun u : State => u.withSync (roleOf role) (id.setWidth 3)) (s.met_sansLink _)
      · exact ⟨if_pos (hfollow.mpr hr), if_pos (hfollow.mpr hr)⟩
      · exact if_neg fun hf => hr (hfollow.mp hf)

/-- Settles O16: the timeline at the tick start is `Timeline.tick`, read field by field. -/
theorem tickStartBringsCount : Obligations.TickStartBringsCount := by
  unfold Obligations.TickStartBringsCount
  intro s hheld hwork
  obtain ⟨t, hexec, htimeline, htick⟩ := arbitrate_acts (acts_tickStart hheld)
  refine ⟨t, hexec, ?_⟩
  rw [htimeline, htick, tickStart_timeline, openTick_timeline, timelineTick_timeline hwork]
  exact ⟨rfl, rfl, fun h => if_neg h, rfl, rfl, rfl, rfl, s.timeline.nextFollow_eq,
    fun hw => Timeline.tick_watching ((Timeline.contends_iff _).mpr hw),
    fun hw => Timeline.tick_unwatched (Bool.eq_false_iff.mpr fun h => hw ((Timeline.contends_iff _).mp h)), rfl⟩

/-- Settles O17. -/
theorem timelineRows : Obligations.TimelineRows := by
  unfold Obligations.TimelineRows
  intro s hheld hwork
  have htick := timelineTick_timeline hwork
  have hrow {c : Instr} {due : Bool} (he : exec c s = .next (s.event (takePart due timelineTick)))
      (hdue : due = true) : Acts c s (timelineTick s) := takePart_acts he hheld hdue
  refine ⟨fun v hrole hset => ?_, fun m hrole hmarker => ?_, fun a hrole hmarker hfollow hage ha => ?_,
    fun hrole hcontention hheard hquiet => ?_⟩
  · have hadopts : s.timeline.adopts = none := by simp [Timeline.adopts, hrole]
    have hvalue : s.timeline.setValue = some v := by simp [Timeline.setValue, hrole, hset]
    have hquiet := timelineTick_quiet hwork (by simp [Timeline.raisesLocked, hadopts])
      (by simp [Timeline.raisesSlip, hadopts]) (by simp [Timeline.losesMarker, hrole])
    refine ⟨timelineTick s, hrow rfl (by simp [hwork, hadopts, hvalue]), rfl, ?_, ?_, ?_⟩
    · rw [htick, Timeline.tick, Timeline.brings, hadopts, hvalue]
    · rw [htick]
      exact if_neg hrole
    · rw [hquiet]
  · have hadopts : s.timeline.adopts = some m := by simp [Timeline.adopts, hrole, hmarker]
    have hbrings : s.timeline.brings = m.count := by rw [Timeline.brings, hadopts]
    refine ⟨timelineTick s, hrow rfl (by simp [hwork, hadopts]), ?_, ?_, ?_, ?_, ?_, fun n => timelineTick_notice_other s,
      ?_⟩
    · rw [htick]
      exact hbrings
    · rw [htick]
      simp [Timeline.tick, Timeline.nextFollow, hadopts]
    · rw [htick]
      simp [Timeline.tick, Timeline.nextAge, hrole, hmarker]
    · rw [htick]
      rfl
    · rw [timelineTick_clockNotice hwork]
      simp only [hbrings, Timeline.losesMarker, Timeline.raisesSlip, Timeline.raisesLocked, hadopts, Timeline.nextAge,
        hrole, hmarker]
      simp
    · exact timelineTick_frame s
  · subst ha
    have hadopts : s.timeline.adopts = none := by simp [Timeline.adopts, hrole, hmarker]
    have hvalue : s.timeline.setValue = none := by simp [Timeline.setValue, hrole]
    have hnext : s.timeline.nextAge = some 16 := by simp [Timeline.nextAge, hrole, hmarker, hage, satSucc]
    have hloses : s.timeline.losesMarker = true := by simp [Timeline.losesMarker, hrole, hfollow, hnext]
    have hbrings : s.timeline.brings = s.timeline.count + 1 := by rw [Timeline.brings, hadopts, hvalue]
    refine ⟨timelineTick s, hrow rfl (by simp [hwork, hloses]), ?_, ?_, ?_, ?_, fun n => timelineTick_notice_other s,
      timelineTick_frame s⟩
    · rw [htick]
      exact hbrings
    · rw [htick]
      simp [Timeline.tick, Timeline.nextFollow, hadopts, hloses]
    · rw [htick]
      exact hnext
    · rw [timelineTick_clockNotice hwork]
      simp [hbrings, hloses, Timeline.raisesSlip, Timeline.raisesLocked, hadopts]
  · have hadopts : s.timeline.adopts = none := by simp [Timeline.adopts, hrole]
    have hcontends : s.timeline.contends = true := (Timeline.contends_iff _).mpr ⟨hrole, hcontention⟩
    have hnext : 16 ≤ s.timeline.quietNext := by simp [Timeline.quietNext, hheard, hquiet]
    have hends : s.timeline.contentionEnds = true := by simp [Timeline.contentionEnds, hcontends, hnext]
    have hsilent := timelineTick_quiet hwork (by simp [Timeline.raisesLocked, hadopts])
      (by simp [Timeline.raisesSlip, hadopts]) (by simp [Timeline.losesMarker, hrole])
    obtain ⟨hmark, hzero⟩ := (Timeline.tick_watching hcontends).1 hnext
    refine ⟨timelineTick s, hrow rfl (by simp [hwork, hends]), ?_, ?_, ?_⟩
    · rw [htick, hmark]
    · rw [htick, hzero]
    · rw [hsilent]

/-- Settles O18. -/
theorem markersAreSentAndHeard : Obligations.MarkersAreSentAndHeard := by
  unfold Obligations.MarkersAreSentAndHeard
  refine ⟨fun s hheld => ⟨fun hsent => ?_, fun hsent hrole => ?_, fun hsent hrole => ?_⟩, fun s id count hheld => ?_⟩
  · exact acts_same (acts_of rfl hheld) (by simp [sendMarker, Timeline.send, hsent])
  · exact acts_same (acts_of rfl hheld) (by simp [sendMarker, Timeline.send, hsent, hrole])
  · refine ⟨{ id := s.timeline.unitId, count := s.timeline.pendingSet.getD (s.timeline.count + 1) }, rfl,
      acts_same (acts_of rfl hheld) (by simp [sendMarker, Timeline.send, hsent, hrole]), fun hnone => ?_,
      fun v hv => ?_⟩
    · simp [hnone]
    · simp [hv]
  · intro m accepted yielded
    have hheard : Acts (.markerHeard id count true) s (hearMarker m s) := acts_of rfl hheld
    have hlost : Acts (.markerHeard id count false) s s :=
      acts_of (f := fun u => if false then hearMarker m u else u) rfl hheld
    refine ⟨hlost, fun hrole => ?_, fun hrole => ⟨fun p hp => ?_, fun hp hf => ?_, fun l hp hf hl => ?_⟩,
      fun hrole => ⟨fun hlow => ?_, fun hsame => ?_, fun hhigh => ?_⟩⟩
    · exact acts_same hheard (by simp [hearMarker, hrole])
    · refine acts_same hheard ?_
      simp only [hearMarker, hrole, Timeline.accepts, hp, decide_eq_true_eq]
      rfl
    · refine acts_same hheard ?_
      have haccepts : s.timeline.accepts m.id = true := by simp [Timeline.accepts, hp, hf]
      simp only [hearMarker, hrole, if_pos haccepts]
      rfl
    · refine acts_same hheard ?_
      simp only [hearMarker, hrole, Timeline.accepts, hp, hf, hl, decide_eq_true_eq]
      rfl
    · refine acts_same hheard ?_
      rw [hearMarker_lead hrole, if_pos (BitVec.lt_def.mp hlow)]
      rfl
    · have hlow : ¬ m.id.toNat < s.timeline.unitId.toNat := by simp [m, hsame]
      refine acts_same hheard ?_
      rw [hearMarker_lead hrole, if_neg hlow, if_pos hsame]
      rfl
    · have hlow : ¬ m.id.toNat < s.timeline.unitId.toNat := Nat.not_lt.mpr (Nat.le_of_lt (BitVec.lt_def.mp hhigh))
      have hother : m.id ≠ s.timeline.unitId := fun h => (BitVec.ne_of_lt hhigh) h.symm
      intro marked
      refine acts_same hheard ?_
      rw [hearMarker_lead hrole, if_neg hlow, if_neg hother]
      unfold State.raiseIf
      cases hc : s.timeline.contention with
      | true => rfl
      | false => rfl

end Sys2Proof.Proofs.TimelineUnit

namespace Sys2Proof.Machine

/-! ### What a port drives (R100 to R103) -/

theorem clampTo_spec (v : Int) :
    (32767 < v → clampTo (-32768) 32767 v = 32767) ∧ (v < -32768 → clampTo (-32768) 32767 v = -32768) ∧
      (-32768 ≤ v ∧ v ≤ 32767 → clampTo (-32768) 32767 v = v) := by
  unfold clampTo
  refine ⟨fun h => ?_, fun h => ?_, fun h => ?_⟩ <;> split <;> (try split) <;> omega

theorem saturate_zero : saturate Sample.zero = Sample.zero := by decide

/-- The samples counted as clipped are those that the port drives other than their sums, the sums beyond the run being
zero (R101). -/
theorem countP_isClipped (xs : List Sample) (n : Nat) :
    (xs.take n).countP isClipped =
      ((List.range n).filter fun k => saturate (xs.getD k Sample.zero) ≠ xs.getD k Sample.zero).length := by
  induction n generalizing xs with
  | zero => rfl
  | succ n ih =>
    cases xs with
    | nil =>
      have hzero : (List.range (n + 1)).filter (fun k =>
          saturate (([] : List Sample).getD k Sample.zero) ≠ ([] : List Sample).getD k Sample.zero) = [] := by
        rw [List.filter_eq_nil_iff]
        intro k _
        simp [saturate_zero]
      rw [hzero]
      rfl
    | cons x xs =>
      rw [List.take_succ_cons, List.countP_cons, ih xs, List.range_succ_eq_map, List.filter_cons, List.filter_map]
      have hcomp : (fun k => decide (saturate ((x :: xs).getD k Sample.zero) ≠ (x :: xs).getD k Sample.zero)) ∘ Nat.succ =
          fun k => decide (saturate (xs.getD k Sample.zero) ≠ xs.getD k Sample.zero) := rfl
      rw [hcomp]
      by_cases hx : saturate x ≠ x
      · simp [isClipped, hx]
      · simp [isClipped, hx]

/-! ### What a port closes (R98, R105, R107, R110) -/

/-- A port's tick was overloaded (R105). -/
theorem Port.overloaded_iff (x : Port) : x.overloaded = true ↔ x.state = .live ∧ x.limit < x.clipCount := by
  rw [Port.overloaded, Bool.and_eq_true, decide_eq_true_eq, decide_eq_true_eq]

/-- The overloaded-tick count that a port's judgement leaves (R105). -/
def Port.countNext (x : Port) : Nat :=
  if x.state = .live ∧ x.limit < x.clipCount then min (x.overloads + 1) 65535 else x.overloads

/-- The backoff that a port's judgement leaves (R105, R107). -/
def Port.backoffNext (x : Port) : Nat :=
  if (x.state = .live ∧ x.limit < x.clipCount) ∧ x.guard = .backoff ∧ x.backoff < 96 then x.backoff + 12
  else x.backoff

theorem Port.closed_eq (x : Port) :
    x.closed = ({ x.recorded with overloads := x.countNext, backoff := x.backoffNext } : Port).applyPending := by
  unfold Port.closed Port.countNext Port.backoffNext
  by_cases ho : x.overloaded = true
  · have hlive := x.overloaded_iff.mp ho
    rw [if_pos ho, if_pos hlive]
    simp only [hlive, true_and, Port.judged, Bool.and_eq_true, decide_eq_true_eq, and_self]
    rfl
  · have hfine : ¬ (x.state = .live ∧ x.limit < x.clipCount) := fun h => ho (x.overloaded_iff.mpr h)
    rw [if_neg ho, if_neg hfine, if_neg fun h => hfine h.1]
    rfl

theorem Port.closed_kept {x : Port} (h : x.pending = none) :
    x.closed = { x.recorded with overloads := x.countNext, backoff := x.backoffNext } := by
  have hnone : x.recorded.pending = none := h
  simp only [Port.closed_eq, Port.applyPending, hnone]

theorem Port.closed_applied {x : Port} {v : PortSet} (h : x.pending = some v) :
    x.closed =
      { state := v.state, fs := v.fs, x := v.x, guard := v.guard, limit := v.limit, pending := none
        backoff := if v.restore then 0 else x.backoffNext
        overloads := if v.restore then 0 else x.countNext
        lastClips := x.clipCount, lastFeeds := x.feedCount, feeds := 0, sum := [] } := by
  have hsome : x.recorded.pending = some v := h
  simp only [Port.closed_eq, Port.applyPending, hsome]
  rfl

theorem Port.closed_counts (x : Port) :
    x.closed.lastClips = x.clipCount ∧ x.closed.lastFeeds = x.feedCount ∧ x.closed.pending = none := by
  cases h : x.pending with
  | none =>
    rw [Port.closed_kept h]
    exact ⟨rfl, rfl, h⟩
  | some v =>
    rw [Port.closed_applied h]
    exact ⟨rfl, rfl, rfl⟩

theorem Port.settings_of_cleared {x y : Port} (h : { x with feeds := 0, sum := [] } = y) :
    x.state = y.state ∧ x.fs = y.fs ∧ x.x = y.x ∧ x.guard = y.guard ∧ x.limit = y.limit ∧ x.backoff = y.backoff ∧
      x.overloads = y.overloads := by
  subst h
  exact ⟨rfl, rfl, rfl, rfl, rfl, rfl, rfl⟩

/-- The cause of an overloaded tick (R105). -/
theorem Port.closeCause_eq (x : Port) :
    x.closeCause =
      if x.state = .live ∧ x.limit < x.clipCount then
        if x.guard = .off then none else if x.guard = .backoff ∧ x.backoff < 96 then some .backoff else some .overload
      else none := by
  unfold Port.closeCause
  by_cases ho : x.overloaded = true
  · rw [if_pos ho, if_pos (x.overloaded_iff.mp ho), Port.guardCause]
    cases x.guard <;> simp
  · rw [if_neg ho, if_neg fun h => ho (x.overloaded_iff.mpr h)]

end Sys2Proof.Machine

namespace Sys2Proof.Proofs.PortUnits

open Sys2Proof Sys2Proof.Machine

/-- Settles O19. -/
theorem portSaturatesItsSum : Obligations.PortSaturatesItsSum := by
  unfold Obligations.PortSaturatesItsSum
  intro x n _
  refine ⟨fun hlive => ?_, fun hquiet => ?_⟩
  · have hbus (k : Nat) : x.busSample k = saturate (x.sumAt k) := if_pos hlive
    obtain ⟨hihigh, hilow, hifits⟩ := clampTo_spec (x.sumAt n).i
    obtain ⟨hqhigh, hqlow, hqfits⟩ := clampTo_spec (x.sumAt n).q
    rw [hbus]
    refine ⟨hihigh, hilow, hifits, hqhigh, hqlow, hqfits, ?_⟩
    rw [Port.clipCount, if_pos hlive, countP_isClipped]
    simp only [hbus]
    rfl
  · exact ⟨if_neg hquiet, if_neg hquiet⟩

/-- Settles O21. -/
theorem portsCloseTheirTick : Obligations.PortsCloseTheirTick := by
  unfold Obligations.PortsCloseTheirTick
  intro s hheld hwork
  refine ⟨tickStart s, acts_tickStart hheld, fun p => ?_⟩
  intro x overloaded steps count backoff
  have hdue : s.work.ports.getLsbD p.1 = false := by simp [hwork]
  have hport : (openTick s).port p = x.closed := by
    rw [openTick_port, State.portClosed, hdue]
    rfl
  have hclosed := tickStart_port s p
  rw [hport] at hclosed
  have hnotice : (tickStart s).notice (portSource p) =
      match x.closeCause with
      | none => s.notice (portSource p)
      | some c => some (mergeCause (tickStart s).timeline.count c (s.notice (portSource p))) := by
    have hval : (portSource p).1 = 6 + p.1 := rfl
    rw [tickStart_timeline, openTick_timeline]
    refine ((tickStart_notice s (by omega) (by omega)).trans (openTick_portNotice hdue)).trans ?_
    cases (s.port p).closeCause <;> rfl
  obtain ⟨hclips, hfeeds, hpending⟩ := x.closed_counts
  refine ⟨(congrArg Port.lastClips hclosed).trans hclips, (congrArg Port.lastFeeds hclosed).trans hfeeds,
    (congrArg Port.pending hclosed).trans hpending, fun hnone => ?_, fun v hv => ?_, fun hfine => ?_, fun hsteps => ?_,
    fun hover hguard hstays => ?_⟩
  · rw [Port.closed_kept hnone] at hclosed
    exact Port.settings_of_cleared hclosed
  · rw [Port.closed_applied hv] at hclosed
    exact Port.settings_of_cleared hclosed
  · have hquiet : x.closeCause = none := by
      rw [Port.closeCause_eq]
      obtain hcalm | hoff := hfine
      · exact if_neg hcalm
      · simp [hoff]
    rw [hnotice, hquiet]
  · have hcause : x.closeCause = some .backoff := by
      obtain ⟨hover, hback, hlow⟩ := hsteps
      rw [Port.closeCause_eq, if_pos hover, if_neg (by simp [hback]), if_pos ⟨hback, hlow⟩]
    rw [hnotice, hcause]
  · have hcause : x.closeCause = some .overload := by
      rw [Port.closeCause_eq, if_pos hover, if_neg hguard, if_neg fun h => hstays ⟨hover, h⟩]
    rw [hnotice, hcause]

/-- Settles O22: the port's own part, behind the count that the timeline brings. -/
theorem portSetApplies : Obligations.PortSetApplies := by
  unfold Obligations.PortSetApplies
  intro s p v hheld hdue hpending
  have hports := timelineTick_field State.ports (fun _ _ _ _ => rfl) s
  have hwork := congrArg TickWork.ports (timelineTick_work_rest s)
  dsimp only at hwork
  have hsame (q : PortId) : (timelineTick s).port q = s.port q := by rw [State.port, State.port, hports]
  have hacts : Acts (.portSetApply p) s (portTick (timelineTick s) p) :=
    takePart_acts (f := fun u => portTick (timelineTick u) p) rfl hheld (by rw [State.portSetDue, hdue, hpending]; rfl)
  refine ⟨portTick (timelineTick s) p, hacts, ?_, fun q hq => ?_, portTick_timeline _ p, ?_, fun n hport hclock => ?_, ?_⟩
  · rw [portTick_port_same (by rw [hwork, hdue]), hsame, Port.closed_applied hpending]
    rfl
  · rw [portTick_port_other hq, hsame]
  · rw [portTick_work_eq]
    dsimp only
    rw [hwork]
  · rw [portTick_notice_other hport, timelineTick_notice_other s hclock]
  · have hframe := portTick_frame (timelineTick s) p
    have hticked := timelineTick_frame s
    have h := congrArg (fun u : State => { u with
      ports := s.ports, timeline := s.timeline, work := s.work, notices := s.notices }) hframe
    refine h.trans ?_
    have hall := congrArg (fun u : State => { u with ports := s.ports }) hticked
    exact hall

end Sys2Proof.Proofs.PortUnits
end

section
/-! PROOFS. Cue entries and their bytes (chapter 01, section 11.4): O23, O24. Each reader of section 11.2 is the
inverse of its writer; a payload of 28 bytes is read as an entry exactly where it is that entry's bytes. -/

namespace Sys2Proof.Machine

/-! ### A request's effect beside the link -/

/-- Meeting a request changes the link alone. -/
theorem met_eq_withLink (s : State) (r : Request) : ∃ l, s.met r = { s with link := l } := by
  unfold State.met arrive
  repeat' split
  · exact ⟨s.link, rfl⟩
  · exact ⟨_, rfl⟩
  · exact ⟨_, rfl⟩
  · exact ⟨s.link, rfl⟩

/-- A request completes with what its handler leaves, the link apart. -/
theorem completes_withLink {c : Instr} {s v : State} {r : Request} {handler : List Byte → State → Reply}
    {payload : List Byte} (he : exec c s = .next (s.event (serve handler r))) (h : s.serves r)
    (hreply : handler r.payload (s.met r) = .ok (payload, v)) (hlink : v.link = (s.met r).link) :
    Completes c s r.tag payload { v with link := s.link } :=
  completes_of he h hreply hlink rfl

/-! ### Fields and their bytes -/

theorem byteAt_lt (p : List Byte) (i : Nat) : byteAt p i < 256 := (p.getD i 0).isLt

theorem ofNat_byteAt (p : List Byte) (i : Nat) : BitVec.ofNat 8 (byteAt p i) = p.getD i 0 := by
  rw [byteAt, BitVec.ofNat_toNat, BitVec.setWidth_eq]

theorem word16_lt (p : List Byte) (i : Nat) : word16 p i < 65536 := by
  have hlow := byteAt_lt p i
  have hhigh := byteAt_lt p (i + 1)
  unfold word16
  omega

theorem word32_lt (p : List Byte) (i : Nat) : word32 p i < 4294967296 := by
  have hlow := word16_lt p i
  have hhigh := word16_lt p (i + 2)
  unfold word32
  omega

theorem le8_eq_iff {n : Nat} (hn : n < 256) (p : List Byte) (i : Nat) : le8 n = [p.getD i 0] ↔ n = byteAt p i := by
  rw [le8, List.cons.injEq, BitVec.toNat_eq, BitVec.toNat_ofNat, Nat.mod_eq_of_lt hn]
  exact and_iff_left rfl

theorem le16_eq_iff {n : Nat} (hn : n < 65536) (p : List Byte) (i : Nat) :
    le16 n = [p.getD i 0, p.getD (i + 1) 0] ↔ n = word16 p i := by
  have hlow := byteAt_lt p i
  have hhigh := byteAt_lt p (i + 1)
  simp only [le16, List.cons.injEq, BitVec.toNat_eq, BitVec.toNat_ofNat, and_true]
  change n % 256 = byteAt p i ∧ n / 256 % 256 = byteAt p (i + 1) ↔ _
  unfold word16
  omega

theorem le32_eq_iff {n : Nat} (hn : n < 4294967296) (p : List Byte) (i : Nat) :
    le32 n = [p.getD i 0, p.getD (i + 1) 0, p.getD (i + 2) 0, p.getD (i + 3) 0] ↔ n = word32 p i := by
  have hlow := le16_eq_iff (n := n % 65536) (by omega) p i
  have hhigh := le16_eq_iff (n := n / 65536) (by omega) p (i + 2)
  have hwlow := word16_lt p i
  have hwhigh := word16_lt p (i + 2)
  have hcut : le16 (n % 65536) = le16 n := by
    simp only [le16, List.cons.injEq, BitVec.toNat_eq, BitVec.toNat_ofNat, and_true]
    omega
  rw [hcut] at hlow
  change le16 n ++ le16 (n / 65536) = [p.getD i 0, p.getD (i + 1) 0] ++ [p.getD (i + 2) 0, p.getD (i + 2 + 1) 0] ↔ _
  constructor
  · intro h
    obtain ⟨h1, h2⟩ := List.append_inj h rfl
    have hl := hlow.mp h1
    have hh := hhigh.mp h2
    unfold word32
    omega
  · rintro rfl
    rw [hlow.mpr (by unfold word32; omega), hhigh.mpr (by unfold word32; omega)]

/-- Two bytes read as a signed number: the one number of the range whose two's complement they are. -/
theorem signed_16_eq_iff {w : Nat} (hw : w < 65536) (z : Int) :
    signed 16 w = z ↔ (z % 65536).toNat = w ∧ -32768 ≤ z ∧ z < 32768 := by
  unfold signed
  split <;> omega

theorem signed_32_eq_iff {w : Nat} (hw : w < 4294967296) (z : Int) :
    signed 32 w = z ↔ (z % 4294967296).toNat = w ∧ -2147483648 ≤ z ∧ z < 2147483648 := by
  unfold signed
  split <;> omega

theorem leSigned16_eq_iff {z : Int} (hz : -32768 ≤ z ∧ z < 32768) (p : List Byte) (i : Nat) :
    leSigned16 z = [p.getD i 0, p.getD (i + 1) 0] ↔ signed16 p i = z := by
  rw [leSigned16, le16_eq_iff (by omega), signed16, signed_16_eq_iff (word16_lt p i)]
  exact (and_iff_left hz).symm

theorem leSigned32_eq_iff {z : Int} (hz : -2147483648 ≤ z ∧ z < 2147483648) (p : List Byte) (i : Nat) :
    leSigned32 z = [p.getD i 0, p.getD (i + 1) 0, p.getD (i + 2) 0, p.getD (i + 3) 0] ↔ signed32 p i = z := by
  rw [leSigned32, le32_eq_iff (by omega), signed32, signed_32_eq_iff (word32_lt p i)]
  exact (and_iff_left hz).symm

theorem inRange_iff (lo hi z : Int) : inRange lo hi z = true ↔ lo ≤ z ∧ z ≤ hi := by
  rw [inRange, Bool.and_eq_true, decide_eq_true_eq, decide_eq_true_eq]

/-! ### The readers of section 11.2 undo their writers -/

theorem readClipField_eq_some_iff {n : Nat} {c : Option ClipId} : readClipField n = some c ↔ clipField c = n := by
  by_cases hsilence : n = 0xFFFF
  · subst hsilence
    cases c with
    | none => exact iff_of_true rfl rfl
    | some c =>
      have hc := c.isLt
      exact iff_of_false nofun fun h : c.1 = 0xFFFF => by omega
  · rw [readClipField, if_neg hsilence, readClip, Option.map_eq_some_iff]
    simp only [Option.dite_none_right_eq_some]
    cases c with
    | none => exact iff_of_false (by simp) fun h : 0xFFFF = n => hsilence h.symm
    | some c =>
      have hc := c.isLt
      constructor
      · rintro ⟨_, ⟨_, hread⟩, hsome⟩
        rw [← hsome, ← Option.some_inj.mp hread]
        rfl
      · rintro rfl
        exact ⟨c, ⟨hc, rfl⟩, rfl⟩

theorem readNextKind_eq_some_iff {n : Nat} {k : NextKind} : readNextKind n = some k ↔ k.code = n := by
  constructor
  · intro h
    unfold readNextKind at h
    split at h <;> cases h <;> rfl
  · rintro rfl
    cases k <;> rfl

theorem readFlagAction_eq_some_iff {n : Nat} {a : FlagAction} : readFlagAction n = some a ↔ a.code = n := by
  constructor
  · intro h
    unfold readFlagAction at h
    split at h <;> cases h <;> rfl
  · rintro rfl
    cases a <;> rfl

theorem readFlag_eq_some_iff {n : Nat} {f : FlagId} : readFlag n = some f ↔ f.toNat = n := by
  have hf := f.isLt
  rw [readFlag, Option.ite_none_right_eq_some, Option.some_inj, BitVec.toNat_eq, BitVec.toNat_ofNat]
  omega

theorem readIndex_eq_some_iff {n : Nat} {i : CueIndex} : readIndex n = some i ↔ i.toNat = n := by
  have hi := i.isLt
  rw [readIndex, Option.ite_none_right_eq_some, Option.some_inj, BitVec.toNat_eq, BitVec.toNat_ofNat]
  omega

/-- A target of two bytes, by the far-target option. -/
theorem readTarget_eq_some_iff {far : Bool} {p : List Byte} {i : Nat} {t : Target} :
    readTarget far p i = some t ↔ t.isFar = far ∧ t.field = [p.getD i 0, p.getD (i + 1) 0] := by
  have hlow := (p.getD i 0).isLt
  have hhigh := (p.getD (i + 1) 0).isLt
  cases far with
  | false =>
    rw [readTarget, if_neg Bool.false_ne_true, Option.ite_none_right_eq_some, inRange_iff, Option.some_inj]
    cases t with
    | near d =>
      have hd := BitVec.toInt_lt (x := d)
      have hd' := BitVec.le_toInt d
      rw [Target.field, leSigned16_eq_iff (by omega)]
      simp only [Target.isFar, Target.near.injEq, true_and]
      constructor
      · rintro ⟨⟨hlo, hhi⟩, rfl⟩
        rw [BitVec.toInt_ofInt, Int.bmod_def]
        omega
      · intro h
        rw [h, BitVec.ofInt_toInt]
        exact ⟨by omega, rfl⟩
    | far j => simp [Target.isFar]
  | true =>
    rw [readTarget, if_pos rfl, Option.map_eq_some_iff]
    simp only [readIndex_eq_some_iff]
    cases t with
    | near d => simp [Target.isFar]
    | far j =>
      have hj := j.isLt
      rw [Target.field, le16_eq_iff (by omega)]
      simp [Target.isFar]

/-- The options byte: five bits, each one of the entry's options. -/
theorem CueEntry.options_eq_iff (e : CueEntry) {n : Nat} :
    e.options = n ↔ n < 32 ∧ n.testBit 0 = e.late ∧ n.testBit 1 = e.apply ∧ n.testBit 2 = e.note ∧
      n.testBit 3 = e.target.isFar ∧ n.testBit 4 = e.consume := by
  constructor
  · rintro rfl
    unfold CueEntry.options
    generalize e.late = a, e.apply = b, e.note = c, e.target.isFar = d, e.consume = f
    revert a b c d f
    decide
  · rintro ⟨hn, h0, h1, h2, h3, h4⟩
    rw [CueEntry.options, ← h0, ← h1, ← h2, ← h3, ← h4]
    clear h0 h1 h2 h3 h4
    revert n
    decide

theorem CueEntry.options_lt (e : CueEntry) : e.options < 32 := (e.options_eq_iff.mp rfl).1

/-! ### A whole entry -/

/-- The ranges of R22. -/
def CueEntry.InRange (e : CueEntry) : Prop :=
  -600 ≤ e.level ∧ e.level ≤ 40 ∧ -16000000 ≤ e.freq ∧ e.freq ≤ 16000000 ∧ (e.clip = none → e.length ≠ 0)

theorem Target.field_length (t : Target) : t.field.length = 2 := by
  cases t <;> rfl

theorem CueEntry.bytes_length (e : CueEntry) : e.bytes.length = 28 := by
  have ht := e.target.field_length
  simp [CueEntry.bytes, le8, le16, le32, leSigned16, leSigned32, ht]

theorem clipField_lt (c : Option ClipId) : clipField c < 65536 := by
  cases c with
  | none => simp [clipField]
  | some c => exact c.isLt.trans (by omega)

theorem NextKind.code_lt (k : NextKind) : k.code < 8 := by
  cases k <;> decide

theorem FlagAction.code_lt (a : FlagAction) : a.code < 3 := by
  cases a <;> decide

/-- The fields a payload carries when it is read as an entry. -/
theorem readEntry_eq_some_iff_fields (p : List Byte) (e : CueEntry) :
    readEntry p = some e ↔
      e.InRange ∧ clipField e.clip = word16 p 0 ∧ e.options = byteAt p 2 ∧ e.next.code = byteAt p 3 ∧
        e.start.toNat = word32 p 4 ∧ e.length.toNat = word32 p 8 ∧ signed32 p 12 = e.freq ∧ signed16 p 16 = e.level ∧
        e.target.field = [p.getD 18 0, p.getD 19 0] ∧ e.plays = p.getD 20 0 ∧ e.fadeIn = p.getD 21 0 ∧
        e.fadeOut = p.getD 22 0 ∧ e.testFlag.toNat = byteAt p 23 ∧ e.action.code = byteAt p 24 ∧
        e.actionFlag.toNat = byteAt p 25 ∧ e.markers.toNat = byteAt p 26 ∧ 0 = p.getD 27 0 := by
  have hstart := word32_lt p 4
  have hlength := word32_lt p 8
  have hzero : byteAt p 27 = 0 ↔ 0 = p.getD 27 0 := by
    rw [byteAt, BitVec.toNat_eq]
    exact eq_comm
  simp only [readEntry, Option.bind_eq_bind, Option.bind_eq_some_iff, readClipField_eq_some_iff,
    readNextKind_eq_some_iff, readTarget_eq_some_iff, readFlag_eq_some_iff, readFlagAction_eq_some_iff,
    Option.ite_none_right_eq_some, inRange_iff, CueEntry.InRange, hzero]
  constructor
  · rintro ⟨clip, hclip, kind, hkind, target, ⟨hfar, hfield⟩, test, htest, action, haction, flag, hflag,
      ⟨hoptions, ⟨hlevel, hlevel'⟩, ⟨hfreq, hfreq'⟩, hmarkers, hlast, hsilence⟩, hsome⟩
    obtain rfl := Option.some_inj.mp hsome
    refine ⟨⟨hlevel, hlevel', hfreq, hfreq', fun h hzero => ?_⟩, hclip, ?_, hkind, Nat.mod_eq_of_lt hstart,
      Nat.mod_eq_of_lt hlength, rfl, rfl, hfield, ?_, ?_, ?_, htest, haction, hflag, Nat.mod_eq_of_lt hmarkers, hlast⟩
    · have hone := hsilence h
      have hlen : word32 p 8 % 4294967296 = 0 := congrArg BitVec.toNat hzero
      omega
    · exact (CueEntry.options_eq_iff _).mpr ⟨hoptions, rfl, rfl, rfl, hfar.symm, rfl⟩
    all_goals exact ofNat_byteAt p _
  · rintro ⟨⟨hlevel, hlevel', hfreq, hfreq', hsilence⟩, hclip, hoptions, hkind, hstart, hlength, hf, hl, hfield, hplays,
      hin, hout, htest, haction, hflag, hmarkers, hlast⟩
    obtain ⟨hsmall, hlate, happly, hnote, hfar, hconsume⟩ := (CueEntry.options_eq_iff e).mp hoptions
    refine ⟨e.clip, hclip, e.next, hkind, e.target, ⟨hfar.symm, hfield⟩, e.testFlag, htest, e.action, haction,
      e.actionFlag, hflag, ⟨hsmall, ⟨?_, ?_⟩, ⟨?_, ?_⟩, ?_, hlast, fun h => ?_⟩, ?_⟩
    · rwa [hl]
    · rwa [hl]
    · rwa [hf]
    · rwa [hf]
    · exact hmarkers ▸ e.markers.isLt
    · have hne := BitVec.toNat_ne.mp (hsilence h)
      rw [← hlength]
      exact Nat.pos_of_ne_zero hne
    · rw [hf, hl, hlate, happly, hnote, hconsume, ← hstart, ← hlength, ← hmarkers]
      simp only [ofNat_byteAt, ← hplays, ← hin, ← hout, BitVec.ofNat_toNat, BitVec.setWidth_eq]

/-- The bytes of an entry, field by field. -/
theorem CueEntry.bytes_eq_iff (e : CueEntry) {p : List Byte} (hp : p.length = 28) :
    e.bytes = p ↔
      le16 (clipField e.clip) = [p.getD 0 0, p.getD 1 0] ∧ le8 e.options = [p.getD 2 0] ∧
        le8 e.next.code = [p.getD 3 0] ∧ le32 e.start.toNat = [p.getD 4 0, p.getD 5 0, p.getD 6 0, p.getD 7 0] ∧
        le32 e.length.toNat = [p.getD 8 0, p.getD 9 0, p.getD 10 0, p.getD 11 0] ∧
        leSigned32 e.freq = [p.getD 12 0, p.getD 13 0, p.getD 14 0, p.getD 15 0] ∧
        leSigned16 e.level = [p.getD 16 0, p.getD 17 0] ∧ e.target.field = [p.getD 18 0, p.getD 19 0] ∧
        e.plays = p.getD 20 0 ∧ e.fadeIn = p.getD 21 0 ∧ e.fadeOut = p.getD 22 0 ∧
        le8 e.testFlag.toNat = [p.getD 23 0] ∧ le8 e.action.code = [p.getD 24 0] ∧
        le8 e.actionFlag.toNat = [p.getD 25 0] ∧ le8 e.markers.toNat = [p.getD 26 0] ∧ 0 = p.getD 27 0 := by
  match p, hp with
  | [b0, b1, b2, b3, b4, b5, b6, b7, b8, b9, b10, b11, b12, b13, b14, b15, b16, b17, b18, b19, b20, b21, b22, b23, b24,
      b25, b26, b27], _ =>
    obtain ⟨x, y, hfield⟩ := List.length_eq_two.mp e.target.field_length
    rw [CueEntry.bytes, hfield]
    simp only [le8, le16, le32, leSigned16, leSigned32, List.cons_append, List.nil_append, List.cons.injEq, and_true,
      and_assoc, List.getD_cons_zero, List.getD_cons_succ]

/-- A payload of 28 bytes is read as an entry exactly where it is the bytes of that entry and the entry is in range. -/
theorem readEntry_eq_some_iff {p : List Byte} (hp : p.length = 28) (e : CueEntry) :
    readEntry p = some e ↔ e.InRange ∧ e.bytes = p := by
  rw [readEntry_eq_some_iff_fields, e.bytes_eq_iff hp]
  refine and_congr_right fun ⟨hlevel, hlevel', hfreq, hfreq', _⟩ => ?_
  have hmarkers := e.markers.isLt
  have htest := e.testFlag.isLt
  have hflag := e.actionFlag.isLt
  rw [le16_eq_iff (clipField_lt _), le8_eq_iff (e.options_lt.trans (by omega)),
    le8_eq_iff (e.next.code_lt.trans (by omega)), le32_eq_iff e.start.isLt, le32_eq_iff e.length.isLt,
    leSigned32_eq_iff (by omega), leSigned16_eq_iff (by omega), le8_eq_iff (by omega),
    le8_eq_iff (e.action.code_lt.trans (by omega)), le8_eq_iff (by omega), le8_eq_iff (by omega)]

/-! ### Entries one after another -/

theorem readEntries_flatMap (es : List CueEntry) (h : ∀ e ∈ es, e.InRange) :
    readEntries es.length (es.flatMap CueEntry.bytes) = some es := by
  induction es with
  | nil => rfl
  | cons e es ih =>
    have hread := (readEntry_eq_some_iff e.bytes_length e).mpr ⟨h e List.mem_cons_self, rfl⟩
    have hrest := ih fun x hx => h x (List.mem_cons_of_mem _ hx)
    have hlen : 28 = e.bytes.length := e.bytes_length.symm
    rw [List.flatMap_cons, List.length_cons, readEntries, List.take_left' hlen.symm, List.drop_left' hlen.symm, hread,
      hrest]
    rfl

/-- One entry that cannot be read fails the payload. -/
theorem readEntries_eq_none {n k : Nat} {p : List Byte} (hk : k < n)
    (h : readEntry ((p.drop (28 * k)).take 28) = none) : readEntries n p = none := by
  induction n generalizing k p with
  | zero => omega
  | succ n ih =>
    rw [readEntries]
    cases k with
    | zero =>
      rw [Nat.mul_zero, List.drop_zero] at h
      rw [h]
      rfl
    | succ k =>
      have hrest : readEntries n (p.drop 28) = none := by
        refine ih (k := k) (by omega) ?_
        rwa [List.drop_drop, show 28 + 28 * k = 28 * (k + 1) by omega]
      rw [hrest]
      cases readEntry (p.take 28) <;> rfl

/-! ### CUE PUT (R21, R23) -/

theorem putEntries_cueEntry (i : CueIndex) (es : List CueEntry) (s : State) (hlen : es.length ≤ 4096) (j : CueIndex) :
    (putEntries i es s).cueEntry j = (es[(j - i).toNat]?).getD (s.cueEntry j) := by
  induction es generalizing i s with
  | nil => rfl
  | cons e es ih =>
    rw [List.length_cons] at hlen
    rw [putEntries, ih (i + 1) _ (by omega), State.setCueEntry_cueEntry]
    by_cases hj : j = i
    · subst hj
      have hlast : (j - (j + 1)).toNat = 4095 := by bv_omega
      have hfirst : (j - j).toNat = 0 := by simp
      rw [hlast, hfirst, if_pos rfl, List.getElem?_eq_none (by omega)]
      rfl
    · have hnext : (j - i).toNat = (j - (i + 1)).toNat + 1 := by bv_omega
      rw [if_neg hj, hnext, List.getElem?_cons_succ]

theorem putEntries_frame (i : CueIndex) (es : List CueEntry) (s : State) :
    { putEntries i es s with cue := s.cue } = s := by
  induction es generalizing i s with
  | nil => rfl
  | cons e es ih =>
    have h := congrArg (fun u : State => { u with cue := s.cue }) (ih (i + 1) (s.setCueEntry i e))
    exact h

theorem handleCuePut_eq (s : State) (i0 i1 n z : Byte) (rest : List Byte) (hrest : rest.length = 28 * n.toNat) :
    handleCuePut ([i0, i1, n, z] ++ rest) s =
      if n.toNat < 1 ∨ 16 < n.toNat ∨ z.toNat ≠ 0 then .error .range
      else
        match readIndex (i1 ++ i0).toNat, readEntries n.toNat rest with
        | some i, some es => .done (le8 (s.heldCount i n.toNat)) (putEntries i es s)
        | _, _ => .error .range := by
  have hindex : word16 ([i0, i1, n, z] ++ rest) 0 = (i1 ++ i0).toNat := word16_eq_toNat_append _ 0
  have hsize : ¬ (([i0, i1, n, z] ++ rest).length < 4 ∨
      ([i0, i1, n, z] ++ rest).length ≠ 4 + 28 * byteAt ([i0, i1, n, z] ++ rest) 2) := by
    have hcount : byteAt ([i0, i1, n, z] ++ rest) 2 = n.toNat := rfl
    rw [hcount]
    simp only [List.cons_append, List.nil_append, List.length_cons]
    omega
  rw [handleCuePut, if_neg hsize, hindex]
  rfl

theorem exec_cuePut (tag : Byte) (p : List Byte) (s : State) :
    exec (.cuePut tag p) s = .next (s.event (serve handleCuePut { tag := tag, code := 0x30, payload := p })) := rfl

end Sys2Proof.Machine

namespace Sys2Proof.Proofs.CueEntries

open Sys2Proof Sys2Proof.Machine

/-- Settles O23. -/
theorem cueEntriesRoundTrip : Obligations.CueEntriesRoundTrip := by
  unfold Obligations.CueEntriesRoundTrip
  refine ⟨fun e he => ⟨e.bytes_length, ?_⟩, fun p e hp hread => ?_, rfl⟩
  · exact (readEntry_eq_some_iff e.bytes_length e).mpr ⟨he, rfl⟩
  · exact (readEntry_eq_some_iff hp e).mp hread

/-- Settles O24. -/
theorem cuePutWritesEntries : Obligations.CuePutWritesEntries := by
  unfold Obligations.CuePutWritesEntries
  refine ⟨fun s tag i0 i1 n es => ?_, fun s tag i0 i1 n z rest => ?_⟩
  · intro payload i hindex hcount hone hmany hrange hserves
    have hlen : (es.flatMap CueEntry.bytes).length = 28 * n.toNat := by
      rw [List.length_flatMap, hcount, funext CueEntry.bytes_length, List.map_const', List.sum_replicate, smul_eq_mul,
        Nat.mul_comm]
    obtain ⟨l, hmet⟩ := met_eq_withLink s { tag := tag, code := 0x30, payload := payload }
    have hreply := handleCuePut_eq (s.met { tag := tag, code := 0x30, payload := payload }) i0 i1 n 0 _ hlen
    have hread : readIndex (i1 ++ i0).toNat = some i :=
      readIndex_eq_some_iff.mpr (by rw [BitVec.toNat_setWidth, Nat.mod_eq_of_lt hindex])
    have hentries := readEntries_flatMap es hrange
    rw [← hcount] at hentries
    rw [if_neg (by simp; omega), hread, hentries] at hreply
    obtain ⟨hlink, _⟩ := aside_eq_iff.mp (putEntries_aside i es (s.met { tag := tag, code := 0x30, payload := payload }))
    refine ⟨_, completes_withLink (exec_cuePut tag payload s) hserves (v := putEntries i es (s.met _)) ?_ hlink,
      fun j => ?_, ?_⟩
    · rw [hreply, hmet]
      rfl
    · have hj := putEntries_cueEntry i es (s.met { tag := tag, code := 0x30, payload := payload }) (by omega) j
      rw [State.met_cueEntry] at hj
      exact hj
    · have hframe := congrArg (fun u : State => { u with link := s.link })
        (putEntries_frame i es (s.met { tag := tag, code := 0x30, payload := payload }))
      rw [hmet] at hframe ⊢
      exact hframe
  · intro payload hrest hbad hserves
    refine refuses_of (exec_cuePut tag payload s) hserves
      ((handleCuePut_eq (s.met { tag := tag, code := 0x30, payload := payload }) i0 i1 n z rest hrest).trans ?_)
    have hindex : ¬ (i1 ++ i0).toNat < 4096 → readIndex (i1 ++ i0).toNat = none := fun h => if_neg h
    split
    · rfl
    next hfit =>
      obtain hbig | hn | hn | hz | ⟨k, hk, hentry⟩ := hbad
      · rw [hindex (by omega)]
      · exact absurd (Or.inl (by rw [hn]; decide)) hfit
      · exact absurd (Or.inr (Or.inl hn)) hfit
      · exact absurd (Or.inr (Or.inr (BitVec.toNat_ne.mp hz))) hfit
      · rw [readEntries_eq_none hk hentry]
        cases readIndex (i1 ++ i0).toNat <;> rfl

end Sys2Proof.Proofs.CueEntries
end

section
/-! PROOFS. What bank service does to slots and requests (R61 to R63, R139 to R142): a slot's state moves to QUEUED or
READING, a request stays until it is read or withdrawn, and one that joins is a slot's. -/

namespace Sys2Proof.Machine

/-! ### Slots and requests served -/

/-- Slot `y` is slot `x`, in its state or as QUEUED or READING (R61, R142). -/
def Slot.Served (x y : Slot) : Prop := ∃ st, y = { x with state := st } ∧ (st = x.state ∨ st = .queued ∨ st = .reading)

theorem Slot.Served.refl (x : Slot) : Slot.Served x x := ⟨x.state, rfl, .inl rfl⟩

theorem Slot.Served.trans {x y z : Slot} (h : Slot.Served x y) (k : Slot.Served y z) : Slot.Served x z := by
  obtain ⟨a, rfl, ha⟩ := h
  obtain ⟨b, rfl, hb⟩ := k
  refine ⟨b, rfl, ?_⟩
  obtain rfl | hb := hb
  · exact ha
  · exact .inr hb

theorem Slot.Served.sameBut {x y : Slot} (h : Slot.Served x y) : Slot.SameBut x y := by
  obtain ⟨_, rfl, _⟩ := h
  rfl

theorem Slot.Served.id_eq {x y : Slot} (h : Slot.Served x y) : y.id = x.id := by
  obtain ⟨_, rfl, _⟩ := h
  rfl

theorem slotsServed_refl (xs : List Slot) : List.Forall₂ Slot.Served xs xs := by
  induction xs with
  | nil => exact .nil
  | cons x xs ih => exact .cons (Slot.Served.refl x) ih

theorem slotsServed_trans {xs ys zs : List Slot} (h : List.Forall₂ Slot.Served xs ys)
    (k : List.Forall₂ Slot.Served ys zs) : List.Forall₂ Slot.Served xs zs := by
  induction h generalizing zs with
  | nil => exact k
  | cons hxy _ ih =>
    cases k with
    | cons hyz hrest => exact .cons (hxy.trans hyz) (ih hrest)

theorem slotsServed_append {xs ys zs : List Slot} (h : List.Forall₂ Slot.Served (xs ++ ys) zs) :
    ∃ a b, zs = a ++ b ∧ List.Forall₂ Slot.Served xs a ∧ List.Forall₂ Slot.Served ys b := by
  induction xs generalizing zs with
  | nil => exact ⟨[], zs, rfl, .nil, h⟩
  | cons x xs ih =>
    cases h with
    | cons hfirst hrest =>
      obtain ⟨a, b, rfl, ha, hb⟩ := ih hrest
      exact ⟨_ :: a, b, rfl, .cons hfirst ha, hb⟩

theorem slotsServed_ids {xs ys : List Slot} (h : List.Forall₂ Slot.Served xs ys) : ys.map Slot.id = xs.map Slot.id := by
  induction h with
  | nil => rfl
  | cons hxy _ ih => rw [List.map_cons, List.map_cons, ih, hxy.id_eq]

theorem slotsServed_sameBut {xs ys : List Slot} (h : List.Forall₂ Slot.Served xs ys) :
    List.Forall₂ Slot.SameBut xs ys :=
  h.imp fun _ _ => Slot.Served.sameBut

theorem Track.modSlot_served (tr : Track) (id : Nat) {st : SlotState} (h : st = .queued ∨ st = .reading) :
    List.Forall₂ Slot.Served tr.ring (tr.modSlot id fun y => { y with state := st }).ring := by
  refine List.forall₂_map_right_iff.mpr (List.forall₂_same.mpr fun x _ => ?_)
  split
  · exact ⟨st, rfl, .inr h⟩
  · exact Slot.Served.refl x

/-- A slot of a ring asks for the block of a request. -/
def State.asks (s : State) (f : FetchRequest) : Prop := f.slot ∈ (s.track f.track).ring.map Slot.id

/-- What serving the banks does to slots and requests from `s` to `u`, the requests in `gone` being withdrawn: every
slot stays, a request stays until it is read, a read in flight goes on, and a request that joins is that of a slot. -/
structure Serving (gone : BankId → Nat → Prop) (s u : State) : Prop where
  slots : ∀ t, List.Forall₂ Slot.Served (s.track t).ring (u.track t).ring
  stays : ∀ b f, f ∈ (s.bank b).fetch → ¬ gone b f.slot → f ∈ (u.bank b).fetch ∨ (u.bank b).inFlight = some f
  flight : ∀ b f, (s.bank b).inFlight = some f → (u.bank b).inFlight = some f
  joins : ∀ b f, f ∈ (u.bank b).fetch → (f ∈ (s.bank b).fetch ∧ ¬ gone b f.slot) ∨ s.asks f

/-- No request is withdrawn. -/
def noneGone (_ : BankId) (_ : Nat) : Prop := False

namespace Serving

theorem of_same {s u : State} (htracks : u.tracks = s.tracks) (hbanks : u.banks = s.banks) : Serving noneGone s u := by
  have htrack (t : TrackId) : u.track t = s.track t := by rw [State.track, htracks, State.track]
  have hbank (b : BankId) : u.bank b = s.bank b := by rw [State.bank, hbanks, State.bank]
  refine ⟨fun t => ?_, fun b f hf _ => ?_, fun b f hf => ?_, fun b f hf => ?_⟩
  · rw [htrack]
    exact slotsServed_refl _
  · rw [hbank]
    exact .inl hf
  · rw [hbank, hf]
  · rw [hbank] at hf
    exact .inl ⟨hf, id⟩

theorem refl (s : State) : Serving noneGone s s := of_same rfl rfl

theorem asks_of {gone : BankId → Nat → Prop} {s u : State} (h : Serving gone s u) {f : FetchRequest}
    (hf : u.asks f) : s.asks f := by
  rwa [State.asks, slotsServed_ids (h.slots f.track)] at hf

theorem trans {gone left : BankId → Nat → Prop} {s u v : State} (h : Serving gone s u) (k : Serving left u v) :
    Serving (fun b n => gone b n ∨ left b n) s v where
  slots t := slotsServed_trans (h.slots t) (k.slots t)
  stays b f hf hkept := by
    obtain hin | hread := h.stays b f hf fun hgone => hkept (.inl hgone)
    · exact k.stays b f hin fun hleft => hkept (.inr hleft)
    · exact .inr (k.flight b f hread)
  flight b f hf := k.flight b f (h.flight b f hf)
  joins b f hf := by
    obtain ⟨hin, hleft⟩ | hasks := k.joins b f hf
    · obtain ⟨hold, hgone⟩ | hasks := h.joins b f hin
      · exact .inl ⟨hold, fun hboth => hboth.elim hgone hleft⟩
      · exact .inr hasks
    · exact .inr (h.asks_of hasks)

theorem of_iff {gone left : BankId → Nat → Prop} {s u : State} (h : Serving gone s u)
    (heq : ∀ b n, gone b n ↔ left b n) : Serving left s u := by
  rwa [show left = gone from funext fun b => funext fun n => propext (heq b n).symm]

/-- Serving goes on without a withdrawal. -/
theorem next {gone : BankId → Nat → Prop} {s u v : State} (h : Serving gone s u) (k : Serving noneGone u v) :
    Serving gone s v :=
  (h.trans k).of_iff fun _ _ => or_iff_left id

theorem setBank {gone : BankId → Nat → Prop} (s : State) (b : BankId) (k : Bank)
    (hstays : ∀ f ∈ (s.bank b).fetch, ¬ gone b f.slot → f ∈ k.fetch ∨ k.inFlight = some f)
    (hflight : ∀ f, (s.bank b).inFlight = some f → k.inFlight = some f)
    (hjoins : ∀ f ∈ k.fetch, (f ∈ (s.bank b).fetch ∧ ¬ gone b f.slot) ∨ s.asks f)
    (hothers : ∀ d n, d ≠ b → ¬ gone d n) : Serving gone s (s.setBank b k) := by
  refine ⟨fun t => slotsServed_refl _, fun d f hf hkept => ?_, fun d f hf => ?_, fun d f hf => ?_⟩
  all_goals rw [State.setBank_bank] at *
  · split
    next heq =>
      subst heq
      exact hstays f hf hkept
    next hne => exact .inl hf
  · split
    next heq =>
      subst heq
      exact hflight f hf
    next hne => exact hf
  · split at hf
    next heq =>
      subst heq
      exact hjoins f hf
    next hne => exact .inl ⟨hf, hothers d f.slot (Ne.symm hne)⟩

/-- A bank whose fetch queue and read in flight stay. -/
theorem setOp (s : State) (b : BankId) (k : Bank) (hfetch : k.fetch = (s.bank b).fetch)
    (hflight : k.inFlight = (s.bank b).inFlight) : Serving noneGone s (s.setBank b k) :=
  setBank s b k (fun _ hf _ => .inl (hfetch ▸ hf)) (fun _ hf => hflight ▸ hf) (fun _ hf => .inl ⟨hfetch ▸ hf, id⟩)
    fun _ _ _ => id

theorem modSlot (s : State) (t : TrackId) (id : Nat) {st : SlotState} (h : st = .queued ∨ st = .reading) :
    Serving noneGone s (s.modTrack t fun tr => tr.modSlot id fun y => { y with state := st }) := by
  refine ⟨fun k => ?_, fun _ _ hf _ => .inl hf, fun _ _ hf => hf, fun b f hf => .inl ⟨hf, fun h => h⟩⟩
  rw [State.modTrack_track]
  split
  next heq =>
    subst heq
    exact Track.modSlot_served _ id h
  next => exact slotsServed_refl _

theorem raise (s : State) (n : SourceId) (c : Cause) : Serving noneGone s (s.raise n c) := of_same rfl rfl

end Serving

/-! ### The operations of bank service -/

theorem suspendReact_serving (b : BankId) (s : State) : Serving noneGone s (suspendReact b s) := by
  unfold suspendReact
  dsimp only
  split
  · exact Serving.refl s
  · split
    · split
      · exact Serving.setOp s b _ rfl rfl
      · split
        · exact Serving.refl s
        · refine Serving.next ?_ (Serving.raise _ _ _)
          exact Serving.setOp s b _ rfl rfl
    · exact Serving.refl s

theorem joinFetch_serving (b : BankId) (r : FetchRequest) (s : State) (hasks : s.asks r) :
    Serving noneGone s (joinFetch b r s) := by
  refine Serving.next (Serving.next (Serving.setBank s b _ ?_ ?_ ?_ fun _ _ _ => id) (Serving.modSlot _ _ _ (.inl rfl)))
    (suspendReact_serving b _)
  · exact fun f hf _ => .inl (List.mem_append_left _ hf)
  · exact fun f hf => hf
  · intro f hf
    obtain hf | hf := List.mem_append.mp hf
    · exact .inl ⟨hf, id⟩
    · exact .inr (List.mem_singleton.mp hf ▸ hasks)

theorem asks_of_wanting {s : State} {b : BankId} {r : FetchRequest} (h : r ∈ s.wanting b) : s.asks r := by
  obtain ⟨t, _, hr⟩ := List.mem_flatMap.mp h
  obtain ⟨x, hx, hreq⟩ := List.mem_filterMap.mp hr
  obtain ⟨hq, _⟩ := Option.filter_eq_some_iff.mp hreq
  obtain ⟨c, _, rfl⟩ := Option.map_eq_some_iff.mp hq
  exact List.mem_map.mpr ⟨x, List.mem_of_mem_filter hx, rfl⟩

theorem offerPlaces_serving (b : BankId) (n : Nat) (s : State) : Serving noneGone s (offerPlaces b n s) := by
  induction n generalizing s with
  | zero => exact Serving.refl s
  | succ n ih =>
    rw [offerPlaces]
    split
    · split
      · exact Serving.refl s
      next r hr => exact (joinFetch_serving b r s (asks_of_wanting (leastBy_mem _ _ _ hr))).next (ih _)
    · exact Serving.refl s

theorem startRead_serving (b : BankId) (s : State) (hfree : (s.bank b).inFlight = none) :
    Serving noneGone s (startRead b s) := by
  unfold startRead
  split
  · exact Serving.refl s
  next r hr =>
    refine Serving.next (Serving.next (Serving.setBank s b _ ?_ ?_ ?_ fun _ _ _ => id)
      (Serving.modSlot _ _ _ (.inr rfl))) (offerPlaces_serving b _ _)
    · intro f hf _
      by_cases heq : f = r
      · exact .inr (congrArg some heq.symm)
      · exact .inl ((List.mem_erase_of_ne heq).mpr hf)
    · intro f hf
      rw [hfree] at hf
      cases hf
    · exact fun f hf => .inl ⟨List.mem_of_mem_erase hf, id⟩

theorem startStore_serving (b : BankId) (s : State) : Serving noneGone s (startStore b s) := by
  unfold startStore
  dsimp only
  split
  · exact Serving.setOp s b _ rfl rfl
  · split
    · split
      · exact Serving.refl s
      next n _ =>
        refine Serving.next (Serving.of_same (u := s.setSector b n .erasing) rfl rfl) ?_
        exact Serving.setOp _ b _ rfl rfl
    · exact Serving.refl s

theorem bankSettle_serving (b : BankId) (s : State) : Serving noneGone s (bankSettle b s) := by
  unfold bankSettle
  dsimp only
  split
  · exact Serving.refl s
  next hidle =>
    have hfree : (s.bank b).inFlight = none := by
      cases h : (s.bank b).inFlight with
      | none => rfl
      | some f => simp [h] at hidle
    split
    · split
      · exact startStore_serving b s
      · exact startRead_serving b s hfree
    · split
      · split
        · exact Serving.setOp s b _ rfl rfl
        · exact startRead_serving b s hfree
      · exact Serving.refl s

/-! ### Withdrawals (R63, R151) -/

theorem withdrawFrom_serving (dead : List Nat) (s : State) (b : BankId) :
    Serving (fun d n => d = b ∧ n ∈ dead) s (withdrawFrom dead s b) := by
  unfold withdrawFrom
  split
  · refine Serving.next (Serving.next (Serving.setBank s b _ ?_ ?_ ?_ ?_) (offerPlaces_serving b _ _))
      (bankSettle_serving b _)
    · exact fun f hf hkept => .inl (List.mem_filter.mpr ⟨hf, by simpa using hkept⟩)
    · exact fun f hf => hf
    · intro f hf
      obtain ⟨hin, hlive⟩ := List.mem_filter.mp hf
      exact .inl ⟨hin, by simpa using hlive⟩
    · exact fun d n hne h => hne h.1
  next hnone =>
    refine ⟨fun t => slotsServed_refl _, fun d f hf _ => .inl hf, fun d f hf => hf, fun d f hf => .inl ⟨hf, ?_⟩⟩
    rintro ⟨rfl, hdead⟩
    exact hnone (List.any_eq_true.mpr ⟨f, hf, List.contains_iff_mem.mpr hdead⟩)

theorem withdrawAllFrom_serving (dead : List Nat) (bs : List BankId) (s : State) :
    Serving (fun d n => d ∈ bs ∧ n ∈ dead) s (forEach bs (withdrawFrom dead) s) := by
  induction bs generalizing s with
  | nil => exact (Serving.refl s).of_iff fun b n => by simp [noneGone]
  | cons b bs ih =>
    refine ((withdrawFrom_serving dead s b).trans (ih _)).of_iff fun d n => ?_
    rw [List.mem_cons, or_and_right]

/-- The slots of `dead` leave the ring, and their requests the fetch queues. -/
theorem dropSlots_serving (t : TrackId) (dead : List Nat) (s : State) :
    Serving (fun _ n => n ∈ dead) (s.modTrack t fun tr => { tr with ring := tr.ring.filter fun x => !dead.contains x.id })
      (dropSlots t dead s) :=
  (withdrawAllFrom_serving dead allFour _).of_iff fun d _ => and_iff_right (List.mem_finRange d)

/-! ### The lookahead's own slots (R61, R64) -/

/-- What the walk of track `t` does to slots and requests: its ring keeps its slots and gains new ones behind them, and
a request that joins is that of a slot. -/
structure Fetching (t : TrackId) (s u : State) : Prop where
  others : ∀ k, k ≠ t → List.Forall₂ Slot.Served (s.track k).ring (u.track k).ring
  own : ∃ kept made, (u.track t).ring = kept ++ made ∧ List.Forall₂ Slot.Served (s.track t).ring kept ∧
    ∀ y ∈ made, s.slotSeq ≤ y.id
  seq : s.slotSeq ≤ u.slotSeq
  stays : ∀ b f, f ∈ (s.bank b).fetch → f ∈ (u.bank b).fetch ∨ (u.bank b).inFlight = some f
  flight : ∀ b f, (s.bank b).inFlight = some f → (u.bank b).inFlight = some f
  joins : ∀ b f, f ∈ (u.bank b).fetch →
    f ∈ (s.bank b).fetch ∨ s.asks f ∨ (f.track = t ∧ s.slotSeq ≤ f.slot)

namespace Fetching

theorem of_serving {t : TrackId} {s u : State} (h : Serving noneGone s u) (hseq : u.slotSeq = s.slotSeq) :
    Fetching t s u where
  others k _ := h.slots k
  own := ⟨(u.track t).ring, [], (List.append_nil _).symm, h.slots t, fun _ hy => absurd hy List.not_mem_nil⟩
  seq := hseq.ge
  stays b f hf := h.stays b f hf id
  flight := h.flight
  joins b f hf := (h.joins b f hf).imp And.left .inl

theorem asks_of {t : TrackId} {s u : State} (h : Fetching t s u) {f : FetchRequest} (hf : u.asks f) :
    s.asks f ∨ (f.track = t ∧ s.slotSeq ≤ f.slot) := by
  obtain ⟨kept, made, hring, hkept, hmade⟩ := h.own
  by_cases ht : f.track = t
  · rw [State.asks, ht, hring, List.map_append, List.mem_append, slotsServed_ids hkept] at hf
    obtain hf | hf := hf
    · exact .inl (by rwa [State.asks, ht])
    · obtain ⟨y, hy, heq⟩ := List.mem_map.mp hf
      exact .inr ⟨ht, heq ▸ hmade y hy⟩
  · rw [State.asks, slotsServed_ids (h.others _ ht)] at hf
    exact .inl hf

theorem refl (t : TrackId) (s : State) : Fetching t s s := of_serving (Serving.refl s) rfl

theorem trans {t : TrackId} {s u v : State} (h : Fetching t s u) (k : Fetching t u v) : Fetching t s v where
  others j hj := slotsServed_trans (h.others j hj) (k.others j hj)
  own := by
    obtain ⟨kept, made, hring, hkept, hmade⟩ := h.own
    obtain ⟨kept', made', hring', hkept', hmade'⟩ := k.own
    rw [hring] at hkept'
    obtain ⟨a, b, rfl, ha, hb⟩ := slotsServed_append hkept'
    refine ⟨a, b ++ made', by rw [hring', List.append_assoc], slotsServed_trans hkept ha, fun y hy => ?_⟩
    obtain hy | hy := List.mem_append.mp hy
    · have hid := List.mem_map_of_mem (f := Slot.id) hy
      rw [slotsServed_ids hb] at hid
      obtain ⟨z, hz, heq⟩ := List.mem_map.mp hid
      exact heq ▸ hmade z hz
    · exact h.seq.trans (hmade' y hy)
  seq := h.seq.trans k.seq
  stays b f hf := by
    obtain hin | hread := h.stays b f hf
    · exact k.stays b f hin
    · exact .inr (k.flight b f hread)
  flight b f hf := k.flight b f (h.flight b f hf)
  joins b f hf := by
    obtain hin | hasks | ⟨ht, hseq⟩ := k.joins b f hf
    · exact h.joins b f hin
    · exact .inr (h.asks_of hasks)
    · exact .inr (.inr ⟨ht, h.seq.trans hseq⟩)

/-- A change of a track that leaves its ring. -/
theorem setTrack (t : TrackId) (s : State) {tr : Track} (hring : tr.ring = (s.track t).ring) :
    Fetching t s (s.setTrack t tr) := by
  refine ⟨fun k hk => ?_, ⟨tr.ring, [], ?_, ?_, fun _ hy => absurd hy List.not_mem_nil⟩, le_rfl, fun b f hf => .inl hf,
    fun b f hf => hf, fun b f hf => .inl hf⟩
  · rw [State.setTrack_track_other _ _ _ _ hk.symm]
    exact slotsServed_refl _
  · rw [State.setTrack_track_same, List.append_nil]
  · rw [hring]
    exact slotsServed_refl _

theorem raise (t : TrackId) (s : State) (n : SourceId) (c : Cause) : Fetching t s (s.raise n c) :=
  of_serving (Serving.raise s n c) rfl

end Fetching

/-- Every bank service of the state leaves the slot numbers as they stand. -/
theorem bankSettle_slotSeq (b : BankId) (s : State) : (bankSettle b s).slotSeq = s.slotSeq :=
  (bankSettle_work b s).slotSeq

/-- The ring with a new slot, before it asks for its block. -/
def State.pushSlot (s : State) (t : TrackId) (x : Slot) : State :=
  { s.modTrack t (fun tr => { tr with ring := tr.ring ++ [x] }) with slotSeq := s.slotSeq + 1 }

theorem pushSlot_fetching (t : TrackId) {x : Slot} (s : State) (hx : x.id = s.slotSeq) :
    Fetching t s (s.pushSlot t x) := by
  have hown : (s.pushSlot t x).track t = { s.track t with ring := (s.track t).ring ++ [x] } :=
    State.setTrack_track_same s t _
  refine ⟨fun k hk => ?_, ⟨(s.track t).ring, [x], ?_, slotsServed_refl _, ?_⟩, Nat.le_succ _, fun b f hf => .inl hf,
    fun b f hf => hf, fun b f hf => .inl hf⟩
  · have hother : (s.pushSlot t x).track k = s.track k := State.setTrack_track_other s t k _ hk.symm
    rw [hother]
    exact slotsServed_refl _
  · rw [hown]
  · intro y hy
    rw [List.mem_singleton.mp hy, hx]

/-- A slot's request joins the fetch queue of its bank, where that has a place, and the bank goes on. -/
theorem addSlot_serving (t : TrackId) {x : Slot} (s : State) : Serving noneGone (s.pushSlot t x) (addSlot t x s) := by
  unfold addSlot
  dsimp only
  cases hreq : x.request t with
  | none => exact Serving.refl _
  | some r =>
    dsimp only
    split
    · refine (joinFetch_serving _ r (s.pushSlot t x) ?_).next (bankSettle_serving _ _)
      obtain ⟨c, _, rfl⟩ := Option.map_eq_some_iff.mp hreq
      have hown : (s.pushSlot t x).track t = { s.track t with ring := (s.track t).ring ++ [x] } :=
        State.setTrack_track_same s t _
      rw [State.asks, hown]
      exact List.mem_map.mpr ⟨x, List.mem_append_right _ (List.mem_singleton_self x), rfl⟩
    · exact Serving.refl _

theorem addSlot_slotSeq (t : TrackId) (x : Slot) (s : State) : (addSlot t x s).slotSeq = s.slotSeq + 1 := by
  unfold addSlot
  dsimp only
  split
  · rfl
  · split
    · exact (bankSettle_work _ _).slotSeq.trans (joinFetch_work _ _ _).slotSeq
    · rfl

theorem addSlot_fetching (t : TrackId) {x : Slot} (s : State) (hx : x.id = s.slotSeq) :
    Fetching t s (addSlot t x s) :=
  (pushSlot_fetching t s hx).trans (Fetching.of_serving (addSlot_serving t s) (addSlot_slotSeq t x s))

theorem Copy.slot_id (c : Copy) (id k : Nat) (gated : Bool) : (c.slot id k gated).id = id := by
  unfold Copy.slot
  split <;> rfl

theorem Track.walkOn_ring (tr : Track) (c : Copy) : (tr.walkOn c).ring = tr.ring := by
  rw [tr.walkOn_eq]

theorem Track.endOfPlay_ring (tr : Track) (c : Copy) : (tr.endOfPlay c).ring = tr.ring := by
  unfold Track.endOfPlay
  dsimp only
  split
  · rfl
  · split
    · rfl
    · rw [Track.walkOn_ring]

theorem walkStep_fetching {t : TrackId} {s u : State} (h : walkStep t s = some u) : Fetching t s u := by
  simp only [walkStep] at h
  split at h
  case h_1 | h_2 | h_3 | h_4 => cases h
  case h_5 i trailing hphase =>
    split at h
    · cases h
      exact Fetching.setTrack t s rfl
    · cases h
  case h_6 k hphase =>
    split at h
    · cases h
    · split at h
      · cases h
        exact Fetching.setTrack t s (Track.endOfPlay_ring _ _)
      · split at h
        · cases h
          refine Fetching.trans ?_ (addSlot_fetching t _ ?_)
          · exact Fetching.setTrack t s rfl
          · exact Copy.slot_id _ _ _ _
        · cases h
  case h_7 hphase =>
    split at h
    · cases h
    · split at h
      · cases h
        exact Fetching.setTrack t s rfl
      · cases h
  case h_8 hphase =>
    split at h
    · cases h
    · split at h
      · cases h
        exact addSlot_fetching t s (Copy.slot_id _ _ _ _)
      · cases h

theorem walkLoop_fetching (t : TrackId) (n : Nat) (s : State) : Fetching t s (walkLoop t n s) := by
  induction n generalizing s with
  | zero => exact Fetching.refl t s
  | succ n ih =>
    rw [walkLoop]
    split
    · exact Fetching.refl t s
    next u hu => exact (walkStep_fetching hu).trans (ih u)

theorem checkPriming_fetching (t : TrackId) (s : State) : Fetching t s (checkPriming t s) := by
  unfold checkPriming
  dsimp only
  split
  · split
    · refine Fetching.trans ?_ (Fetching.raise t _ _ _)
      exact Fetching.setTrack t s rfl
    · exact Fetching.setTrack t s rfl
  · exact Fetching.refl t s

theorem walk_fetching (t : TrackId) (s : State) : Fetching t s (walk t s) :=
  (walkLoop_fetching t _ s).trans (checkPriming_fetching t _)

end Sys2Proof.Machine
end

section
/-! PROOFS. Copies and the slots made from them (chapter 03, R3, R57 to R69): O25. -/

namespace Sys2Proof.Machine

/-! ### Validation (R3, R58) -/

theorem validate_silence {s : State} {e : CueEntry} (h : e.clip = none) : s.validate e = (.good, e.length.toNat) := by
  rw [State.validate, h]

/-- The blocks a play of an entry takes of its clip (R3). -/
def CueEntry.blocks (e : CueEntry) (r : ClipRecord) : Nat :=
  if e.length = 0 then r.blocks - e.start.toNat else e.length.toNat

theorem validate_clip {s : State} {e : CueEntry} {k : ClipId} (h : e.clip = some k) :
    s.validate e =
      if (s.clip k).state ≠ .ready then (.badClip, 0)
      else if e.start.toNat < (s.clip k).blocks ∧
          (e.length = 0 ∨ e.start.toNat + e.length.toNat ≤ (s.clip k).blocks) then
        (.good, e.blocks (s.clip k))
      else (.badRange, 0) := by
  rw [State.validate, h]
  dsimp only
  split
  · rfl
  · rw [CueEntry.blocks]
    by_cases hzero : e.length = 0
    · simp only [hzero, if_true, true_or, and_true]
      by_cases hstart : e.start.toNat < (s.clip k).blocks
      · rw [if_pos hstart, if_neg]
        simp only [Bool.or_eq_true, decide_eq_true_eq]
        omega
      · rw [if_neg hstart, if_pos]
        simp only [Bool.or_eq_true, decide_eq_true_eq]
        omega
    · simp only [hzero, if_false, false_or]
      by_cases hfits : e.start.toNat < (s.clip k).blocks ∧ e.start.toNat + e.length.toNat ≤ (s.clip k).blocks
      · rw [if_pos hfits, if_neg]
        simp only [Bool.or_eq_true, decide_eq_true_eq]
        omega
      · rw [if_neg hfits, if_pos]
        simp only [Bool.or_eq_true, decide_eq_true_eq]
        omega

/-! ### The slot a walk makes (R59, R61) -/

theorem Copy.slot_of_silence {c : Copy} (h : c.entry.clip = none) (id k : Nat) (gated : Bool) :
    c.slot id k gated =
      { id := id, clip := none, block := 0, path := c.path, state := .filled, data := [], gated := gated } := by
  rw [Copy.slot, h]

theorem Copy.slot_of_clip {c : Copy} {i : ClipId} (h : c.entry.clip = some i) (id k : Nat) (gated : Bool) :
    c.slot id k gated =
      { id := id, clip := some i, block := c.entry.start.toNat + k, path := c.path, state := .wanted, data := []
        gated := gated } := by
  rw [Copy.slot, h]

/-- The ring behind a slot that joins it: the slots before it, and the slot itself at the back. -/
theorem addSlot_ring (t : TrackId) (x : Slot) (s : State) :
    ∃ kept y, ((addSlot t x s).track t).ring = kept ++ [y] ∧ List.Forall₂ Slot.Served (s.track t).ring kept ∧
      Slot.Served x y := by
  have hserved := (addSlot_serving t (x := x) s).slots t
  have hown : (s.pushSlot t x).track t = { s.track t with ring := (s.track t).ring ++ [x] } :=
    State.setTrack_track_same s t _
  rw [hown] at hserved
  obtain ⟨kept, last, hring, hkept, hlast⟩ := slotsServed_append hserved
  cases hlast with
  | cons hxy hnil =>
    cases hnil
    exact ⟨kept, _, hring, hkept, hxy⟩

/-- A SILENCE slot asks for no read. -/
theorem addSlot_silent (t : TrackId) {x : Slot} (s : State) (h : x.clip = none) : addSlot t x s = s.pushSlot t x := by
  have hreq : x.request t = none := by rw [Slot.request, h]; rfl
  unfold addSlot
  simp only [hreq]
  rfl

theorem addSlot_sameProgram (t : TrackId) (x : Slot) (s : State) :
    ((addSlot t x s).track t).queue = (s.track t).queue ∧ ((addSlot t x s).track t).walk = (s.track t).walk := by
  obtain ⟨hqueue, hwalk, _⟩ := addSlot_program t x s
  exact ⟨hqueue, hwalk⟩

/-- What one step of the walk makes of a copy's block: a new slot behind the others. -/
structure MakesSlot (s : State) (t : TrackId) (c : Copy) (k : Nat) (phase : WalkPhase) (u : State) : Prop where
  queue : (u.track t).queue = (s.track t).queue
  walk : (u.track t).walk = { (s.track t).walk with phase := phase }
  ring : ∃ kept y, (u.track t).ring = kept ++ [y] ∧ List.Forall₂ Slot.SameBut (s.track t).ring kept ∧
    y.id = s.slotSeq ∧ y.path = c.path ∧ (c.entry.clip = none → y.clip = none ∧ y.block = 0 ∧ y.state = .filled) ∧
    ∀ i, c.entry.clip = some i → y.clip = some i ∧ y.block = c.entry.start.toNat + k ∧
      (y.state = .wanted ∨ y.state = .queued ∨ y.state = .reading)

theorem addSlot_makes {s v : State} {t : TrackId} {c : Copy} {k : Nat} {phase : WalkPhase} (gated : Bool)
    (hqueue : (v.track t).queue = (s.track t).queue) (hring : (v.track t).ring = (s.track t).ring)
    (hwalk : (v.track t).walk = { (s.track t).walk with phase := phase }) :
    MakesSlot s t c k phase (addSlot t (c.slot s.slotSeq k gated) v) := by
  obtain ⟨hsameq, hsamew⟩ := addSlot_sameProgram t (c.slot s.slotSeq k gated) v
  obtain ⟨kept, y, hnew, hkept, hy⟩ := addSlot_ring t (c.slot s.slotSeq k gated) v
  refine ⟨hsameq.trans hqueue, hsamew.trans hwalk, kept, y, hnew, hring ▸ slotsServed_sameBut hkept, ?_⟩
  cases hclip : c.entry.clip with
  | none =>
    have hslot := Copy.slot_of_silence hclip s.slotSeq k gated
    have hsilent := addSlot_silent t v (x := c.slot s.slotSeq k gated) (by rw [hslot])
    have hlast : y = c.slot s.slotSeq k gated := by
      have hown : (v.pushSlot t (c.slot s.slotSeq k gated)).track t =
          { v.track t with ring := (v.track t).ring ++ [c.slot s.slotSeq k gated] } := State.setTrack_track_same v t _
      rw [hsilent, hown] at hnew
      exact (List.append_inj' hnew rfl).2 |> fun h => (List.cons.inj h).1.symm
    rw [hlast, hslot]
    refine ⟨rfl, rfl, fun _ => ⟨rfl, rfl, rfl⟩, fun i hi => ?_⟩
    cases hi
  | some i =>
    rw [Copy.slot_of_clip hclip] at hy
    obtain ⟨st, rfl, hst⟩ := hy
    refine ⟨rfl, rfl, fun h => ?_, fun j hj => ⟨hj, rfl, hst⟩⟩
    cases h

/-! ### Steps of the walk that make a slot (R61, R64, R69) -/

theorem walkStep_slots {t : TrackId} {s : State} {k : Nat} {c : Copy} (hphase : (s.track t).walk.phase = .slots k)
    (hlast : (s.track t).queue.getLast? = some c) (hk : k < c.length) :
    walkStep t s =
      if (s.track t).ring.length < 8 then
        some (addSlot t (c.slot s.slotSeq k (s.track t).beyondHold)
          (s.setTrack t ((s.track t).setPhase (.slots (k + 1)))))
      else none := by
  simp only [walkStep, hphase, hlast, if_neg (Nat.not_le.mpr hk)]
  rfl

theorem walkStep_split {t : TrackId} {s : State} (hphase : (s.track t).walk.phase = .split) :
    walkStep t s =
      match (s.track t).nextSplit with
      | none => none
      | some (c, k) =>
        if (s.track t).ring.length < 8 then some (addSlot t (c.slot s.slotSeq k false) s) else none := by
  simp only [walkStep, hphase]
  rfl

theorem walkStep_copy {t : TrackId} {s : State} {i : CueIndex} {trailing : Bool}
    (hphase : (s.track t).walk.phase = .copy i trailing) :
    walkStep t s = if (s.track t).queue.length < 4 then some (takeCopy t i trailing s) else none := by
  simp only [walkStep, hphase]
  rfl

/-- The next slot of a split, by the slots its two paths have and are due (R69). -/
theorem Track.nextSplit_eq {tr : Track} {main : List Copy} {a b : Copy} (hqueue : tr.queue = main ++ [a, b])
    (hmain : ∀ c ∈ main, c.path = .main) (ha : a.path = .taken) (hb : b.path = .fall) :
    tr.nextSplit =
      if tr.madeOn .taken < a.splitSlots ∧ (tr.madeOn .taken ≤ tr.madeOn .fall ∨ b.splitSlots ≤ tr.madeOn .fall) then
        some (a, tr.madeOn .taken)
      else if tr.madeOn .fall < b.splitSlots then some (b, tr.madeOn .fall)
      else none := by
  have hfind (p : PathTag) (hp : p ≠ .main) : main.find? (fun c => Decidable.decide (c.path = p)) = none :=
    List.find?_eq_none.mpr fun c hc => by simp [hmain c hc, hp.symm]
  have htaken : tr.queue.find? (fun c => Decidable.decide (c.path = .taken)) = some a := by
    rw [hqueue, List.find?_append, hfind _ (by simp)]
    simp [ha]
  have hfall : tr.queue.find? (fun c => Decidable.decide (c.path = .fall)) = some b := by
    rw [hqueue, List.find?_append, hfind _ (by simp)]
    simp [ha, hb]
  simp only [Track.nextSplit, htaken, hfall, Bool.and_eq_true, Bool.or_eq_true, decide_eq_true_eq]

/-- A NEAR target is a displacement from index+1, modulo 4096 (R7). -/
theorem near_index_toNat (i : CueIndex) (d : BitVec 8) :
    (((Target.near d).index i).toNat : Int) = (i.toNat + 1 + d.toInt) % 4096 := by
  have hone : (1 : CueIndex).toInt = 1 := by decide
  have hval : ((Target.near d).index i).toInt = (i.toInt + 1 + d.toInt).bmod (2 ^ 12) := by
    rw [Target.index, BitVec.toInt_add, BitVec.toInt_add, BitVec.toInt_signExtend_of_le (by omega), hone]
    simp
  have hi := BitVec.toInt_eq_toNat_bmod i
  have hx := BitVec.toInt_eq_toNat_bmod ((Target.near d).index i)
  have hlt := ((Target.near d).index i).isLt
  have hilt := i.isLt
  rw [hx, hi] at hval
  simp only [Int.bmod_def] at hval
  omega

end Sys2Proof.Machine

namespace Sys2Proof.Proofs.Copies

open Sys2Proof Sys2Proof.Machine

/-- Settles O25. -/
theorem copiesAreValidated : Obligations.CopiesAreValidated := by
  unfold Obligations.CopiesAreValidated
  refine ⟨fun s i path trailing => ?_, fun s t i trailing hphase => ?_, fun s t => ?_, fun i j d =>
    ⟨near_index_toNat i d, rfl⟩⟩
  · intro c e
    have hstatus : c.status = (s.validate e).1 := rfl
    have hlength : c.length = (s.validate e).2 := rfl
    refine ⟨rfl, rfl, rfl, rfl, fun h => ?_, fun k h => ?_⟩
    · rw [hstatus, hlength, validate_silence h]
      exact ⟨rfl, rfl⟩
    · intro r fits
      rw [hstatus, hlength, validate_clip h]
      refine ⟨fun hstate => ?_, fun hstate hfits => ?_, fun hstate hfits => ?_⟩
      · rw [if_pos hstate]
      · rw [if_neg (not_not.mpr hstate), if_neg hfits]
      · rw [if_neg (not_not.mpr hstate), if_pos hfits]
        obtain ⟨hstart, hend⟩ := hfits
        refine ⟨rfl, ?_, ?_, rfl⟩
        all_goals
          unfold CueEntry.blocks
          split
        · change r.blocks - e.start.toNat ≥ 1
          omega
        next hne =>
          have hpos := BitVec.toNat_ne.mp hne
          exact Nat.pos_of_ne_zero hpos
        · change e.start.toNat + (r.blocks - e.start.toNat) ≤ r.blocks
          omega
        next hne => exact hend.resolve_left hne
  · refine ⟨fun hfull => ?_, fun hroom => ?_⟩
    · rw [walkStep_copy hphase, if_neg (by omega)]
    · have hstep : walkStep t s = some (takeCopy t i trailing s) := by rw [walkStep_copy hphase, if_pos hroom]
      refine ⟨_, hstep, walkStep_work t s _ hstep, ?_⟩
      rw [takeCopy, State.modTrack_track_same]
      exact ⟨rfl, rfl, rfl⟩
  · intro x makes
    have hmake {c : Copy} {k : Nat} {phase : WalkPhase} {u : State}
        (hstep : walkStep t s = if x.ring.length < 8 then some u else none) (hu : MakesSlot s t c k phase u) :
        makes c k phase := by
      refine ⟨fun hfull => ?_, fun hroom => ?_⟩
      · rw [hstep, if_neg (by omega)]
      · rw [if_pos hroom] at hstep
        obtain ⟨kept, y, hring, hkept, hid, hpath, hsilent, hclip⟩ := hu.ring
        exact ⟨u, kept, y, hstep, walkStep_work t s u hstep, hu.queue, hu.walk, hring, hkept, hid, hpath, hsilent, hclip⟩
    refine ⟨fun k c hphase hlast hk => ?_, fun main a b hphase hqueue hmain ha hb => ?_⟩
    · refine hmake (walkStep_slots hphase hlast hk) (addSlot_makes _ ?_ ?_ ?_)
      all_goals
        rw [State.setTrack_track_same]
        rfl
    · intro due made
      have hnext := Track.nextSplit_eq hqueue hmain ha hb
      have hstep := walkStep_split hphase
      have hself : (s.track t).walk = { (s.track t).walk with phase := .split } := by rw [← hphase]
      split
      next hfirst =>
        rw [hnext.trans (if_pos hfirst)] at hstep
        exact hmake hstep (addSlot_makes _ rfl rfl hself)
      next hfirst =>
        replace hnext := hnext.trans (if_neg hfirst)
        split
        next hsecond =>
          rw [hnext.trans (if_pos hsecond)] at hstep
          exact hmake hstep (addSlot_makes _ rfl rfl hself)
        next hsecond =>
          rw [hnext.trans (if_neg hsecond)] at hstep
          exact hstep

end Sys2Proof.Proofs.Copies
end

section
/-! PROOFS. The warm reset (section 10.4, R196): O13. A bank whose fetch queue is empty changes its operation and its
sectors alone, and resumes what is SUSPENDED without a read. -/

namespace Sys2Proof.Machine

/-! ### A bank with no request waiting -/

/-- Bank `k'` is bank `k`, whose operation goes on or, SUSPENDED with no read in flight outside the scan, resumes. -/
structure Bank.GoesOn (scanning : Bool) (k k' : Bank) : Prop where
  rest : { k' with op := k.op } = k
  op : ∀ o, k.op = some o → k'.op = some o ∨
    (o.sub = .suspended ∧ k.inFlight = none ∧ scanning = false ∧ k'.op = some { o with sub := .running })

theorem Bank.GoesOn.refl (scanning : Bool) (k : Bank) : k.GoesOn scanning k := ⟨rfl, fun _ ho => .inl ho⟩

theorem Bank.GoesOn.trans {scanning : Bool} {k k' k'' : Bank} (h : k.GoesOn scanning k') (g : k'.GoesOn scanning k'') :
    k.GoesOn scanning k'' := by
  have hflight := congrArg Bank.inFlight h.rest
  refine ⟨?_, fun o ho => ?_⟩
  · have hrest := congrArg (fun x : Bank => { x with op := k.op }) g.rest
    exact hrest.trans h.rest
  · obtain ho' | ⟨hsub, hfree, hscan, ho'⟩ := h.op o ho
    · obtain ho'' | ⟨hsub, hfree, hscan, ho''⟩ := g.op o ho'
      · exact .inl ho''
      · exact .inr ⟨hsub, hflight ▸ hfree, hscan, ho''⟩
    · obtain ho'' | ⟨hrun, _⟩ := g.op _ ho'
      · exact .inr ⟨hsub, hfree, hscan, ho''⟩
      · cases hrun

/-- What the banks do with no request waiting: sectors and operations move. -/
structure GoOn (s u : State) : Prop where
  frame : { u with banks := s.banks, store := { u.store with sectors := s.store.sectors } } = s
  banks : ∀ b, (s.bank b).GoesOn s.store.scanning (u.bank b)

theorem GoOn.refl (s : State) : GoOn s s := ⟨rfl, fun b => Bank.GoesOn.refl _ (s.bank b)⟩

theorem GoOn.scanning {s u : State} (h : GoOn s u) : u.store.scanning = s.store.scanning := by
  have hscan := congrArg (fun u : State => u.store.scanning) h.frame
  exact hscan

theorem GoOn.fetch {s u : State} (h : GoOn s u) (b : BankId) : (u.bank b).fetch = (s.bank b).fetch := by
  have hrest := congrArg Bank.fetch (h.banks b).rest
  exact hrest

theorem GoOn.fields {s u : State} (h : GoOn s u) :
    u.held = s.held ∧ u.notices = s.notices ∧ u.timeline = s.timeline ∧ u.cue = s.cue ∧ u.flags = s.flags ∧
      u.tracks = s.tracks ∧ u.ports = s.ports ∧ u.lines = s.lines ∧ u.pending = s.pending ∧
      u.store.scanning = s.store.scanning ∧ u.store.clips = s.store.clips ∧ u.store.flash = s.store.flash := by
  refine ⟨?_, ?_, ?_, ?_, ?_, ?_, ?_, ?_, ?_, ?_, ?_, ?_⟩
  all_goals conv_rhs => rw [← h.frame]

theorem GoOn.trans {s u v : State} (h : GoOn s u) (k : GoOn u v) : GoOn s v := by
  refine ⟨?_, fun b => (h.banks b).trans (h.scanning ▸ k.banks b)⟩
  have hframe := congrArg
    (fun x : State => { x with banks := s.banks, store := { x.store with sectors := s.store.sectors } }) k.frame
  exact hframe.trans h.frame

theorem GoOn.setBank {s : State} {b : BankId} {k : Bank} (h : (s.bank b).GoesOn s.store.scanning k) :
    GoOn s (s.setBank b k) := by
  refine ⟨rfl, fun d => ?_⟩
  rw [State.setBank_bank]
  split
  next heq => exact heq ▸ h
  next => exact Bank.GoesOn.refl _ _

/-- A new operation of a bank that had none. -/
theorem Bank.goesOn_of_none {scanning : Bool} {k : Bank} (h : k.op = none) (op : Option Operation) :
    k.GoesOn scanning { k with op := op } :=
  ⟨rfl, fun o ho => by rw [h] at ho; cases ho⟩

theorem startStore_goOn {b : BankId} {s : State} (h : (s.bank b).op = none) : GoOn s (startStore b s) := by
  unfold startStore
  dsimp only
  split
  · exact GoOn.setBank (Bank.goesOn_of_none h _)
  · split
    · split
      · exact GoOn.refl s
      next n _ =>
        have hsector : GoOn s (s.setSector b n .erasing) := ⟨rfl, fun d => Bank.GoesOn.refl _ (s.bank d)⟩
        refine hsector.trans ?_
        exact GoOn.setBank (Bank.goesOn_of_none h _)
    · exact GoOn.refl s

theorem bankSettle_goOn {b : BankId} {s : State} (h : (s.bank b).fetch = []) : GoOn s (bankSettle b s) := by
  have hquiet : (s.bank b).fetch.isEmpty = true := by rw [h]; rfl
  unfold bankSettle
  dsimp only
  rw [if_pos hquiet]
  split
  · exact GoOn.refl s
  next hidle =>
    simp only [Bool.or_eq_true, not_or, Bool.not_eq_true, Option.isSome_eq_false_iff, Option.isNone_iff_eq_none] at hidle
    obtain ⟨hscan, hfree⟩ := hidle
    split
    next hop => exact startStore_goOn hop
    next op hop =>
      split
      next hsub =>
        refine GoOn.setBank ⟨rfl, fun o ho => ?_⟩
        obtain rfl := Option.some_inj.mp (hop.symm.trans ho)
        exact .inr ⟨hsub, hfree, hscan, rfl⟩
      next => exact GoOn.refl s

theorem settleAll_goOn (bs : List BankId) {s : State} (h : ∀ b, (s.bank b).fetch = []) :
    GoOn s (forEach bs (fun s b => bankSettle b s) s) := by
  induction bs generalizing s with
  | nil => exact GoOn.refl s
  | cons b bs ih =>
    have hfirst := bankSettle_goOn (h b)
    exact hfirst.trans (ih fun d => (hfirst.fetch d).trans (h d))

/-- A bank that does not idle has nothing to go on to. -/
theorem bankSettle_of_works {b : BankId} {s : State} (h : s.bankWorks b) : bankSettle b s = s := by
  unfold bankSettle
  dsimp only
  split
  · rfl
  next hidle =>
    simp only [Bool.or_eq_true, not_or, Bool.not_eq_true, Option.isSome_eq_false_iff, Option.isNone_iff_eq_none] at hidle
    obtain ⟨hscan, hfree⟩ := hidle
    obtain ⟨hnone, hsome⟩ := h hscan hfree
    split
    next hop =>
      obtain ⟨hfetch, hpages, herase⟩ := hnone hop
      have hquiet : (s.bank b).fetch.isEmpty = true := by rw [hfetch]; rfl
      rw [if_pos hquiet, startStore]
      simp only [hpages]
      split
      next hmay =>
        rw [herase hmay]
        rfl
      next => rfl
    next op hop => rw [if_neg (hsome op hop)]

theorem settleAll_of_works (bs : List BankId) {s : State} (h : ∀ b, s.bankWorks b) :
    forEach bs (fun s b => bankSettle b s) s = s := by
  induction bs with
  | nil => rfl
  | cons b bs ih =>
    change forEach bs _ (bankSettle b s) = s
    rw [bankSettle_of_works (h b), ih]

/-! ### The state of a warm reset -/

theorem State.warm_bank (s : State) (b : BankId) : s.warm.bank b = { s.bank b with fetch := [] } :=
  Vector.getElem_map _ b.2

theorem State.warm_works {s : State} (h : s.banksWork) (b : BankId) : s.warm.bankWorks b := by
  intro hscan hfree
  rw [State.warm_bank] at hfree
  obtain ⟨hnone, hsome⟩ := h hscan b hfree
  rw [State.warm_bank]
  refine ⟨fun hop => ?_, hsome⟩
  obtain ⟨_, hpages, herase⟩ := hnone hop
  exact ⟨rfl, hpages, herase⟩

theorem warmReset_goOn (s : State) : GoOn s.warm (warmReset s) :=
  settleAll_goOn allFour fun b => by rw [State.warm_bank]

theorem warmReset_of_works {s : State} (h : s.banksWork) : warmReset s = s.warm :=
  settleAll_of_works allFour (State.warm_works h)

/-- The operation a warm reset leaves: one SUSPENDED with no read in flight outside the scan has resumed (R152). -/
theorem warmReset_op {s : State} {b : BankId} {op : Operation} (h : (s.bank b).op = some op) :
    ((warmReset s).bank b).op = some { op with
      sub := if op.sub = .suspended ∧ (s.bank b).inFlight = none ∧ s.store.scanning = false then .running
        else op.sub } := by
  have hgo := warmReset_goOn s
  have hworks : (warmReset s).bankWorks b := banksWork_iff.mp (settleAll_banksWork s.warm) b
  have hop : (s.warm.bank b).op = some op := by rw [State.warm_bank, h]
  have hflight : ((warmReset s).bank b).inFlight = (s.bank b).inFlight := by
    have hrest := congrArg Bank.inFlight (hgo.banks b).rest
    exact hrest.trans (by rw [State.warm_bank])
  have hscan : (warmReset s).store.scanning = s.store.scanning := hgo.scanning
  split
  next hresumes =>
    obtain ⟨hsub, hfree, hidle⟩ := hresumes
    obtain hsame | ⟨_, _, _, hrun⟩ := (hgo.banks b).op op hop
    · exact absurd hsub ((hworks (hscan.trans hidle) (hflight.trans hfree)).2 op hsame)
    · exact hrun
  next hstays =>
    obtain hsame | ⟨hsub, hfree, hidle, _⟩ := (hgo.banks b).op op hop
    · exact hsame
    · rw [State.warm_bank] at hfree
      exact absurd ⟨hsub, hfree, hidle⟩ hstays

end Sys2Proof.Machine

namespace Sys2Proof.Proofs.WarmReset

open Sys2Proof Sys2Proof.Machine

/-- Settles O13. -/
theorem warmResetValues : Obligations.WarmResetValues := by
  unfold Obligations.WarmResetValues
  intro s tag hserves
  obtain ⟨l, hmet⟩ := met_eq_withLink s { tag := tag, code := 0x02, payload := [] }
  have hlink := congrArg (fun x => x.1) (warmReset_aside (s.met { tag := tag, code := 0x02, payload := [] }))
  obtain ⟨hanswered, hrequests, hsans⟩ := answered_alone s (warmReset (s.met { tag := tag, code := 0x02, payload := [] }))
    { tag := tag, code := 0x02, payload := [] } .done [] hserves hlink
  have hreply : exec (.deviceReset tag []) s =
      .next (s.event (serve handleDeviceReset { tag := tag, code := 0x02, payload := [] })) := rfl
  rw [event_serve _ _ _ hserves] at hreply
  rw [hmet] at hanswered hrequests hsans hreply
  dsimp only at hanswered hrequests hsans hreply
  have hgo := warmReset_goOn { s with link := l }
  have hop {b : BankId} {op : Operation} := warmReset_op (s := { s with link := l }) (b := b) (op := op)
  have hworks : s.banksWork → (warmReset { s with link := l }).store = s.store ∧
      (warmReset { s with link := l }).banks = ({ s with link := l } : State).warm.banks := fun h => by
    rw [warmReset_of_works (s := { s with link := l }) h]
    exact ⟨rfl, rfl⟩
  change exec (.deviceReset tag []) s =
    .next (arbitrate ((warmReset { s with link := l }).answerFront tag .done [])) at hreply
  generalize warmReset { s with link := l } = w at *
  generalize arbitrate (w.answerFront tag .done []) = t at *
  obtain ⟨hheld, hnotices, htimeline, hcue, hflags, htracks, -, hports, hstore, hbanks, hlines, -, hpending⟩ :=
    fields_of_sansLink hsans
  obtain ⟨hheld', hnotices', htimeline', hcue', hflags', htracks', hports', hlines', hpending', hscan', hclips', hflash'⟩ :=
    hgo.fields
  have hbank (b : BankId) : { t.bank b with op := (s.bank b).op } = { s.bank b with fetch := [] } := by
    have hrest := (hgo.banks b).rest
    rw [State.warm_bank] at hrest
    rw [State.bank, hbanks]
    exact hrest
  have hmarker (m : LineId) : t.marker m = { s.marker m with remaining := 0 } := by
    rw [State.marker, hlines.trans hlines']
    exact Vector.getElem_map _ _
  refine ⟨t, hreply, hanswered, hrequests, hheld.trans hheld', fun k => ?_, hflags.trans hflags', hcue.trans hcue',
    fun p => ?_, htimeline.trans htimeline', fun n => ?_, fun m => ⟨hmarker m, ?_⟩,
    congrArg Lines.captures (hlines.trans hlines'), congrArg Lines.overrun (hlines.trans hlines'), fun n => ?_,
    by rw [hnotices.trans hnotices']; rfl, by rw [hnotices.trans hnotices']; rfl,
    hstore ▸ hscan', hstore ▸ hclips', hstore ▸ hflash', fun b => ?_, fun hidle => ?_, hpending.trans hpending'⟩
  · rw [State.track, htracks.trans htracks']
    exact Vector.getElem_replicate _
  · rw [State.port, hports.trans hports']
    exact Vector.getElem_map _ _
  · rw [State.trigger, hlines.trans hlines']
    exact Vector.getElem_map _ _
  · rw [State.markerActive, hmarker]
    dsimp only
    split
    · rfl
    · exact decide_eq_false (Nat.lt_irrefl 0)
    · rw [State.flagSet, hflags.trans hflags']
      exact BitVec.getLsbD_zero
  · rw [State.notice, hnotices.trans hnotices']
    exact Vector.getElem_replicate _
  · have hfetch := congrArg Bank.fetch (hbank b)
    have hflight := congrArg Bank.inFlight (hbank b)
    have hpages := congrArg Bank.programQueue (hbank b)
    have hpolicy := congrArg Bank.policy (hbank b)
    have hauto := congrArg Bank.autoSweep (hbank b)
    have hsweep := congrArg Bank.sweep (hbank b)
    have hhold := congrArg Bank.eraseHold (hbank b)
    refine ⟨hfetch, hflight, hpages, hpolicy, hauto, hsweep, hhold, fun op h => ?_⟩
    have h' := hop (b := b) h
    rw [State.bank, hbanks]
    exact h'
  · obtain ⟨hsame, hnobank⟩ := hworks hidle
    refine ⟨hstore.trans hsame, fun b hnone => ?_⟩
    have hwarm := State.warm_bank { s with link := l } b
    rw [State.bank, ← hnobank, ← hbanks] at hwarm
    have hbop := congrArg Bank.op hwarm
    exact hbop.trans hnone

end Sys2Proof.Proofs.WarmReset
end

section
/-! PROOFS. TRACK GO, TRACK STOP, TRACK TUNE and TRACK FEED (chapter 02): O29, O30, O32. One equation for each reader,
then the handlers, then the statements. -/

namespace Sys2Proof.Machine

/-! ### Requests that a handler answers alike whatever the link -/

/-- A request completes with what its handler makes of the state, when the handler does not look at the link. -/
theorem completes_of_blind {c : Instr} {s : State} {r : Request} {handler : List Byte → State → Reply}
    {payload : List Byte} {f : State → State} (he : exec c s = .next (s.event (serve handler r))) (h : s.serves r)
    (hreply : ∀ l, handler r.payload { s with link := l } = .done payload (f { s with link := l }))
    (hblind : ∀ l, f { s with link := l } = { f s with link := l }) : Completes c s r.tag payload (f s) := by
  obtain ⟨l, hmet⟩ := met_eq_withLink s r
  have hr := hreply l
  rw [← hmet] at hr
  refine completes_of he h hr ?_ ?_
  · rw [hmet, hblind]
  · rw [hmet, hblind]
    rfl

/-- A request is refused that its handler refuses whatever the link. -/
theorem refuses_of_blind {c : Instr} {s : State} {r : Request} {handler : List Byte → State → Reply} {code : AnswerCode}
    (he : exec c s = .next (s.event (serve handler r))) (h : s.serves r)
    (hreply : ∀ l, handler r.payload { s with link := l } = .error code) : Refuses c s r.tag code := by
  obtain ⟨l, hmet⟩ := met_eq_withLink s r
  have hr := hreply l
  rw [← hmet] at hr
  exact refuses_of he h hr

theorem State.setTrack_self (s : State) (t : TrackId) : s.setTrack t (s.track t) = s := by
  have h : s.tracks.set t.1 s.tracks[t.1] = s.tracks := Vector.set_getElem_self _
  exact congrArg (fun v => { s with tracks := v }) h

/-! ### Fields of a payload -/

theorem word32_eq_toNat (p : List Byte) (i : Nat) :
    word32 p i = (p.getD (i + 3) 0 ++ p.getD (i + 2) 0 ++ p.getD (i + 1) 0 ++ p.getD i 0 : BitVec 32).toNat := by
  rw [← ofNat_word32, BitVec.toNat_ofNat, Nat.mod_eq_of_lt (word32_lt p i)]

theorem signed32_eq_toInt (p : List Byte) (i : Nat) :
    signed32 p i = (p.getD (i + 3) 0 ++ p.getD (i + 2) 0 ++ p.getD (i + 1) 0 ++ p.getD i 0 : BitVec 32).toInt := by
  rw [signed32, word32_eq_toNat, BitVec.toInt_eq_toNat_cond]
  unfold signed
  split <;> split <;> omega

theorem readTrack_of_lt {n : Nat} (h : n < 48) : readTrack n = some ⟨n, h⟩ := dif_pos h

theorem readTrack_of_ge {n : Nat} (h : ¬ n < 48) : readTrack n = none := dif_neg h

theorem readFour_of_lt {n : Nat} (h : n < 4) : readFour n = some ⟨n, h⟩ := dif_pos h

theorem readFour_of_ge {n : Nat} (h : ¬ n < 4) : readFour n = none := dif_neg h

/-- A flag number in a byte. -/
theorem readFlag_toNat (b : Byte) : readFlag b.toNat = if b.toNat < 16 then some (b.setWidth 4) else none := by
  rw [readFlag, ← BitVec.ofNat_toNat]

theorem toNat_eq_iff (b : Byte) (n : Nat) (h : n < 256 := by omega) : b.toNat = n ↔ b = BitVec.ofNat 8 n := by
  rw [BitVec.toNat_eq, BitVec.toNat_ofNat, Nat.mod_eq_of_lt h]

/-! ### TRACK GO (R31, R32) -/

/-- The bytes of a start condition are in range, and those it leaves unused are zero (R31). -/
def StartFieldsOk (cond consume number : Byte) (time : Count) : Prop :=
  (cond = 1 ∧ consume = 0 ∧ number = 0 ∧ time = 0) ∨ (cond = 2 ∧ consume = 0 ∧ number = 0) ∨
    (cond = 3 ∧ consume = 0 ∧ number.toNat < 4 ∧ time = 0) ∨
    (cond = 4 ∧ consume.toNat < 2 ∧ number.toNat < 16 ∧ time = 0)

/-- The reader of a start condition, by its first byte. -/
theorem readStartCond_eq (t cond consume number b0 b1 b2 b3 : Byte) :
    readStartCond [t, cond, consume, number, b0, b1, b2, b3] =
      let time : Count := b3 ++ b2 ++ b1 ++ b0
      if cond = 1 then (if consume = 0 ∧ number = 0 ∧ time = 0 then some .next else none)
      else if cond = 2 then (if consume = 0 ∧ number = 0 then some (.atTime time) else none)
      else if cond = 3 then
        (if consume = 0 ∧ time = 0 then (readFour number.toNat).map .trigger else none)
      else if cond = 4 then
        (if time = 0 then
          if number.toNat < 16 ∧ consume.toNat < 2 then some (.flag (number.setWidth 4) (consume = 1)) else none
        else none)
      else none := by
  have htime : word32 [t, cond, consume, number, b0, b1, b2, b3] 4 = (b3 ++ b2 ++ b1 ++ b0 : BitVec 32).toNat :=
    word32_eq_toNat _ 4
  have hzero (v : Count) : v.toNat = 0 ↔ v = 0 := by rw [BitVec.toNat_eq]; rfl
  have hcond : byteAt [t, cond, consume, number, b0, b1, b2, b3] 1 = cond.toNat := rfl
  have hconsume : byteAt [t, cond, consume, number, b0, b1, b2, b3] 2 = consume.toNat := rfl
  have hnumber : byteAt [t, cond, consume, number, b0, b1, b2, b3] 3 = number.toNat := rfl
  simp only [readStartCond, htime, hcond, hconsume, hnumber, hzero, BitVec.ofNat_toNat, BitVec.setWidth_eq,
    readFlag_toNat, readBool_toNat, toNat_eq_iff _ 1, toNat_eq_iff _ 2, toNat_eq_iff _ 3, toNat_eq_iff _ 4,
    toNat_eq_iff _ 0]
  by_cases hn : number.toNat < 16
  · by_cases hc : consume.toNat < 2
    · simp only [hn, hc, and_true, if_true]
      rfl
    · simp only [hn, hc, and_false, if_false]
      rfl
  · simp only [hn, false_and, if_false]
    rfl

/-- The start condition its bytes carry. -/
def startCondOf (cond consume number : Byte) (time : Count) : StartCond :=
  if cond = 1 then .next
  else if cond = 2 then .atTime time
  else if cond = 3 then .trigger (Fin.ofNat 4 number.toNat)
  else .flag (number.setWidth 4) (consume = 1)

theorem readStartCond_of_ok {t cond consume number b0 b1 b2 b3 : Byte}
    (h : StartFieldsOk cond consume number (b3 ++ b2 ++ b1 ++ b0)) :
    readStartCond [t, cond, consume, number, b0, b1, b2, b3] =
      some (startCondOf cond consume number (b3 ++ b2 ++ b1 ++ b0)) := by
  rw [readStartCond_eq]
  obtain ⟨rfl, hrest⟩ | ⟨rfl, hrest⟩ | ⟨rfl, hconsume, hnumber, htime⟩ | ⟨rfl, hconsume, hnumber, htime⟩ := h
  · exact if_pos hrest
  · exact if_pos hrest
  · have hline : (⟨number.toNat, hnumber⟩ : Fin 4) = Fin.ofNat 4 number.toNat :=
      Fin.ext (Nat.mod_eq_of_lt hnumber).symm
    have hread := readFour_of_lt hnumber
    rw [hline] at hread
    dsimp only
    rw [if_neg (by decide), if_neg (by decide), if_pos rfl, if_pos ⟨hconsume, htime⟩, hread]
    rfl
  · exact (if_pos htime).trans (if_pos ⟨hnumber, hconsume⟩)

theorem readStartCond_of_not_ok {t cond consume number b0 b1 b2 b3 : Byte}
    (h : ¬ StartFieldsOk cond consume number (b3 ++ b2 ++ b1 ++ b0)) :
    readStartCond [t, cond, consume, number, b0, b1, b2, b3] = none := by
  rw [readStartCond_eq]
  dsimp only
  unfold StartFieldsOk at h
  split
  next hcond => exact if_neg fun hrest => h (.inl ⟨hcond, hrest⟩)
  split
  next hcond => exact if_neg fun hrest => h (.inr (.inl ⟨hcond, hrest⟩))
  split
  next hcond =>
    split
    next hrest =>
      obtain ⟨hconsume, htime⟩ := hrest
      rw [readFour_of_ge fun hn => h (.inr (.inr (.inl ⟨hcond, hconsume, hn, htime⟩)))]
      rfl
    next => rfl
  split
  next hcond =>
    split
    next htime =>
      exact if_neg fun hrest => h (.inr (.inr (.inr ⟨hcond, hrest.2, hrest.1, htime⟩)))
    next => rfl
  rfl

theorem goTrack_blind (k : TrackId) (c : StartCond) (s : State) (l : Link) :
    goTrack k c { s with link := l } = { goTrack k c s with link := l } := by
  cases c with
  | atTime time =>
    unfold goTrack
    by_cases h : ahead time s.timeline.count = true
    · simp only [h, if_true]
      rfl
    · simp only [h]
      rfl
  | none => rfl
  | next => rfl
  | trigger n => rfl
  | flag f b => rfl

theorem exec_trackGo (tag : Byte) (p : List Byte) (s : State) :
    exec (.trackGo tag p) s = .next (s.event (serve handleTrackGo { tag := tag, code := 0x41, payload := p })) := rfl

/-! ### TRACK STOP (R45) -/

/-- The bytes of a stop mode are in range (R45). -/
def StopFieldsOk (mode h : Byte) : Prop := (mode = 1 ∧ h = 0) ∨ (mode = 2 ∧ h ≠ 0) ∨ (mode = 3 ∧ h = 0)

/-- The stop mode its bytes carry. -/
def stopModeOf (mode h : Byte) : StopMode := if mode = 1 then .now else if mode = 2 then .fade h.toNat else .atEnd

theorem readStopMode_eq (t mode h : Byte) :
    readStopMode [t, mode, h] =
      if mode = 1 then (if h = 0 then some .now else none)
      else if mode = 2 then (if h = 0 then none else some (.fade h.toNat))
      else if mode = 3 then (if h = 0 then some .atEnd else none)
      else none := by
  have hmode : byteAt [t, mode, h] 1 = mode.toNat := rfl
  have hlength : byteAt [t, mode, h] 2 = h.toNat := rfl
  simp only [readStopMode, hmode, hlength, toNat_eq_iff _ 1, toNat_eq_iff _ 2, toNat_eq_iff _ 3, toNat_eq_iff _ 0]
  rfl

theorem readStopMode_of_ok {t mode h : Byte} (hok : StopFieldsOk mode h) :
    readStopMode [t, mode, h] = some (stopModeOf mode h) := by
  rw [readStopMode_eq]
  obtain ⟨rfl, rfl⟩ | ⟨rfl, hfade⟩ | ⟨rfl, rfl⟩ := hok
  · rfl
  · exact if_neg hfade
  · rfl

theorem readStopMode_of_not_ok {t mode h : Byte} (hok : ¬ StopFieldsOk mode h) : readStopMode [t, mode, h] = none := by
  rw [readStopMode_eq]
  unfold StopFieldsOk at hok
  split
  next hmode => exact if_neg fun hzero => hok (.inl ⟨hmode, hzero⟩)
  split
  next hmode => exact if_pos (not_not.mp fun hne => hok (.inr (.inl ⟨hmode, hne⟩)))
  split
  next hmode => exact if_neg fun hzero => hok (.inr (.inr ⟨hmode, hzero⟩))
  rfl

theorem exec_trackStop (tag : Byte) (p : List Byte) (s : State) :
    exec (.trackStop tag p) s = .next (s.event (serve handleTrackStop { tag := tag, code := 0x42, payload := p })) := rfl

/-- TRACK STOP on a payload in range goes on to the track's own table (R45). -/
theorem handleTrackStop_eq {t mode h : Byte} (ht : t.toNat < 48) (hok : StopFieldsOk mode h) (s : State) :
    handleTrackStop [t, mode, h] s =
      ((s.track ⟨t.toNat, ht⟩).stopRequest (stopModeOf mode h)).bind fun tr =>
        Reply.done [] (s.setTrack ⟨t.toNat, ht⟩ tr) := by
  have hsize : ¬ [t, mode, h].length ≠ 3 := by simp
  have hbyte : byteAt [t, mode, h] 0 = t.toNat := rfl
  rw [handleTrackStop, if_neg hsize, hbyte, readTrack_of_lt ht, readStopMode_of_ok hok]
  dsimp only
  cases (s.track ⟨t.toNat, ht⟩).stopRequest (stopModeOf mode h) <;> rfl

/-- TRACK STOP taken: the track becomes what its state makes of the mode. -/
theorem trackStop_completes {s : State} {tag t mode h : Byte}
    (hserves : s.serves { tag := tag, code := 0x42, payload := [t, mode, h] }) (ht : t.toNat < 48)
    (hok : StopFieldsOk mode h) {tr : Track}
    (hstop : (s.track ⟨t.toNat, ht⟩).stopRequest (stopModeOf mode h) = .ok tr) :
    Completes (.trackStop tag [t, mode, h]) s tag [] (s.setTrack ⟨t.toNat, ht⟩ tr) := by
  refine completes_of_blind (f := fun u => u.setTrack ⟨t.toNat, ht⟩ tr) (exec_trackStop tag [t, mode, h] s) hserves
    (fun l => (handleTrackStop_eq ht hok _).trans ?_) fun l => rfl
  have hsame : ({ s with link := l } : State).track ⟨t.toNat, ht⟩ = s.track ⟨t.toNat, ht⟩ := rfl
  rw [hsame, hstop]
  rfl

theorem trackStop_refuses {s : State} {tag t mode h : Byte}
    (hserves : s.serves { tag := tag, code := 0x42, payload := [t, mode, h] }) (ht : t.toNat < 48)
    (hok : StopFieldsOk mode h) {code : AnswerCode}
    (hstop : (s.track ⟨t.toNat, ht⟩).stopRequest (stopModeOf mode h) = .error code) :
    Refuses (.trackStop tag [t, mode, h]) s tag code := by
  refine refuses_of_blind (exec_trackStop tag [t, mode, h] s) hserves fun l => (handleTrackStop_eq ht hok _).trans ?_
  have hsame : ({ s with link := l } : State).track ⟨t.toNat, ht⟩ = s.track ⟨t.toNat, ht⟩ := rfl
  rw [hsame, hstop]
  rfl

theorem stopModeOf_eq_now {mode h : Byte} : stopModeOf mode h = .now ↔ mode = 1 := by
  unfold stopModeOf
  split
  next hmode => exact iff_of_true rfl hmode
  next hmode =>
    refine iff_of_false ?_ hmode
    split <;> exact nofun

/-! ### TRACK TUNE (R51, R52) -/

theorem TrackState.writesBoth_iff (x : TrackState) :
    x.writesBoth = true ↔ x = .idle ∨ x = .priming ∨ x = .ready ∨ x = .faulted := by
  cases x <;> simp [TrackState.writesBoth]

theorem readTransferMode_toNat (b : Byte) :
    readTransferMode b.toNat = if b.toNat < 2 then some (if b = 0 then .every else .marked) else none := by
  obtain rfl | rfl | rfl | habove := byte_cases b
  · rfl
  · rfl
  · rfl
  · rw [if_neg (by omega), readTransferMode.eq_3] <;> omega

/-- The bytes of a TRACK TUNE are in range (R51, R52). -/
def TuneFieldsOk (mode now z trim y : Byte) (detune sweep : Int) : Prop :=
  mode.toNat < 2 ∧ now.toNat < 2 ∧ z = 0 ∧ -32000000 ≤ detune ∧ detune ≤ 32000000 ∧ -100000 ≤ sweep ∧ sweep ≤ 100000 ∧
    trim.toNat ≤ 120 ∧ y = 0

/-- The values the bytes of a TRACK TUNE carry. -/
def tuneOf (mode now trim : Byte) (detune sweep : Int) (gateOn gateOff : BitVec 16) : TuneValues :=
  { mode := if mode = 0 then .every else .marked
    now := decide (now = 1)
    detune := detune
    sweep := sweep
    trim := trim.toNat
    gateOn := gateOn.toNat
    gateOff := gateOff.toNat }

theorem readTune_eq (t mode now z d0 d1 d2 d3 w0 w1 w2 w3 trim y g0 g1 o0 o1 : Byte) :
    readTune [t, mode, now, z, d0, d1, d2, d3, w0, w1, w2, w3, trim, y, g0, g1, o0, o1] =
      if mode.toNat < 2 ∧ now.toNat < 2 ∧ z = 0 ∧ inRange (-32000000) 32000000 (d3 ++ d2 ++ d1 ++ d0).toInt ∧
          inRange (-100000) 100000 (w3 ++ w2 ++ w1 ++ w0).toInt ∧ trim.toNat ≤ 120 ∧ y = 0 then
        some (tuneOf mode now trim (d3 ++ d2 ++ d1 ++ d0).toInt (w3 ++ w2 ++ w1 ++ w0).toInt (g1 ++ g0) (o1 ++ o0))
      else none := by
  have hdetune : signed32 [t, mode, now, z, d0, d1, d2, d3, w0, w1, w2, w3, trim, y, g0, g1, o0, o1] 4 =
      (d3 ++ d2 ++ d1 ++ d0 : BitVec 32).toInt := signed32_eq_toInt _ 4
  have hsweep : signed32 [t, mode, now, z, d0, d1, d2, d3, w0, w1, w2, w3, trim, y, g0, g1, o0, o1] 8 =
      (w3 ++ w2 ++ w1 ++ w0 : BitVec 32).toInt := signed32_eq_toInt _ 8
  have hon : word16 [t, mode, now, z, d0, d1, d2, d3, w0, w1, w2, w3, trim, y, g0, g1, o0, o1] 14 =
      (g1 ++ g0).toNat := word16_eq_toNat_append _ 14
  have hoff : word16 [t, mode, now, z, d0, d1, d2, d3, w0, w1, w2, w3, trim, y, g0, g1, o0, o1] 16 =
      (o1 ++ o0).toNat := word16_eq_toNat_append _ 16
  rw [readTune, hdetune, hsweep, hon, hoff]
  change (readTransferMode mode.toNat).bind (fun m => (readBool now.toNat).bind fun n =>
    if z.toNat = 0 ∧ inRange (-32000000) 32000000 (d3 ++ d2 ++ d1 ++ d0).toInt ∧
        inRange (-100000) 100000 (w3 ++ w2 ++ w1 ++ w0).toInt ∧ trim.toNat ≤ 120 ∧ y.toNat = 0 then _ else none) = _
  rw [readTransferMode_toNat, readBool_toNat]
  simp only [toNat_eq_iff _ 0]
  by_cases hmode : mode.toNat < 2
  · by_cases hnow : now.toNat < 2
    · simp only [hmode, hnow, if_true, true_and, Option.bind_some]
      rfl
    · simp only [hmode, hnow, if_true, if_false, true_and, false_and, Option.bind_some, Option.bind_none]
  · simp only [hmode, if_false, false_and, Option.bind_none]

theorem exec_trackTune (tag : Byte) (p : List Byte) (s : State) :
    exec (.trackTune tag p) s = .next (s.event (serve handleTrackTune { tag := tag, code := 0x44, payload := p })) := rfl

theorem handleTrackTune_eq {p : List Byte} (hsize : p.length = 18) (s : State) :
    handleTrackTune p s =
      match readTrack (byteAt p 0), readTune p with
      | some t, some v => .done [] (s.modTrack t fun tr => tr.tune v)
      | _, _ => .error .range := by
  refine (if_neg (not_not.mpr hsize)).trans ?_
  cases readTrack (byteAt p 0) <;> cases readTune p <;> rfl

/-! ### TRACK FEED (R53) -/

/-- The four bytes of a feed. -/
theorem Feed.bytes_eq (f : Feed) :
    f.bytes = [BitVec.ofNat 8 f.port.1, BitVec.ofNat 8 f.offset, f.phase.extractLsb' 0 8, f.phase.extractLsb' 8 8] := by
  rw [Feed.bytes, le16_toNat]
  rfl

theorem readFeeds_flatMap (fs : List Feed) (h : ∀ f ∈ fs, f.offset ≤ 120) :
    readFeeds fs.length (fs.flatMap Feed.bytes) = some fs := by
  induction fs with
  | nil => rfl
  | cons f fs ih =>
    have hrest := ih fun x hx => h x (List.mem_cons_of_mem _ hx)
    have hoffset := h f List.mem_cons_self
    have hport := f.port.isLt
    rw [List.flatMap_cons, f.bytes_eq, List.length_cons, readFeeds]
    have hfirst (r : List Byte) : byteAt ([BitVec.ofNat 8 f.port.1, BitVec.ofNat 8 f.offset, f.phase.extractLsb' 0 8,
        f.phase.extractLsb' 8 8] ++ r) 0 = f.port.1 := Nat.mod_eq_of_lt (by omega)
    have hsecond (r : List Byte) : byteAt ([BitVec.ofNat 8 f.port.1, BitVec.ofNat 8 f.offset, f.phase.extractLsb' 0 8,
        f.phase.extractLsb' 8 8] ++ r) 1 = f.offset := Nat.mod_eq_of_lt (by omega)
    have hphase (r : List Byte) : word16 ([BitVec.ofNat 8 f.port.1, BitVec.ofNat 8 f.offset, f.phase.extractLsb' 0 8,
        f.phase.extractLsb' 8 8] ++ r) 2 = f.phase.toNat := by
      rw [eq_comm, ← le16_eq_iff f.phase.isLt]
      exact le16_toNat f.phase
    rw [hfirst, hsecond, hphase, readFour_of_lt hport, List.drop_left' (by rfl), hrest, BitVec.ofNat_toNat,
      BitVec.setWidth_eq]
    exact if_pos hoffset

theorem byteAt_drop (p : List Byte) (n i : Nat) : byteAt (p.drop n) i = byteAt p (n + i) := by
  rw [byteAt, byteAt, List.getD_eq_getElem?_getD, List.getD_eq_getElem?_getD, List.getElem?_drop]

/-- What was read as feeds: as many as named, each with the port and an offset that its bytes carry. -/
theorem readFeeds_spec {n : Nat} {p : List Byte} {fs : List Feed} (h : readFeeds n p = some fs) :
    fs.length = n ∧ ∀ i < n, ∃ f, fs[i]? = some f ∧ f.port.1 = byteAt p (4 * i) ∧ byteAt p (4 * i + 1) ≤ 120 := by
  induction n generalizing p fs with
  | zero =>
    cases h
    exact ⟨rfl, fun i hi => absurd hi (Nat.not_lt_zero i)⟩
  | succ n ih =>
    simp only [readFeeds, Option.bind_eq_bind, Option.bind_eq_some_iff, Option.ite_none_right_eq_some] at h
    obtain ⟨port, hport, r, hr, hoffset, hfs⟩ := h
    obtain rfl := Option.some_inj.mp hfs
    obtain ⟨hlen, hall⟩ := ih hr
    refine ⟨congrArg Nat.succ hlen, fun i hi => ?_⟩
    cases i with
    | zero =>
      rw [readFour, Option.dite_none_right_eq_some] at hport
      obtain ⟨hlt, hport⟩ := hport
      obtain rfl := Option.some_inj.mp hport
      exact ⟨_, rfl, rfl, hoffset⟩
    | succ i =>
      obtain ⟨f, hf, hfport, hfoffset⟩ := hall i (by omega)
      rw [byteAt_drop] at hfport hfoffset
      refine ⟨f, hf, ?_, ?_⟩
      · rw [hfport, show 4 + 4 * i = 4 * (i + 1) by omega]
      · rwa [show 4 * (i + 1) + 1 = 4 + (4 * i + 1) by omega]

theorem exec_trackFeed (tag : Byte) (p : List Byte) (s : State) :
    exec (.trackFeed tag p) s = .next (s.event (serve handleTrackFeed { tag := tag, code := 0x45, payload := p })) := rfl

/-- A feed list is read from its count, its NOW byte and its feeds. -/
theorem readFeedList_eq (t now n z : Byte) (rest : List Byte) :
    readFeedList ([t, now, n, z] ++ rest) =
      (readBool now.toNat).bind fun w => (readFeeds n.toNat rest).bind fun fs =>
        if z.toNat = 0 ∧ feedsDistinct fs then some (w, fs) else none := rfl

/-- TRACK FEED on a payload of the size its count names. -/
theorem handleTrackFeed_eq {t now n z : Byte} {rest : List Byte} (hrest : rest.length = 4 * n.toNat) (s : State) :
    handleTrackFeed ([t, now, n, z] ++ rest) s =
      match readTrack t.toNat, readFeedList ([t, now, n, z] ++ rest) with
      | some t, some (now, fs) => .done [] (s.modTrack t fun tr => tr.feed now fs)
      | _, _ => .error .range := by
  have hbyte : byteAt ([t, now, n, z] ++ rest) 0 = t.toNat := rfl
  have hsize : ¬ (([t, now, n, z] ++ rest).length < 4 ∨ ([t, now, n, z] ++ rest).length ≠ 4 + 4 * n.toNat) := by
    simp only [List.cons_append, List.nil_append, List.length_cons]
    omega
  refine (if_neg hsize).trans ?_
  rewrite [← hbyte]
  cases readTrack (byteAt ([t, now, n, z] ++ rest) 0) <;> cases readFeedList ([t, now, n, z] ++ rest) <;> rfl

end Sys2Proof.Machine

namespace Sys2Proof.Proofs.TrackRequests

open Sys2Proof Sys2Proof.Machine

/-- Settles O29. -/
theorem trackGoRecordsItsCondition : Obligations.TrackGoRecordsItsCondition := by
  unfold Obligations.TrackGoRecordsItsCondition
  intro s tag t cond consume number b0 b1 b2 b3 payload time hserves
  have hbyte : byteAt payload 0 = t.toNat := rfl
  have hsize : ¬ payload.length ≠ 8 := by simp [payload]
  split
  next h =>
    intro k x
    obtain ⟨ht, hok⟩ := h
    have hread := readStartCond_of_ok (t := t) (b0 := b0) (b1 := b1) (b2 := b2) (b3 := b3) hok
    have hreply (l : Link) : handleTrackGo payload { s with link := l } =
        match goRefusal x.state with
        | some code => .error code
        | none => .done [] (goTrack k (startCondOf cond consume number time) { s with link := l }) := by
      rw [handleTrackGo, if_neg hsize, hbyte, readTrack_of_lt ht, hread]
      rfl
    split
    next hbusy =>
      refine refuses_of_blind (exec_trackGo tag payload s) hserves fun l => (hreply l).trans ?_
      obtain hstate | hstate := hbusy <;> rw [hstate] <;> rfl
    next hbusy =>
      split
      next hstate =>
        refine refuses_of_blind (exec_trackGo tag payload s) hserves fun l => (hreply l).trans ?_
        cases hx : x.state <;> simp_all [goRefusal]
      next hstate =>
        have hgo : Completes (.trackGo tag payload) s tag [] (goTrack k (startCondOf cond consume number time) s) := by
          refine completes_of_blind (exec_trackGo tag payload s) hserves (fun l => (hreply l).trans ?_)
            (fun l => goTrack_blind k _ s l)
          cases hx : x.state <;> simp_all [goRefusal]
        refine ⟨?_, ?_, ?_, ?_, ?_⟩
        · rintro rfl
          exact hgo
        · rintro rfl hahead
          have heq : goTrack k (startCondOf 2 consume number time) s =
              s.setTrack k { x with state := .starting, start := .atTime time, startDue := false } := if_pos hahead
          rwa [heq] at hgo
        · rintro rfl hlate
          have heq : goTrack k (startCondOf 2 consume number time) s =
              (s.setTrack k { x with state := .starting, start := .atTime time, startDue := true, late := true }).raise
                (trackSource k) .late := if_neg (by rw [hlate]; exact Bool.false_ne_true)
          rwa [heq] at hgo
        · rintro n rfl hn
          have hline : Fin.ofNat 4 number.toNat = n := Fin.ext ((congrArg (· % 4) hn).trans (Nat.mod_eq_of_lt n.2))
          have heq : goTrack k (startCondOf 3 consume number time) s =
              s.setTrack k { x with state := .starting, start := .trigger n, startDue := false } := by
            rw [← hline]
            rfl
          rwa [heq] at hgo
        · rintro rfl
          exact hgo
  next h =>
    refine refuses_of_blind (exec_trackGo tag payload s) hserves fun l => ?_
    rw [handleTrackGo, if_neg hsize, hbyte]
    by_cases ht : t.toNat < 48
    · rw [readStartCond_of_not_ok fun hok => h ⟨ht, hok⟩]
      cases readTrack t.toNat <;> rfl
    · rw [readTrack_of_ge ht]

/-- Settles O30. -/
theorem trackStopFollowsItsTable : Obligations.TrackStopFollowsItsTable := by
  unfold Obligations.TrackStopFollowsItsTable
  intro s tag t mode h hserves c
  split
  next hk =>
    intro k x
    obtain ⟨ht, hok⟩ := hk
    have hdone {tr : Track} (hstop : x.stopRequest (stopModeOf mode h) = .ok tr) :
        Completes c s tag [] (s.setTrack k tr) := trackStop_completes hserves ht hok hstop
    have hrefused {code : AnswerCode} (hstop : x.stopRequest (stopModeOf mode h) = .error code) :
        Refuses c s tag code := trackStop_refuses hserves ht hok hstop
    split
    next hstate => exact hdone (by rw [Track.stopRequest, hstate]; rfl)
    next hstate =>
      have hplay := hdone (tr := x.stopPlaying (stopModeOf mode h)) (by rw [Track.stopRequest, hstate])
      rw [Track.stopPlaying] at hplay
      split
      next hnow =>
        rw [if_pos hnow, State.setTrack_self] at hplay
        exact hplay
      next hnow =>
        rw [if_neg hnow] at hplay
        simp only [stopModeOf_eq_now] at hplay
        split
        next hmode => rwa [if_pos hmode] at hplay
        next hmode =>
          rw [if_neg hmode] at hplay
          rw [stopModeOf, if_neg hmode] at hplay
          split
          next hfade => rwa [if_pos hfade] at hplay
          next hfade => rwa [if_neg hfade] at hplay
    next hstate => exact hdone (by rw [Track.stopRequest, hstate])
    next hstate =>
      split
      next hmode => exact hdone (by rw [Track.stopRequest, hstate]; exact if_pos (stopModeOf_eq_now.mpr hmode))
      next hmode =>
        exact hrefused (by rw [Track.stopRequest, hstate]; exact if_neg fun hnow => hmode (stopModeOf_eq_now.mp hnow))
    all_goals
      next hstate => exact hrefused (by rw [Track.stopRequest, hstate])
  next hk =>
    refine refuses_of_blind (exec_trackStop tag [t, mode, h] s) hserves fun l => ?_
    have hsize : ¬ [t, mode, h].length ≠ 3 := by simp
    have hbyte : byteAt [t, mode, h] 0 = t.toNat := rfl
    rw [handleTrackStop, if_neg hsize, hbyte]
    by_cases ht : t.toNat < 48
    · rw [readStopMode_of_not_ok fun hok => hk ⟨ht, hok⟩]
      cases readTrack t.toNat <;> rfl
    · rw [readTrack_of_ge ht]

/-- Settles O32. -/
theorem tuneAndFeedWriteTheirCopies : Obligations.TuneAndFeedWriteTheirCopies := by
  unfold Obligations.TuneAndFeedWriteTheirCopies
  refine ⟨?_, ?_, ?_⟩
  · intro s tag t mode now z d0 d1 d2 d3 w0 w1 w2 w3 trim y g0 g1 o0 o1 payload detune sweep hserves
    have hsize : payload.length = 18 := rfl
    have hbyte : byteAt payload 0 = t.toNat := rfl
    have hread := readTune_eq t mode now z d0 d1 d2 d3 w0 w1 w2 w3 trim y g0 g1 o0 o1
    simp only [inRange_iff] at hread
    split
    next h =>
      intro k x tuned
      obtain ⟨ht, hmode, hnow, hz, hlow, hhigh, hsweep, hsweep', htrim, hy⟩ := h
      replace hread := hread.trans (if_pos ⟨hmode, hnow, hz, ⟨hlow, hhigh⟩, ⟨hsweep, hsweep'⟩, htrim, hy⟩)
      have hdone := completes_of_blind
        (f := fun u => u.modTrack k fun tr => tr.tune (tuneOf mode now trim detune sweep (g1 ++ g0) (o1 ++ o0)))
        (exec_trackTune tag payload s) hserves
        (fun l => (handleTrackTune_eq hsize _).trans (by rw [hbyte, readTrack_of_lt ht, hread])) fun l => rfl
      rw [State.modTrack, Track.tune] at hdone
      simp only [TrackState.writesBoth_iff] at hdone
      split
      next hboth =>
        rw [if_pos hboth] at hdone
        exact hdone
      next hboth =>
        rw [if_neg hboth] at hdone
        exact hdone
    next h =>
      refine refuses_of_blind (exec_trackTune tag payload s) hserves fun l => (handleTrackTune_eq hsize _).trans ?_
      by_cases ht : t.toNat < 48
      · have hnone := hread.trans (if_neg fun ⟨hmode, hnow, hz, hd, hs, htrim, hy⟩ =>
          h ⟨ht, hmode, hnow, hz, hd.1, hd.2, hs.1, hs.2, htrim, hy⟩)
        rw [hnone]
        cases readTrack (byteAt payload 0) <;> rfl
      · rw [hbyte, readTrack_of_ge ht]
  · intro s tag t now n fs h payload k x hnow hn hlen hoffset hports hserves
    have hbytes : payload = [t, now, n, 0] ++ fs.flatMap Feed.bytes := by
      rw [funext Feed.bytes_eq]
    have hrest : (fs.flatMap Feed.bytes).length = 4 * n.toNat := by
      rw [List.length_flatMap, hn, funext fun f : Feed => congrArg List.length f.bytes_eq]
      simp [Nat.mul_comm]
    have hfeeds := readFeeds_flatMap fs hoffset
    rw [← hn] at hfeeds
    have hdistinct : feedsDistinct fs = true := by
      rw [feedsDistinct, Bool.and_eq_true, decide_eq_true_eq, decide_eq_true_eq]
      exact ⟨hlen, hports⟩
    have hread : readFeedList ([t, now, n, 0] ++ fs.flatMap Feed.bytes) = some (decide (now = 1), fs) := by
      rw [readFeedList_eq, readBool_toNat, if_pos hnow, hfeeds]
      exact if_pos ⟨rfl, hdistinct⟩
    rw [hbytes] at hserves ⊢
    have hdone := completes_of_blind (f := fun u => u.modTrack k fun tr => tr.feed (decide (now = 1)) fs)
      (exec_trackFeed tag ([t, now, n, 0] ++ fs.flatMap Feed.bytes) s) hserves
      (fun l => (handleTrackFeed_eq hrest _).trans (by rw [hread, readTrack_of_lt h])) fun l => rfl
    rw [State.modTrack, Track.feed] at hdone
    simp only [TrackState.writesBoth_iff] at hdone
    exact hdone
  · intro s tag t now n z rest payload hrest hbad hserves
    refine refuses_of_blind (exec_trackFeed tag payload s) hserves fun l => (handleTrackFeed_eq hrest _).trans ?_
    by_cases ht : t.toNat < 48
    · have hnone : readFeedList ([t, now, n, z] ++ rest) = none := by
        rw [readFeedList_eq]
        refine Option.eq_none_iff_forall_ne_some.mpr fun v hv => ?_
        simp only [Option.bind_eq_some_iff, Option.ite_none_right_eq_some] at hv
        obtain ⟨w, hw, fs, hfs, ⟨hz, hdistinct⟩, -⟩ := hv
        obtain ⟨hlen, hall⟩ := readFeeds_spec hfs
        rw [feedsDistinct, Bool.and_eq_true, decide_eq_true_eq, decide_eq_true_eq] at hdistinct
        obtain ⟨hfour, hnodup⟩ := hdistinct
        obtain hbig | hnow | hz' | hmany | ⟨i, hi, hfield⟩ | ⟨i, j, hij, hj, hsame⟩ := hbad
        · omega
        · rw [readBool_toNat, if_neg (by omega)] at hw
          cases hw
        · exact hz' (BitVec.eq_of_toNat_eq hz)
        · omega
        · obtain ⟨f, _, hport, hoffset⟩ := hall i hi
          have hlt := f.port.isLt
          obtain hport' | hoffset' := hfield
          · exact absurd hport' (by rw [byteAt] at hport; omega)
          · exact absurd hoffset' (Nat.not_lt.mpr hoffset)
        · obtain ⟨f, hf, hport, _⟩ := hall i (by omega)
          obtain ⟨g, hg, hport', _⟩ := hall j hj
          have heq : f.port = g.port := Fin.ext (by rw [hport, hport', byteAt, byteAt, hsame])
          obtain ⟨hilt, hfi⟩ := List.getElem?_eq_some_iff.mp hf
          obtain ⟨hjlt, hgj⟩ := List.getElem?_eq_some_iff.mp hg
          have hinj := (List.Nodup.getElem_inj_iff hnodup (i := i) (j := j) (hi := by simpa using hilt)
            (hj := by simpa using hjlt)).mp (by rw [List.getElem_map, List.getElem_map, hfi, hgj, heq])
          omega
      rw [hnone]
      cases readTrack t.toNat <;> rfl
    · rw [readTrack_of_ge ht]

end Sys2Proof.Proofs.TrackRequests
end

section
/-! PROOFS. TRACK ARM, TRACK BREAK and TRACK CLEAR (chapters 02 and 03): O28, O31, O33. The discards and the walk that
follows them, as far as slots, requests and copies go. -/

namespace Sys2Proof.Machine

/-! ### The link stands aside -/

/-- The state with another link. -/
def State.withLink (s : State) (l : Link) : State := { s with link := l }

@[simp] theorem State.withLink_link (s : State) (l : Link) : (s.withLink l).link = l := rfl
@[simp] theorem State.withLink_cue (s : State) (l : Link) : (s.withLink l).cue = s.cue := rfl
@[simp] theorem State.withLink_store (s : State) (l : Link) : (s.withLink l).store = s.store := rfl
@[simp] theorem State.withLink_slotSeq (s : State) (l : Link) : (s.withLink l).slotSeq = s.slotSeq := rfl
@[simp] theorem State.withLink_timeline (s : State) (l : Link) : (s.withLink l).timeline = s.timeline := rfl
@[simp] theorem State.withLink_track (s : State) (l : Link) (t : TrackId) : (s.withLink l).track t = s.track t := rfl
@[simp] theorem State.withLink_bank (s : State) (l : Link) (b : BankId) : (s.withLink l).bank b = s.bank b := rfl
@[simp] theorem State.withLink_clip (s : State) (l : Link) (c : ClipId) : (s.withLink l).clip c = s.clip c := rfl
@[simp] theorem State.withLink_sector (s : State) (l : Link) (b : BankId) (n : Nat) :
    (s.withLink l).sector b n = s.sector b n := rfl
@[simp] theorem State.withLink_notice (s : State) (l : Link) (n : SourceId) : (s.withLink l).notice n = s.notice n := rfl
@[simp] theorem State.withLink_cueEntry (s : State) (l : Link) (i : CueIndex) :
    (s.withLink l).cueEntry i = s.cueEntry i := rfl
@[simp] theorem State.withLink_validate (s : State) (l : Link) (e : CueEntry) :
    (s.withLink l).validate e = s.validate e := rfl

theorem State.withLink_setTrack (s : State) (l : Link) (t : TrackId) (x : Track) :
    (s.withLink l).setTrack t x = (s.setTrack t x).withLink l := rfl

theorem Undisturbed.withLink {s u : State} {l : Link} (h : Undisturbed (s.withLink l) u) :
    Undisturbed s (u.withLink s.link) :=
  { held := h.held, link := rfl, levels := h.levels, enable := h.enable, timeline := h.timeline, cue := h.cue
    scanning := h.scanning, clips := h.clips, flash := h.flash, tables := h.tables, sectors := h.sectors
    banks := h.banks, policy := h.policy, pages := h.pages, triggers := h.triggers, captures := h.captures
    overrun := h.overrun, pending := h.pending }

theorem BankWork.withLink {s u : State} {l : Link} (h : BankWork (s.withLink l) u) :
    BankWork s (u.withLink s.link) :=
  { h.toUndisturbed.withLink with
    notices := h.notices, tracks := h.tracks, slotSeq := h.slotSeq, flags := h.flags, ports := h.ports
    markers := h.markers, work := h.work }

theorem LookaheadWork.withLink {t : TrackId} {s u : State} {l : Link} (h : LookaheadWork t (s.withLink l) u) :
    LookaheadWork t s (u.withLink s.link) :=
  { h.toUndisturbed.withLink with
    notices := h.notices, others := h.others, own := h.own, primed := h.primed, slotSeq := h.slotSeq, flags := h.flags
    ports := h.ports, markers := h.markers, work := h.work }

/-! ### Changes beside the banks' work -/

/-- What the banks do, seen behind a change of one track that leaves slots to the banks. -/
theorem BankWork.modTrack {s u : State} (h : BankWork s u) (t : TrackId) {f : Track → Track}
    (hf : ∀ a b : Track, a.SameBut b → (f a).SameBut (f b)) : BankWork (s.modTrack t f) (u.modTrack t f) :=
  { held := h.held, link := h.link, levels := h.levels, enable := h.enable, timeline := h.timeline, cue := h.cue
    scanning := h.scanning, clips := h.clips, flash := h.flash, tables := h.tables, sectors := h.sectors
    banks := h.banks, policy := h.policy, pages := h.pages, triggers := h.triggers, captures := h.captures
    overrun := h.overrun, pending := h.pending, notices := h.notices, slotSeq := h.slotSeq, flags := h.flags
    ports := h.ports, markers := h.markers, work := h.work
    tracks := fun k => by
      rw [State.modTrack_track, State.modTrack_track]
      split
      · exact hf _ _ (h.tracks t)
      · exact h.tracks k }

/-- What the banks do, seen behind a change of a record of another source. -/
theorem BankWork.setNotice {s u : State} (h : BankWork s u) {n : SourceId} (hn : ∀ b, n ≠ bankSource b)
    (r : Option Notice) : BankWork (s.setNotice n r) (u.setNotice n r) :=
  { held := h.held, link := h.link, levels := h.levels, enable := h.enable, timeline := h.timeline, cue := h.cue
    scanning := h.scanning, clips := h.clips, flash := h.flash, tables := h.tables, sectors := h.sectors
    policy := h.policy, pages := h.pages, triggers := h.triggers, captures := h.captures
    overrun := h.overrun, pending := h.pending, slotSeq := h.slotSeq, flags := h.flags
    ports := h.ports, markers := h.markers, work := h.work, tracks := h.tracks
    banks := fun b => by
      rw [State.setNotice_notice_other _ _ _ _ (hn b), State.setNotice_notice_other _ _ _ _ (hn b)]
      exact h.banks b
    notices := fun k hk => by
      rw [State.setNotice_notice, State.setNotice_notice]
      split
      · rfl
      · exact h.notices k hk }

/-- The track with another ring. -/
def Track.withRing (tr : Track) (r : List Slot) : Track := { tr with ring := r }

theorem Track.withRing_self (tr : Track) : tr.withRing tr.ring = tr := rfl

theorem Track.withRing_ring (tr : Track) (r : List Slot) : (tr.withRing r).ring = r := rfl

theorem Track.sameBut_iff {a b : Track} : a.SameBut b ↔ ∃ r, b = a.withRing r ∧ List.Forall₂ Slot.SameBut a.ring r := by
  constructor
  · rintro ⟨heq, hslots⟩
    refine ⟨b.ring, ?_, hslots⟩
    rw [← heq]
    rfl
  · rintro ⟨r, rfl, hslots⟩
    exact ⟨rfl, hslots⟩

/-- A change that leaves the ring, and does not look at it, leaves slots to the banks. -/
theorem Track.SameBut.map {f : Track → Track} (hf : ∀ a r, f (a.withRing r) = (f a).withRing r) {a b : Track}
    (h : a.SameBut b) : (f a).SameBut (f b) := by
  obtain ⟨r, rfl, hslots⟩ := Track.sameBut_iff.mp h
  have hring : (f a).ring = a.ring := by
    have hself := hf a a.ring
    rw [Track.withRing_self] at hself
    rw [hself, Track.withRing_ring]
  exact Track.sameBut_iff.mpr ⟨r, hf a r, by rw [hring]; exact hslots⟩

theorem Track.transfer_withRing (a : Track) (r : List Slot) : (a.withRing r).transfer = a.transfer.withRing r := by
  unfold Track.transfer Track.restartGate Track.withRing
  dsimp only
  split
  · split <;> rfl
  · rfl

/-- A request completes with what its handler makes of the state it is met in, the link apart. -/
theorem completes_of_link {c : Instr} {s : State} {r : Request} {handler : List Byte → State → Reply}
    {payload : List Byte} {f : State → State} (he : exec c s = .next (s.event (serve handler r))) (h : s.serves r)
    (hreply : ∀ l, handler r.payload (s.withLink l) = .done payload (f (s.withLink l)))
    (hlink : ∀ u, (f u).link = u.link) :
    ∃ l, Completes c s r.tag payload ((f (s.withLink l)).withLink s.link) := by
  obtain ⟨l, hmet⟩ := met_eq_withLink s r
  refine ⟨l, completes_withLink he h ?_ ?_⟩
  · rw [hmet]
    exact hreply l
  · rw [hmet, hlink]
    rfl

theorem State.modTrack_modTrack (s : State) (t : TrackId) (f g : Track → Track) :
    (s.modTrack t f).modTrack t g = s.modTrack t fun tr => g (f tr) := by
  rw [State.modTrack, State.modTrack_track_same]
  simp only [State.modTrack, State.setTrack, Vector.set_set]

/-! ### The discard of a whole queue and ring (R75) -/

/-- The track with nothing prepared: queue and ring empty, the walk stopped and no decision waiting. -/
def Track.emptied (tr : Track) : Track := { tr with queue := [], ring := [], walk := Walk.stopped, decision := .none }

/-- The state from which the banks go on as a track's queue and ring are discarded. -/
theorem discardAll_opening (t : TrackId) (s : State) :
    (s.modTrack t fun tr => { tr with queue := [], walk := Walk.stopped, decision := .none }).modTrack t
        (fun tr => { tr with ring := tr.ring.filter fun x => !((s.track t).ring.map Slot.id).contains x.id }) =
      s.modTrack t Track.emptied := by
  have hnone : (s.track t).ring.filter (fun x => !((s.track t).ring.map Slot.id).contains x.id) = [] := by
    refine List.filter_eq_nil_iff.mpr fun x hx => ?_
    have hmem := List.mem_map_of_mem (f := Slot.id) hx
    simp only [List.contains_iff_mem.mpr hmem, Bool.not_true, Bool.false_eq_true, not_false_eq_true]
  rw [State.modTrack_modTrack]
  simp only [State.modTrack, hnone]
  rfl

theorem discardAll_bankWork (t : TrackId) (s : State) : BankWork (s.modTrack t Track.emptied) (discardAll t s) := by
  rw [← discardAll_opening]
  exact dropSlots_work t _ _

theorem discardAll_serving (t : TrackId) (s : State) :
    Serving (fun _ n => n ∈ (s.track t).ring.map Slot.id) (s.modTrack t Track.emptied) (discardAll t s) := by
  rw [← discardAll_opening]
  exact dropSlots_serving t _ _

/-- A slot of another track asks for what a request of the emptied track's state stands for. -/
theorem asks_of_emptied {s : State} {t : TrackId} {f : FetchRequest} (h : (s.modTrack t Track.emptied).asks f) :
    ∃ j, j ≠ t ∧ ∃ z ∈ (s.track j).ring, z.id = f.slot := by
  rw [State.asks, State.modTrack_track] at h
  split at h
  · exact absurd h List.not_mem_nil
  next hne =>
    obtain ⟨z, hz, hid⟩ := List.mem_map.mp h
    exact ⟨f.track, Ne.symm hne, z, hz, hid⟩

/-- A bank's requests behind the discard: those of the track's slots are withdrawn, the others stay or are read. -/
theorem discardAll_requests (t : TrackId) (s : State) (b : BankId) :
    (∀ f ∈ ((discardAll t s).bank b).fetch, ∀ y ∈ (s.track t).ring,
        f.slot ≠ y.id ∨ ∃ j, j ≠ t ∧ ∃ z ∈ (s.track j).ring, z.id = y.id) ∧
      (∀ f, (s.bank b).inFlight = some f → ((discardAll t s).bank b).inFlight = some f) ∧
      ∀ f ∈ (s.bank b).fetch, (∀ y ∈ (s.track t).ring, f.slot ≠ y.id) →
        f ∈ ((discardAll t s).bank b).fetch ∨ ((discardAll t s).bank b).inFlight = some f := by
  have hserving := discardAll_serving t s
  have hstays := hserving.stays b
  have hflight := hserving.flight b
  have hjoins := hserving.joins b
  rw [State.modTrack_bank] at hstays hflight hjoins
  refine ⟨fun f hf y hy => ?_, hflight, fun f hf hother => hstays f hf ?_⟩
  · by_cases heq : f.slot = y.id
    · obtain ⟨-, hgone⟩ | hasks := hjoins f hf
      · exact absurd (heq ▸ List.mem_map_of_mem hy) hgone
      · obtain ⟨j, hj, z, hz, hid⟩ := asks_of_emptied hasks
        exact .inr ⟨j, hj, z, hz, hid.trans heq⟩
    · exact .inl heq
  · intro hmem
    obtain ⟨y, hy, heq⟩ := List.mem_map.mp hmem
    exact hother y hy heq.symm

/-! ### TRACK CLEAR (R50) -/

/-- The fields TRACK CLEAR takes to their reset values; a waiting staged set becomes active (R50). -/
def Track.cleared (tr : Track) : Track :=
  { tr.transfer with
    state := .idle, playNumber := 1, block := 0, stopFade := 0, lastPlay := false, breakPending := false
    primed := false, link := none, start := .none, startDue := false, stop := .none, underruns := 0, readFaults := 0
    short := false, edge := false, late := false, faultReason := .none }

theorem clearTrack_eq (t : TrackId) (s : State) : clearTrack t s = (discardAll t s).modTrack t Track.cleared := rfl

theorem Track.cleared_withRing (a : Track) (r : List Slot) : (a.withRing r).cleared = a.cleared.withRing r := by
  rw [Track.cleared, Track.transfer_withRing]
  rfl

theorem Track.emptied_transfer (a : Track) : a.emptied.transfer = a.transfer.emptied := by
  unfold Track.transfer Track.restartGate Track.emptied
  dsimp only
  split
  · split <;> rfl
  · rfl

theorem Track.emptied_cleared (a : Track) : a.emptied.cleared = a.cleared.emptied := by
  rw [Track.cleared, Track.emptied_transfer]
  rfl

theorem clearTrack_bankWork (t : TrackId) (s : State) :
    BankWork (s.setTrack t (s.track t).cleared.emptied) (clearTrack t s) := by
  have hwork := (discardAll_bankWork t s).modTrack t fun _ _ => Track.SameBut.map Track.cleared_withRing
  rw [State.modTrack_modTrack] at hwork
  simp only [Track.emptied_cleared] at hwork
  exact hwork

/-- A bank's requests behind a TRACK CLEAR: those of the track's slots are withdrawn, the others stay or are read. -/
theorem clearTrack_requests (t : TrackId) (s : State) (b : BankId) :
    (∀ f ∈ ((clearTrack t s).bank b).fetch, ∀ y ∈ (s.track t).ring,
        f.slot ≠ y.id ∨ ∃ j, j ≠ t ∧ ∃ z ∈ (s.track j).ring, z.id = y.id) ∧
      (∀ f, (s.bank b).inFlight = some f → ((clearTrack t s).bank b).inFlight = some f) ∧
      ∀ f ∈ (s.bank b).fetch, (∀ y ∈ (s.track t).ring, f.slot ≠ y.id) →
        f ∈ ((clearTrack t s).bank b).fetch ∨ ((clearTrack t s).bank b).inFlight = some f := by
  rw [clearTrack_eq, State.modTrack_bank]
  exact discardAll_requests t s b

theorem clearTrack_link (t : TrackId) (s : State) : (clearTrack t s).link = s.link :=
  (aside_eq_iff.mp (clearTrack_aside t s)).1

theorem handleTrackClear_eq {t : Byte} (ht : t.toNat < 48) (s : State) :
    handleTrackClear [t] s =
      if (s.track ⟨t.toNat, ht⟩).state = .starting ∨ (s.track ⟨t.toNat, ht⟩).state = .stopping then .error .busy
      else .done [] (clearTrack ⟨t.toNat, ht⟩ s) := by
  have hsize : ¬ [t].length ≠ 1 := by simp
  have hbyte : byteAt [t] 0 = t.toNat := rfl
  rw [handleTrackClear, if_neg hsize, hbyte, readTrack_of_lt ht]
  dsimp only
  cases (s.track ⟨t.toNat, ht⟩).state <;> rfl

theorem exec_trackClear (tag : Byte) (p : List Byte) (s : State) :
    exec (.trackClear tag p) s = .next (s.event (serve handleTrackClear { tag := tag, code := 0x47, payload := p })) :=
  rfl

end Sys2Proof.Machine

namespace Sys2Proof.Proofs.TrackPrograms

open Sys2Proof Sys2Proof.Machine

/-- Settles O33. -/
theorem trackClearGoesIdle : Obligations.TrackClearGoesIdle := by
  unfold Obligations.TrackClearGoesIdle
  intro s tag t hserves
  split
  next h =>
    intro k x
    split
    next hbusy =>
      exact refuses_of_blind (exec_trackClear tag [t] s) hserves fun l =>
        (handleTrackClear_eq h _).trans (if_pos hbusy)
    next hbusy =>
      obtain ⟨l, hdone⟩ := completes_of_link (exec_trackClear tag [t] s) hserves
        (fun l => (handleTrackClear_eq h _).trans (if_neg hbusy)) (clearTrack_link k)
      have hwork := clearTrack_bankWork k (s.withLink l)
      rw [State.withLink_setTrack] at hwork
      refine ⟨_, hdone, hwork.withLink, fun b => ?_⟩
      have hrequests := clearTrack_requests k (s.withLink l) b
      simp only [State.withLink_bank, State.withLink_track] at hrequests ⊢
      exact hrequests
  next h =>
    refine refuses_of_blind (exec_trackClear tag [t] s) hserves fun l => ?_
    have hsize : ¬ [t].length ≠ 1 := by simp
    have hbyte : byteAt [t] 0 = t.toNat := rfl
    rw [handleTrackClear, if_neg hsize, hbyte, readTrack_of_ge h]

end Sys2Proof.Proofs.TrackPrograms
end

section
/-! PROOFS. What the walk copies and when it primes its track (chapter 03, R30, R57, R64); TRACK ARM and TRACK BREAK:
O28 and O31. -/

namespace Sys2Proof.Machine

/-! ### The copies a walk takes -/

/-- Copy `d` is copy `c`, with as many plays prepared as may be. -/
def Copy.Prepared (c d : Copy) : Prop := ∃ n, d = { c with prepared := n }

theorem Copy.Prepared.refl (c : Copy) : c.Prepared c := ⟨c.prepared, rfl⟩

theorem Copy.Prepared.trans {c d e : Copy} (h : c.Prepared d) (k : d.Prepared e) : c.Prepared e := by
  obtain ⟨n, rfl⟩ := h
  obtain ⟨m, rfl⟩ := k
  exact ⟨m, rfl⟩

theorem prepared_refl (cs : List Copy) : List.Forall₂ Copy.Prepared cs cs :=
  List.forall₂_same.mpr fun c _ => Copy.Prepared.refl c

theorem prepared_trans {as bs cs : List Copy} (h : List.Forall₂ Copy.Prepared as bs)
    (k : List.Forall₂ Copy.Prepared bs cs) : List.Forall₂ Copy.Prepared as cs := by
  induction h generalizing cs with
  | nil => exact k
  | cons hab _ ih =>
    cases k with
    | cons hbc hrest => exact .cons (hab.trans hbc) (ih hrest)

theorem prepared_append {as bs cs : List Copy} (h : List.Forall₂ Copy.Prepared (as ++ bs) cs) :
    ∃ ds es, cs = ds ++ es ∧ List.Forall₂ Copy.Prepared as ds ∧ List.Forall₂ Copy.Prepared bs es := by
  induction as generalizing cs with
  | nil => exact ⟨[], cs, rfl, .nil, h⟩
  | cons a as ih =>
    cases h with
    | cons hfirst hrest =>
      obtain ⟨ds, es, rfl, hds, hes⟩ := ih hrest
      exact ⟨_ :: ds, es, rfl, .cons hfirst hds, hes⟩

theorem prepared_mem {as bs : List Copy} (h : List.Forall₂ Copy.Prepared as bs) {d : Copy} (hd : d ∈ bs) :
    ∃ c ∈ as, c.Prepared d := by
  induction h with
  | nil => exact absurd hd List.not_mem_nil
  | cons hfirst _ ih =>
    obtain rfl | hd := List.mem_cons.mp hd
    · exact ⟨_, List.mem_cons_self, hfirst⟩
    · obtain ⟨c, hc, hprepared⟩ := ih hd
      exact ⟨c, List.mem_cons_of_mem _ hc, hprepared⟩

theorem copyOf_congr {s u : State} (hcue : u.cue = s.cue) (hclips : u.store.clips = s.store.clips) (i : CueIndex)
    (path : PathTag) (trailing : Bool) : u.copyOf i path trailing = s.copyOf i path trailing := by
  have hentry : u.cueEntry i = s.cueEntry i := by rw [State.cueEntry, hcue, State.cueEntry]
  have hclip (c : ClipId) : u.clip c = s.clip c := by rw [State.clip, hclips, State.clip]
  have hvalidate (e : CueEntry) : u.validate e = s.validate e := by
    unfold State.validate
    simp only [hclip]
  rw [State.copyOf, hentry, hvalidate, State.copyOf]

/-- The copy was taken as cue memory and the clip directory of `s` stand. -/
def State.tookCopy (s : State) (c : Copy) : Prop := ∃ i path trailing, (s.copyOf i path trailing).Prepared c

theorem tookCopy_spec {s : State} {c : Copy} (h : s.tookCopy c) :
    c.entry = s.cueEntry c.index ∧ (c.status, c.length) = s.validate c.entry := by
  obtain ⟨i, path, trailing, n, rfl⟩ := h
  exact ⟨rfl, rfl⟩

/-- What the walk of track `t` does to its queue: the copies stay, as much of them prepared as may be, and new ones join
them. The rest of the track stays. -/
structure Copying (t : TrackId) (s u : State) : Prop where
  queue : ∃ kept new, (u.track t).queue = kept ++ new ∧ List.Forall₂ Copy.Prepared (s.track t).queue kept ∧
    ∀ c ∈ new, s.tookCopy c
  rest : { u.track t with queue := (s.track t).queue, ring := (s.track t).ring, walk := (s.track t).walk } = s.track t
  cue : u.cue = s.cue
  clips : u.store.clips = s.store.clips

namespace Copying

theorem refl (t : TrackId) (s : State) : Copying t s s :=
  ⟨⟨(s.track t).queue, [], (List.append_nil _).symm, prepared_refl _, fun _ hc => absurd hc List.not_mem_nil⟩, rfl, rfl,
    rfl⟩

theorem trans {t : TrackId} {s u v : State} (h : Copying t s u) (k : Copying t u v) : Copying t s v where
  queue := by
    obtain ⟨kept, new, hqueue, hkept, hnew⟩ := h.queue
    obtain ⟨kept', new', hqueue', hkept', hnew'⟩ := k.queue
    rw [hqueue] at hkept'
    obtain ⟨ds, es, rfl, hds, hes⟩ := prepared_append hkept'
    refine ⟨ds, es ++ new', by rw [hqueue', List.append_assoc], prepared_trans hkept hds, fun c hc => ?_⟩
    obtain hc | hc := List.mem_append.mp hc
    · obtain ⟨d, hd, hprepared⟩ := prepared_mem hes hc
      obtain ⟨i, path, trailing, htook⟩ := hnew d hd
      exact ⟨i, path, trailing, htook.trans hprepared⟩
    · obtain ⟨i, path, trailing, htook⟩ := hnew' c hc
      rw [copyOf_congr h.cue h.clips] at htook
      exact ⟨i, path, trailing, htook⟩
  rest := by
    have hrest := congrArg (fun tr : Track =>
      { tr with queue := (s.track t).queue, ring := (s.track t).ring, walk := (s.track t).walk }) k.rest
    exact hrest.trans h.rest
  cue := k.cue.trans h.cue
  clips := k.clips.trans h.clips

/-- A change of the queue and the walk of the own track. -/
theorem setTrack {t : TrackId} {s : State} {tr : Track}
    (hqueue : ∃ kept new, tr.queue = kept ++ new ∧ List.Forall₂ Copy.Prepared (s.track t).queue kept ∧
      ∀ c ∈ new, s.tookCopy c)
    (hrest : { tr with queue := (s.track t).queue, ring := (s.track t).ring, walk := (s.track t).walk } = s.track t) :
    Copying t s (s.setTrack t tr) := by
  refine ⟨?_, ?_, rfl, rfl⟩
  · rw [State.setTrack_track_same]
    exact hqueue
  · rw [State.setTrack_track_same]
    exact hrest

end Copying

theorem addSlot_bankWork (t : TrackId) (x : Slot) (s : State) : BankWork (s.pushSlot t x) (addSlot t x s) := by
  unfold addSlot
  dsimp only
  split
  · exact BankWork.refl _
  · split
    · exact (bankSettle_work _ _).after (joinFetch_work _ _ _)
    · exact BankWork.refl _

theorem addSlot_copying (t : TrackId) (x : Slot) (s : State) : Copying t s (addSlot t x s) := by
  have hwork := addSlot_bankWork t x s
  have hown : (s.pushSlot t x).track t = { s.track t with ring := (s.track t).ring ++ [x] } :=
    State.setTrack_track_same s t _
  obtain ⟨heq, _⟩ := hwork.tracks t
  rw [hown] at heq
  have hqueue : ((addSlot t x s).track t).queue = (s.track t).queue := (congrArg Track.queue heq :)
  refine ⟨⟨(s.track t).queue, [], ?_, prepared_refl _, fun _ hc => absurd hc List.not_mem_nil⟩, ?_, hwork.cue, hwork.clips⟩
  · rw [hqueue, List.append_nil]
  · have hrest := congrArg (fun tr : Track =>
      { tr with queue := (s.track t).queue, ring := (s.track t).ring, walk := (s.track t).walk }) heq
    exact hrest

theorem Track.walkOn_queue (tr : Track) (c : Copy) : (tr.walkOn c).queue = tr.queue := by
  rw [tr.walkOn_eq]

/-- The end of a play prepares one more play of the back copy, or rests beyond a HOLD (R65, R68). -/
theorem Track.endOfPlay_queue {tr : Track} {c : Copy} (h : tr.queue.getLast? = some c) :
    List.Forall₂ Copy.Prepared tr.queue (tr.endOfPlay c).queue := by
  unfold Track.endOfPlay
  dsimp only
  split
  · exact prepared_refl _
  · have hqueue : tr.queue = tr.queue.dropLast ++ [c] := (List.dropLast_append_getLast? c h).symm
    have hnext : List.Forall₂ Copy.Prepared tr.queue (tr.queue.dropLast ++ [{ c with prepared := c.prepared + 1 }]) := by
      conv_lhs => rw [hqueue]
      exact List.rel_append (prepared_refl _) (.cons ⟨_, rfl⟩ .nil)
    split
    · exact hnext
    · rw [Track.walkOn_queue]
      exact hnext

theorem walkStep_copying {t : TrackId} {s u : State} (h : walkStep t s = some u) : Copying t s u := by
  simp only [walkStep] at h
  split at h
  case h_1 | h_2 | h_3 | h_4 => cases h
  case h_5 i trailing hphase =>
    split at h
    · cases h
      refine Copying.setTrack ⟨(s.track t).queue, [_], rfl, prepared_refl _, fun c hc => ?_⟩ rfl
      exact ⟨i, .main, trailing, List.mem_singleton.mp hc ▸ Copy.Prepared.refl _⟩
    · cases h
  case h_6 k hphase =>
    split at h
    · cases h
    next c hc =>
      split at h
      · cases h
        exact Copying.setTrack ⟨_, [], (List.append_nil _).symm, Track.endOfPlay_queue hc, fun _ hc =>
          absurd hc List.not_mem_nil⟩ (Track.endOfPlay_same _ _)
      · split at h
        · cases h
          refine Copying.trans ?_ (addSlot_copying t _ _)
          exact Copying.setTrack ⟨(s.track t).queue, [], (List.append_nil _).symm, prepared_refl _, fun _ hc =>
            absurd hc List.not_mem_nil⟩ rfl
        · cases h
  case h_7 hphase =>
    split at h
    · cases h
    next c hc =>
      split at h
      · cases h
        refine Copying.setTrack ⟨(s.track t).queue, [_, _], rfl, prepared_refl _, fun d hd => ?_⟩ rfl
        obtain rfl | hd := List.mem_cons.mp hd
        · exact ⟨_, _, _, Copy.Prepared.refl _⟩
        · obtain rfl := List.mem_singleton.mp hd
          exact ⟨_, _, _, Copy.Prepared.refl _⟩
      · cases h
  case h_8 hphase =>
    split at h
    · cases h
    · split at h
      · cases h
        exact addSlot_copying t _ _
      · cases h

theorem walkLoop_copying (t : TrackId) (n : Nat) (s : State) : Copying t s (walkLoop t n s) := by
  induction n generalizing s with
  | zero => exact Copying.refl t s
  | succ n ih =>
    rw [walkLoop]
    split
    · exact Copying.refl t s
    next u hu => exact (walkStep_copying hu).trans (ih u)

/-! ### Priming (R30) -/

/-- No step of the walk is open to the track (R64, R67). -/
def Track.stuck (tr : Track) : Prop :=
  match tr.walk.phase with
  | .stopped | .hold | .await | .done _ => True
  | .copy _ _ => ¬ tr.queue.length < 4
  | .slots k => ∀ c, tr.queue.getLast? = some c → k < c.length ∧ ¬ tr.ring.length < 8
  | .splitWait => ∀ c, tr.queue.getLast? = some c → ¬ tr.queue.length + 2 ≤ 4
  | .split => ∀ p, tr.nextSplit = some p → ¬ tr.ring.length < 8

theorem ite_some_eq_none {α : Type} {p : Prop} [Decidable p] {a : α} : (if p then some a else none) = none ↔ ¬ p := by
  split
  next h => exact iff_of_false nofun (not_not.mpr h)
  next h => exact iff_of_true rfl h

theorem walkStep_eq_none_iff (t : TrackId) (s : State) : walkStep t s = none ↔ (s.track t).stuck := by
  unfold walkStep Track.stuck
  dsimp only
  cases hphase : (s.track t).walk.phase with
  | stopped => simp
  | hold => simp
  | await => simp
  | done r => simp
  | copy i trailing => exact ite_some_eq_none
  | slots k =>
    cases hc : (s.track t).queue.getLast? with
    | none => simp
    | some c =>
      simp only [Option.some.injEq, forall_eq']
      by_cases hk : c.length ≤ k
      · simp [hk]
      · rw [if_neg hk, ite_some_eq_none]
        exact (and_iff_right (Nat.lt_of_not_le hk)).symm
  | splitWait =>
    cases hc : (s.track t).queue.getLast? with
    | none => simp
    | some c =>
      simp only [Option.some.injEq, forall_eq']
      exact ite_some_eq_none
  | split =>
    cases hc : (s.track t).nextSplit with
    | none => simp
    | some p =>
      simp only [Option.some.injEq, forall_eq']
      exact ite_some_eq_none

theorem primingMet_iff (t : TrackId) (s : State) : primingMet t s = true ↔ s.primes t := by
  unfold primingMet State.primes atRest
  simp only [Bool.or_eq_true, Bool.and_eq_true, decide_eq_true_eq, Option.isNone_iff_eq_none, List.all_eq_true,
    Slot.settled, and_assoc]
  rfl

/-- The priming condition looks at the queue, the ring and the walk alone. -/
theorem primes_congr {s u : State} {t : TrackId} (hqueue : (u.track t).queue = (s.track t).queue)
    (hring : (u.track t).ring = (s.track t).ring) (hwalk : (u.track t).walk = (s.track t).walk) :
    u.primes t ↔ s.primes t := by
  have hstuck : (u.track t).stuck ↔ (s.track t).stuck := by
    unfold Track.stuck Track.nextSplit Track.madeOn
    rw [hqueue, hring, hwalk]
  rw [State.primes, State.primes, walkStep_eq_none_iff, walkStep_eq_none_iff, hstuck, hring, hwalk]

/-- Judging the priming condition of a track not yet primed (R30). -/
theorem checkPriming_primes {s : State} {t : TrackId} (hprimed : (s.track t).primed = false)
    (hstate : (s.track t).state = .priming ∨ (s.track t).state = .starting) :
    (((checkPriming t s).track t).primed = true ↔ (checkPriming t s).primes t) ∧
      ((s.track t).state = .priming → (((checkPriming t s).track t).state = .ready ↔ (checkPriming t s).primes t)) := by
  have hjudged : (!(s.track t).primed && ((s.track t).state = .priming || (s.track t).state = .starting) &&
      primingMet t s) = primingMet t s := by
    obtain h | h := hstate <;> simp [h, hprimed]
  unfold checkPriming
  dsimp only
  rw [hjudged]
  by_cases hmet : primingMet t s = true
  · rw [if_pos hmet]
    have hprimes := (primingMet_iff t s).mp hmet
    by_cases hpriming : (s.track t).state = .priming
    · rw [if_pos hpriming]
      have hstill := (primes_congr (u := (s.setTrack t { s.track t with primed := true, state := .ready }).raise
        (trackSource t) .primed) (by simp) (by simp) (by simp)).mpr hprimes
      exact ⟨iff_of_true (by simp) hstill, fun _ => iff_of_true (by simp) hstill⟩
    · rw [if_neg hpriming]
      refine ⟨iff_of_true ?_ ?_, fun h => absurd h hpriming⟩
      · simp
      · exact (primes_congr (by simp) (by simp) (by simp)).mpr hprimes
  · rw [if_neg hmet]
    have hnot := fun h => hmet ((primingMet_iff t s).mpr h)
    refine ⟨iff_of_false (by simp [hprimed]) hnot, fun h => iff_of_false (by simp [h]) hnot⟩

/-! ### What a walk leaves (R64) -/

theorem checkPriming_sameProgram (t : TrackId) (s : State) :
    ((checkPriming t s).track t).queue = (s.track t).queue ∧ ((checkPriming t s).track t).walk = (s.track t).walk := by
  obtain ⟨hqueue, hwalk, _⟩ := checkPriming_program t s
  exact ⟨hqueue, hwalk⟩

theorem walk_queue (t : TrackId) (s : State) :
    ∃ kept new, ((walk t s).track t).queue = kept ++ new ∧ List.Forall₂ Copy.Prepared (s.track t).queue kept ∧
      ∀ c ∈ new, s.tookCopy c := by
  rw [walk, (checkPriming_sameProgram t _).1]
  exact (walkLoop_copying t walkBound s).queue

/-- A walk leaves its track primed exactly where the track meets the priming condition (R30). -/
theorem walk_primes {t : TrackId} {s : State} (hprimed : (s.track t).primed = false)
    (hstate : (s.track t).state = .priming) :
    (((walk t s).track t).primed = true ↔ (walk t s).primes t) ∧
      (((walk t s).track t).state = .ready ↔ (walk t s).primes t) := by
  have hrest := (walkLoop_copying t walkBound s).rest
  have hprimed' : ((walkLoop t walkBound s).track t).primed = false :=
    (congrArg Track.primed hrest :).trans hprimed
  have hstate' : ((walkLoop t walkBound s).track t).state = .priming := (congrArg Track.state hrest :).trans hstate
  obtain ⟨hfirst, hsecond⟩ := checkPriming_primes hprimed' (.inl hstate')
  exact ⟨hfirst, hsecond hstate'⟩

/-- A walk that begins at an index copies the entry there first. -/
theorem walk_first {t : TrackId} {s : State} {i : CueIndex} {trailing : Bool} (hqueue : (s.track t).queue = [])
    (hphase : (s.track t).walk.phase = .copy i trailing) :
    ∃ c r, ((walk t s).track t).queue = c :: r ∧ (s.copyOf i .main trailing).Prepared c := by
  have hstep : walkStep t s = some (takeCopy t i trailing s) := by
    rw [walkStep_copy hphase, hqueue, if_pos (by decide)]
  have hloop : walkLoop t walkBound s = walkLoop t 63 (takeCopy t i trailing s) := by
    rw [show walkBound = 63 + 1 from rfl, walkLoop, hstep]
  have htaken : ((takeCopy t i trailing s).track t).queue = [s.copyOf i .main trailing] := by
    rw [takeCopy, State.modTrack_track_same, hqueue]
    rfl
  obtain ⟨kept, new, hnew, hkept, -⟩ := (walkLoop_copying t 63 (takeCopy t i trailing s)).queue
  rw [htaken] at hkept
  cases hkept with
  | cons hfirst hnil =>
    cases hnil
    rw [walk, (checkPriming_sameProgram t _).1, hloop, hnew]
    exact ⟨_, _, rfl, hfirst⟩

theorem State.withLink_setNotice (s : State) (l : Link) (n : SourceId) (r : Option Notice) :
    (s.withLink l).setNotice n r = (s.setNotice n r).withLink l := rfl

theorem State.withLink_primes (s : State) (l : Link) (t : TrackId) : (s.withLink l).primes t ↔ s.primes t := by
  refine primes_congr ?_ ?_ ?_
  all_goals rw [State.withLink_track]

/-! ### TRACK ARM (R29) -/

/-- The fields TRACK ARM takes to their values at a new home. -/
def Track.armed (home : CueIndex) (tr : Track) : Track :=
  { tr with
    state := .priming, home := home, playNumber := 1, block := 0, lastPlay := false, primed := false, link := none
    start := .none, startDue := false, stop := .none, underruns := 0, readFaults := 0, short := false, edge := false
    late := false, faultReason := .none }

/-- The walk of the track begins at its home. -/
def Track.restarted (tr : Track) : Track :=
  { tr with walk := { phase := .copy tr.home false, shadow := none, decided := none, after := .none } }

/-- The state from which the lookahead of an armed track walks. -/
def State.armed (s : State) (t : TrackId) (home : CueIndex) : State :=
  ((discardAll t s).modTrack t fun tr => (tr.armed home).restarted).setNotice (trackSource t) none

theorem State.modTrack_setNotice (s : State) (t : TrackId) (f : Track → Track) (n : SourceId) (r : Option Notice) :
    (s.setNotice n r).modTrack t f = (s.modTrack t f).setNotice n r := rfl

theorem armTrack_eq (t : TrackId) (home : CueIndex) (s : State) : armTrack t home s = walk t (s.armed t home) := by
  unfold armTrack restartWalk State.armed
  dsimp only
  rw [State.modTrack_setNotice, State.modTrack_modTrack]
  rfl

/-- The track as TRACK ARM leaves it to the lookahead, the banks served. -/
theorem State.armed_bankWork (s : State) (t : TrackId) (home : CueIndex) :
    BankWork ((s.setTrack t ((s.track t).emptied.armed home).restarted).setNotice (trackSource t) none)
      (s.armed t home) := by
  have hwork := (discardAll_bankWork t s).modTrack t (f := fun tr => (tr.armed home).restarted) fun _ _ h =>
    h.map (f := fun tr => (tr.armed home).restarted) fun _ _ => rfl
  rw [State.modTrack_modTrack] at hwork
  exact hwork.setNotice (fun b => (bankSource_ne_trackSource b t).symm) none

theorem State.armed_track (s : State) (t : TrackId) (home : CueIndex) :
    (s.armed t home).track t = ((s.track t).emptied.armed home).restarted := by
  obtain ⟨r, heq, hslots⟩ := Track.sameBut_iff.mp ((s.armed_bankWork t home).tracks t)
  have hbase : ((s.setTrack t ((s.track t).emptied.armed home).restarted).setNotice (trackSource t) none).track t =
      ((s.track t).emptied.armed home).restarted := State.setTrack_track_same s t _
  rw [hbase] at heq hslots
  obtain rfl := List.forall₂_nil_left_iff.mp hslots
  exact heq

/-- The slot numbers stand while a queue and a ring are discarded. -/
theorem State.armed_slotSeq (s : State) (t : TrackId) (home : CueIndex) : (s.armed t home).slotSeq = s.slotSeq :=
  (s.armed_bankWork t home).slotSeq

theorem State.armed_copyOf (s : State) (t : TrackId) (home i : CueIndex) (path : PathTag) (trailing : Bool) :
    (s.armed t home).copyOf i path trailing = s.copyOf i path trailing :=
  copyOf_congr (s.armed_bankWork t home).cue (s.armed_bankWork t home).clips i path trailing

theorem sameBut_ids {xs ys : List Slot} (h : List.Forall₂ Slot.SameBut xs ys) : ys.map Slot.id = xs.map Slot.id := by
  induction h with
  | nil => rfl
  | cons hfirst _ ih => rw [List.map_cons, List.map_cons, ih, (congrArg Slot.id hfirst :)]

/-- A bank's requests behind a TRACK ARM: those of the old slots are withdrawn, the others stay or are read. -/
theorem armTrack_requests (t : TrackId) (home : CueIndex) (s : State) (b : BankId) :
    (∀ f ∈ ((armTrack t home s).bank b).fetch, ∀ y ∈ (s.track t).ring, y.id < s.slotSeq →
        f.slot ≠ y.id ∨ ∃ j, j ≠ t ∧ ∃ z ∈ (s.track j).ring, z.id = y.id) ∧
      (∀ f, (s.bank b).inFlight = some f → ((armTrack t home s).bank b).inFlight = some f) ∧
      ∀ f ∈ (s.bank b).fetch, (∀ y ∈ (s.track t).ring, f.slot ≠ y.id) →
        f ∈ ((armTrack t home s).bank b).fetch ∨ ((armTrack t home s).bank b).inFlight = some f := by
  obtain ⟨hgone, hflight, hstays⟩ := discardAll_requests t s b
  have hbank : (s.armed t home).bank b = (discardAll t s).bank b := by
    rw [State.armed, State.setNotice_bank, State.modTrack_bank]
  rw [← hbank] at hgone hflight hstays
  have hwalk := walk_fetching t (s.armed t home)
  have hseq := s.armed_slotSeq t home
  rw [armTrack_eq]
  refine ⟨fun f hf y hy hold => ?_, fun f hf => hwalk.flight b f (hflight f hf), fun f hf hother => ?_⟩
  · obtain hin | hasks | ⟨-, hnew⟩ := hwalk.joins b f hf
    · exact hgone f hin y hy
    · have hne : f.track ≠ t := by
        rintro heq
        rw [State.asks, heq, State.armed_track] at hasks
        exact List.not_mem_nil hasks
      have hsame := ((s.armed_bankWork t home).tracks f.track).2
      rw [State.setNotice_track, State.setTrack_track_other _ _ _ _ hne.symm] at hsame
      rw [State.asks, sameBut_ids hsame] at hasks
      obtain ⟨z, hz, hid⟩ := List.mem_map.mp hasks
      by_cases heq : f.slot = y.id
      · exact .inr ⟨f.track, hne, z, hz, hid.trans heq⟩
      · exact .inl heq
    · exact .inl (by omega)
  · obtain hin | hread := hstays f hf hother
    · exact hwalk.stays b f hin
    · exact .inr (hwalk.flight b f hread)

/-- The lookahead's work behind a TRACK ARM, from the armed track with its old queue and ring (R29). -/
theorem armTrack_lookaheadWork (t : TrackId) (home : CueIndex) (s : State) :
    LookaheadWork t
      ((s.setTrack t { (s.track t).armed home with decision := .none }).setNotice (trackSource t) none)
      (armTrack t home s) := by
  rw [armTrack_eq]
  refine ((LookaheadWork.setTrack t _ ((s.track t).emptied.armed home).restarted ?_).trans
    (BankWork.lookahead ?_ t)).trans (walk_work t (s.armed t home))
  · rw [State.setNotice_track, State.setTrack_track_same]
    rfl
  · have hwork := s.armed_bankWork t home
    have htwice (a b : Track) : (s.setTrack t a).setTrack t b = s.setTrack t b := by
      simp only [State.setTrack, Vector.set_set]
    rw [← htwice { (s.track t).armed home with decision := .none }] at hwork
    exact hwork

theorem armTrack_link (t : TrackId) (home : CueIndex) (s : State) : (armTrack t home s).link = s.link :=
  (aside_eq_iff.mp (armTrack_aside t home s)).1

/-- TRACK ARM on a payload of its size, by the store's and the track's state. -/
theorem handleTrackArm_eq {t h0 h1 : Byte} (ht : t.toNat < 48) (hhome : (h1 ++ h0).toNat < 4096) (s : State) :
    handleTrackArm [t, h0, h1] s =
      let x := (s.track ⟨t.toNat, ht⟩).state
      if s.store.scanning then .error .state
      else if x = .starting ∨ x = .stopping then .error .busy
      else if x = .playing ∨ x = .holding then .error .state
      else .done [] (armTrack ⟨t.toNat, ht⟩ ((h1 ++ h0).setWidth 12) s) := by
  have hsize : ¬ [t, h0, h1].length ≠ 3 := by simp
  have hbyte : byteAt [t, h0, h1] 0 = t.toNat := rfl
  have hindex : word16 [t, h0, h1] 1 = (h1 ++ h0).toNat := word16_eq_toNat_append _ 1
  have hread : readIndex (h1 ++ h0).toNat = some ((h1 ++ h0).setWidth 12) :=
    readIndex_eq_some_iff.mpr (by rw [BitVec.toNat_setWidth, Nat.mod_eq_of_lt hhome])
  rw [handleTrackArm, if_neg hsize, hbyte, hindex, readTrack_of_lt ht, hread]
  dsimp only
  split
  · rfl
  · cases (s.track ⟨t.toNat, ht⟩).state <;> rfl

/-- An armed track, its queue's front copy and its ring (R29, R30, R64). -/
theorem armTrack_prepares (t : TrackId) (home : CueIndex) (s : State) :
    (((armTrack t home s).track t).primed = true ↔ (armTrack t home s).primes t) ∧
      (((armTrack t home s).track t).state = .ready ↔ (armTrack t home s).primes t) ∧
      (∃ c r, ((armTrack t home s).track t).queue = c :: r ∧ (s.copyOf home .main false).Prepared c) ∧
      ∀ y ∈ ((armTrack t home s).track t).ring, s.slotSeq ≤ y.id := by
  have htrack := s.armed_track t home
  rw [armTrack_eq]
  obtain ⟨hprimed, hready⟩ := walk_primes (s := s.armed t home) (t := t) (by rw [htrack]; rfl) (by rw [htrack]; rfl)
  refine ⟨hprimed, hready, ?_, fun y hy => ?_⟩
  · have hfirst := walk_first (s := s.armed t home) (t := t) (i := home) (trailing := false) (by rw [htrack]; rfl)
      (by rw [htrack]; rfl)
    rwa [s.armed_copyOf] at hfirst
  · obtain ⟨kept, made, hring, hkept, hmade⟩ := (walk_fetching t (s.armed t home)).own
    rw [htrack] at hkept
    obtain rfl := List.forall₂_nil_left_iff.mp hkept
    rw [hring] at hy
    exact (s.armed_slotSeq t home) ▸ hmade y hy

theorem handleTrackArm_range {t h0 h1 : Byte} (h : ¬ (t.toNat < 48 ∧ (h1 ++ h0).toNat < 4096)) (s : State) :
    handleTrackArm [t, h0, h1] s = .error .range := by
  have hsize : ¬ [t, h0, h1].length ≠ 3 := by simp
  have hbyte : byteAt [t, h0, h1] 0 = t.toNat := rfl
  have hindex : word16 [t, h0, h1] 1 = (h1 ++ h0).toNat := word16_eq_toNat_append _ 1
  rw [handleTrackArm, if_neg hsize, hbyte, hindex]
  by_cases ht : t.toNat < 48
  · have hnone : readIndex (h1 ++ h0).toNat = none := if_neg fun hhome => h ⟨ht, hhome⟩
    rw [hnone]
    cases readTrack t.toNat <;> rfl
  · rw [readTrack_of_ge ht]

theorem exec_trackArm (tag : Byte) (p : List Byte) (s : State) :
    exec (.trackArm tag p) s = .next (s.event (serve handleTrackArm { tag := tag, code := 0x40, payload := p })) := rfl

end Sys2Proof.Machine

namespace Sys2Proof.Proofs.TrackPrograms

open Sys2Proof Sys2Proof.Machine

/-- Settles O28. -/
theorem trackArmStartsAtHome : Obligations.TrackArmStartsAtHome := by
  unfold Obligations.TrackArmStartsAtHome
  intro s tag t h0 h1 hserves
  split
  next h =>
    intro k home x
    obtain ⟨ht, hhome⟩ := h
    have hreply (l : Link) := handleTrackArm_eq ht hhome (s.withLink l)
    split
    next hscan => exact refuses_of_blind (exec_trackArm ..) hserves fun l => (hreply l).trans (if_pos hscan)
    next hscan =>
      replace hreply (l : Link) := (hreply l).trans (if_neg hscan)
      split
      next hbusy => exact refuses_of_blind (exec_trackArm ..) hserves fun l => (hreply l).trans (if_pos hbusy)
      next hbusy =>
        replace hreply (l : Link) := (hreply l).trans (if_neg hbusy)
        split
        next hplays => exact refuses_of_blind (exec_trackArm ..) hserves fun l => (hreply l).trans (if_pos hplays)
        next hplays =>
          obtain ⟨l, hdone⟩ := completes_of_link (exec_trackArm ..) hserves
            (fun l => (hreply l).trans (if_neg hplays)) (armTrack_link k home)
          have hwork := armTrack_lookaheadWork k home (s.withLink l)
          rw [State.withLink_setTrack, State.withLink_setNotice] at hwork
          obtain ⟨hprimed, hready, ⟨c, r, hqueue, hcopy⟩, hring⟩ := armTrack_prepares k home (s.withLink l)
          obtain ⟨hentry, hvalid⟩ := tookCopy_spec (s := s.withLink l) ⟨home, .main, false, hcopy⟩
          have hrequests (b : BankId) := armTrack_requests k home (s.withLink l) b
          rw [← State.withLink_primes _ s.link] at hprimed hready
          obtain ⟨n, rfl⟩ := hcopy
          refine ⟨_, hdone, hwork.withLink, ?_⟩
          simp only [State.withLink_bank, State.withLink_track, State.withLink_slotSeq, State.withLink_validate]
            at hrequests hvalid hring ⊢
          exact ⟨hready, hprimed, ⟨_, r, hqueue, rfl, rfl, hvalid⟩, hring, hrequests⟩
  next h => exact refuses_of_blind (exec_trackArm ..) hserves fun l => handleTrackArm_range h _

end Sys2Proof.Proofs.TrackPrograms
end

section
/-! PROOFS. The lookahead and the banks do not look at the link (chapters 03 and 07); TRACK BREAK: O31. -/

namespace Sys2Proof.Machine

/-! ### Nothing here looks at the link -/

theorem State.withLink_modTrack (s : State) (l : Link) (t : TrackId) (f : Track → Track) :
    (s.withLink l).modTrack t f = (s.modTrack t f).withLink l := rfl

theorem State.withLink_setBank (s : State) (l : Link) (b : BankId) (k : Bank) :
    (s.withLink l).setBank b k = (s.setBank b k).withLink l := rfl

theorem State.withLink_modBank (s : State) (l : Link) (b : BankId) (f : Bank → Bank) :
    (s.withLink l).modBank b f = (s.modBank b f).withLink l := rfl

theorem State.withLink_raise (s : State) (l : Link) (n : SourceId) (c : Cause) :
    (s.withLink l).raise n c = (s.raise n c).withLink l := rfl

theorem State.withLink_setSector (s : State) (l : Link) (b : BankId) (n : Nat) (x : SectorState) :
    (s.withLink l).setSector b n x = (s.setSector b n x).withLink l := rfl

theorem State.withLink_urgency (s : State) (l : Link) : (s.withLink l).urgency = s.urgency := rfl

theorem State.withLink_wanting (s : State) (l : Link) (b : BankId) : (s.withLink l).wanting b = s.wanting b := rfl

theorem State.withLink_erasable (s : State) (l : Link) (b : BankId) : (s.withLink l).erasable b = s.erasable b := rfl

theorem suspendReact_withLink (b : BankId) (s : State) (l : Link) :
    suspendReact b (s.withLink l) = (suspendReact b s).withLink l := by
  unfold suspendReact
  rw [State.withLink_bank]
  dsimp only
  split
  · rfl
  · split
    · split
      · rfl
      · split <;> rfl
    · rfl

theorem joinFetch_withLink (b : BankId) (r : FetchRequest) (s : State) (l : Link) :
    joinFetch b r (s.withLink l) = (joinFetch b r s).withLink l := by
  unfold joinFetch
  dsimp only
  rw [State.withLink_modBank, State.withLink_modTrack, suspendReact_withLink]

theorem offerPlaces_withLink (b : BankId) (n : Nat) (s : State) (l : Link) :
    offerPlaces b n (s.withLink l) = (offerPlaces b n s).withLink l := by
  induction n generalizing s with
  | zero => rfl
  | succ n ih =>
    rw [offerPlaces, offerPlaces, State.withLink_bank, State.withLink_urgency, State.withLink_wanting]
    split
    · split
      · rfl
      · rw [joinFetch_withLink, ih]
    · rfl

theorem startRead_withLink (b : BankId) (s : State) (l : Link) :
    startRead b (s.withLink l) = (startRead b s).withLink l := by
  unfold startRead
  rw [State.withLink_bank, State.withLink_urgency]
  split
  · rfl
  · dsimp only
    rw [State.withLink_modBank, State.withLink_modTrack, offerPlaces_withLink]

theorem startStore_withLink (b : BankId) (s : State) (l : Link) :
    startStore b (s.withLink l) = (startStore b s).withLink l := by
  unfold startStore
  rw [State.withLink_bank, State.withLink_erasable]
  dsimp only
  split
  · rfl
  · split
    · split <;> rfl
    · rfl

theorem bankSettle_withLink (b : BankId) (s : State) (l : Link) :
    bankSettle b (s.withLink l) = (bankSettle b s).withLink l := by
  unfold bankSettle
  rw [State.withLink_bank, State.withLink_store]
  dsimp only
  split
  · rfl
  · split
    · split
      · exact startStore_withLink b s l
      · exact startRead_withLink b s l
    · split
      · split
        · rfl
        · exact startRead_withLink b s l
      · rfl

theorem withdrawFrom_withLink (dead : List Nat) (s : State) (b : BankId) (l : Link) :
    withdrawFrom dead (s.withLink l) b = (withdrawFrom dead s b).withLink l := by
  unfold withdrawFrom
  rw [State.withLink_bank]
  split
  · dsimp only
    rw [State.withLink_modBank, offerPlaces_withLink, bankSettle_withLink]
  · rfl

theorem dropSlots_withLink (t : TrackId) (dead : List Nat) (s : State) (l : Link) :
    dropSlots t dead (s.withLink l) = (dropSlots t dead s).withLink l := by
  have hall (bs : List BankId) (u : State) :
      forEach bs (withdrawFrom dead) (u.withLink l) = (forEach bs (withdrawFrom dead) u).withLink l := by
    induction bs generalizing u with
    | nil => rfl
    | cons b bs ih =>
      change forEach bs _ (withdrawFrom dead (u.withLink l) b) = _
      rw [withdrawFrom_withLink, ih]
      rfl
  unfold dropSlots
  dsimp only
  rw [State.withLink_modTrack, hall]

theorem State.withLink_pushSlot (s : State) (l : Link) (t : TrackId) (x : Slot) :
    (s.withLink l).pushSlot t x = (s.pushSlot t x).withLink l := rfl

/-- A slot joins the ring, and its request the fetch queue of its bank where that has a place (R61). -/
theorem addSlot_eq (t : TrackId) (x : Slot) (s : State) :
    addSlot t x s = (x.request t).elim (s.pushSlot t x) fun r =>
      if (s.bank (s.clip r.clip).bank).fetch.length < Config.fetchQueue then
        bankSettle (s.clip r.clip).bank (joinFetch (s.clip r.clip).bank r (s.pushSlot t x))
      else s.pushSlot t x := by
  unfold addSlot
  cases x.request t <;> rfl

theorem addSlot_withLink (t : TrackId) (x : Slot) (s : State) (l : Link) :
    addSlot t x (s.withLink l) = (addSlot t x s).withLink l := by
  rw [addSlot_eq, addSlot_eq, State.withLink_pushSlot]
  cases x.request t with
  | none => rfl
  | some r =>
    dsimp only [Option.elim]
    rw [State.withLink_clip, State.withLink_bank]
    split
    · rw [joinFetch_withLink, bankSettle_withLink]
    · rfl

theorem walkStep_withLink (t : TrackId) (s : State) (l : Link) :
    walkStep t (s.withLink l) = (walkStep t s).map fun u => u.withLink l := by
  unfold walkStep
  rw [State.withLink_track, State.withLink_slotSeq]
  dsimp only
  split
  iterate 4 exact rfl
  · split <;> rfl
  · split
    · rfl
    · split
      · rfl
      · split
        · rw [State.withLink_setTrack, addSlot_withLink]
          rfl
        · rfl
  · split
    · rfl
    · split <;> rfl
  · split
    · rfl
    · split
      · rw [addSlot_withLink]
        rfl
      · rfl

theorem walkLoop_withLink (t : TrackId) (n : Nat) (s : State) (l : Link) :
    walkLoop t n (s.withLink l) = (walkLoop t n s).withLink l := by
  induction n generalizing s with
  | zero => rfl
  | succ n ih =>
    rw [walkLoop, walkLoop, walkStep_withLink]
    cases walkStep t s with
    | none => rfl
    | some u => exact ih u

theorem checkPriming_withLink (t : TrackId) (s : State) (l : Link) :
    checkPriming t (s.withLink l) = (checkPriming t s).withLink l := by
  have hmet : primingMet t (s.withLink l) = primingMet t s := by
    rw [Bool.eq_iff_iff, primingMet_iff, primingMet_iff, State.withLink_primes]
  unfold checkPriming
  rw [hmet, State.withLink_track]
  dsimp only
  split
  · split <;> rfl
  · rfl

theorem walk_withLink (t : TrackId) (s : State) (l : Link) : walk t (s.withLink l) = (walk t s).withLink l := by
  rw [walk, walkLoop_withLink, checkPriming_withLink, walk]

/-! ### TRACK BREAK (R43, R75) -/

/-- The front copy stays, its earlier plays prepared, and the walk goes on at the end of the play in progress (R75). -/
def Track.broken (tr : Track) (c : Copy) : Track :=
  { tr with
    queue := [{ c with prepared := tr.playNumber - 1 }]
    walk :=
      { phase := .slots (tr.block + 1 + (tr.ring.take (c.length - (tr.block + 1))).length)
        shadow := tr.link
        decided := none
        after := .none } }

theorem Track.broken_same (tr : Track) (c : Copy) :
    { tr.broken c with queue := tr.queue, ring := tr.ring, walk := tr.walk } = tr := rfl

/-- The state from which the lookahead walks on behind a TRACK BREAK. -/
def State.broken (s : State) (t : TrackId) (c : Copy) : State :=
  dropSlots t (((s.track t).ring.drop (c.length - ((s.track t).block + 1))).map Slot.id)
    (s.setTrack t ((s.track t).broken c))

theorem breakWalk_eq {t : TrackId} {s : State} {c : Copy} {r : List Copy} (h : (s.track t).queue = c :: r) :
    breakWalk t s = walk t (s.broken t c) := by
  unfold breakWalk
  simp only [h]
  rfl

theorem State.withLink_broken (s : State) (l : Link) (t : TrackId) (c : Copy) :
    (s.withLink l).broken t c = (s.broken t c).withLink l := by
  rw [State.broken, State.withLink_track, State.withLink_setTrack, dropSlots_withLink, State.broken]

theorem breakPlay_withLink {t : TrackId} {s : State} {c : Copy} {r : List Copy} (h : (s.track t).queue = c :: r)
    (l : Link) : breakPlay t (s.withLink l) = (breakPlay t s).withLink l := by
  have hqueue : ((s.modTrack t fun tr => { tr with lastPlay := true }).track t).queue = c :: r := by
    rw [State.modTrack_track_same]
    exact h
  rw [breakPlay, State.withLink_modTrack, breakWalk_eq (by rw [State.withLink_track]; exact hqueue), State.withLink_broken,
    walk_withLink, breakPlay, breakWalk_eq hqueue]

/-- With distinct slot numbers the slots that stay are those before the ones that leave. -/
theorem filter_dropped {xs : List Slot} (h : (xs.map Slot.id).Nodup) (n : Nat) :
    xs.filter (fun x => !((xs.drop n).map Slot.id).contains x.id) = xs.take n := by
  have hsplit : xs.take n ++ xs.drop n = xs := List.take_append_drop n xs
  have hdisjoint : List.Disjoint ((xs.take n).map Slot.id) ((xs.drop n).map Slot.id) := by
    rw [← hsplit, List.map_append] at h
    exact List.disjoint_of_nodup_append h
  conv_lhs =>
    arg 2
    rw [← hsplit]
  rw [List.filter_append]
  have hkept : (xs.take n).filter (fun x => !((xs.drop n).map Slot.id).contains x.id) = xs.take n := by
    refine List.filter_eq_self.mpr fun x hx => ?_
    have hnot : x.id ∉ (xs.drop n).map Slot.id := fun hmem => hdisjoint (List.mem_map_of_mem hx) hmem
    rw [Bool.not_eq_true', ← Bool.not_eq_true, List.contains_iff_mem]
    exact hnot
  have hgone : (xs.drop n).filter (fun x => !((xs.drop n).map Slot.id).contains x.id) = [] := by
    refine List.filter_eq_nil_iff.mpr fun x hx => ?_
    have hmem := List.mem_map_of_mem (f := Slot.id) hx
    rw [List.contains_iff_mem.mpr hmem]
    exact Bool.false_ne_true
  rw [hkept, hgone, List.append_nil]

theorem Track.withRing_withRing (tr : Track) (a b : List Slot) : (tr.withRing a).withRing b = tr.withRing b := rfl

theorem State.broken_track (s : State) (t : TrackId) (c : Copy) :
    ∃ ring, (s.broken t c).track t = ((s.track t).broken c).withRing ring ∧
      (((s.track t).ring.map Slot.id).Nodup →
        List.Forall₂ Slot.SameBut ((s.track t).ring.take (c.length - ((s.track t).block + 1))) ring) := by
  rw [State.broken]
  generalize s.track t = x
  generalize hdead : (x.ring.drop (c.length - (x.block + 1))).map Slot.id = dead
  have hsame := (dropSlots_work t dead (s.setTrack t (x.broken c))).tracks t
  rw [State.modTrack_track_same, State.setTrack_track_same] at hsame
  obtain ⟨ring, htrack, hslots⟩ := Track.sameBut_iff.mp hsame
  refine ⟨ring, htrack, fun hnodup => ?_⟩
  rw [← filter_dropped hnodup, hdead]
  exact hslots

theorem State.broken_slotSeq (s : State) (t : TrackId) (c : Copy) : (s.broken t c).slotSeq = s.slotSeq :=
  (dropSlots_work t _ _).slotSeq

theorem State.broken_work (s : State) (t : TrackId) (c : Copy) : LookaheadWork t s (s.broken t c) :=
  (LookaheadWork.setTrack t s _ ((s.track t).broken_same c)).trans (dropSlots_lookahead t _ _)

theorem Track.playRemains_iff (tr : Track) (c : Copy) :
    tr.playRemains c = true ↔
      c.trailing = false ∧ tr.lastPlay = false ∧ (c.entry.plays = 0 ∨ tr.playNumber < c.entry.plays.toNat) := by
  rw [Track.playRemains]
  simp only [Bool.and_eq_true, Bool.or_eq_true, Bool.not_eq_true', decide_eq_true_eq, and_assoc]

theorem exec_trackBreak (tag : Byte) (p : List Byte) (s : State) :
    exec (.trackBreak tag p) s = .next (s.event (serve handleTrackBreak { tag := tag, code := 0x43, payload := p })) :=
  rfl

/-- TRACK BREAK on a track in PLAYING with a current entry. -/
theorem handleTrackBreak_playing {t : Byte} (ht : t.toNat < 48) {s : State} {c : Copy} {r : List Copy}
    (hstate : (s.track ⟨t.toNat, ht⟩).state = .playing) (hqueue : (s.track ⟨t.toNat, ht⟩).queue = c :: r) :
    handleTrackBreak [t] s =
      if (s.track ⟨t.toNat, ht⟩).playRemains c then .done [] (breakPlay ⟨t.toNat, ht⟩ s) else .error .state := by
  have hsize : ¬ [t].length ≠ 1 := by simp
  have hbyte : byteAt [t] 0 = t.toNat := rfl
  rw [handleTrackBreak, if_neg hsize, hbyte, readTrack_of_lt ht]
  dsimp only
  rw [hstate, hqueue]

theorem handleTrackBreak_holding {t : Byte} (ht : t.toNat < 48) {s : State}
    (hstate : (s.track ⟨t.toNat, ht⟩).state = .holding) :
    handleTrackBreak [t] s =
      .done [] (if (s.track ⟨t.toNat, ht⟩).stop = .now then s
        else s.setTrack ⟨t.toNat, ht⟩ { s.track ⟨t.toNat, ht⟩ with breakPending := true }) := by
  have hsize : ¬ [t].length ≠ 1 := by simp
  have hbyte : byteAt [t] 0 = t.toNat := rfl
  rw [handleTrackBreak, if_neg hsize, hbyte, readTrack_of_lt ht]
  dsimp only
  rw [hstate]

theorem handleTrackBreak_idle {t : Byte} (ht : t.toNat < 48) {s : State}
    (hplaying : (s.track ⟨t.toNat, ht⟩).state ≠ .playing) (hholding : (s.track ⟨t.toNat, ht⟩).state ≠ .holding) :
    handleTrackBreak [t] s = .error .state := by
  have hsize : ¬ [t].length ≠ 1 := by simp
  have hbyte : byteAt [t] 0 = t.toNat := rfl
  rw [handleTrackBreak, if_neg hsize, hbyte, readTrack_of_lt ht]
  dsimp only
  cases hstate : (s.track ⟨t.toNat, ht⟩).state with
  | playing => exact absurd hstate hplaying
  | holding => exact absurd hstate hholding
  | _ => rfl

/-- What TRACK BREAK leaves of the track: the front copy, copies taken anew, the slots that stay and new ones. -/
theorem breakPlay_prepares {t : TrackId} {s : State} {c : Copy} {r : List Copy} (h : (s.track t).queue = c :: r) :
    (∃ d q, ((breakPlay t s).track t).queue = d :: q ∧ c.Prepared d ∧ ∀ e ∈ q, s.tookCopy e) ∧
      (((s.track t).ring.map Slot.id).Nodup → ∃ kept made, ((breakPlay t s).track t).ring = kept ++ made ∧
        List.Forall₂ Slot.SameBut ((s.track t).ring.take (c.length - ((s.track t).block + 1))) kept ∧
        ∀ y ∈ made, s.slotSeq ≤ y.id) := by
  have hplay : ((s.modTrack t fun tr => { tr with lastPlay := true }).track t) = { s.track t with lastPlay := true } :=
    State.modTrack_track_same ..
  have hqueue : ((s.modTrack t fun tr => { tr with lastPlay := true }).track t).queue = c :: r := by
    rw [hplay]
    exact h
  rw [breakPlay, breakWalk_eq hqueue]
  obtain ⟨ring, htrack, hkept⟩ := (s.modTrack t fun tr => { tr with lastPlay := true }).broken_track t c
  have hwork := (s.modTrack t fun tr => { tr with lastPlay := true }).broken_work t c
  have hseq := (s.modTrack t fun tr => { tr with lastPlay := true }).broken_slotSeq t c
  rw [State.modTrack_slotSeq] at hseq
  rw [hplay] at htrack hkept
  generalize (s.modTrack t fun tr => { tr with lastPlay := true }).broken t c = v at *
  refine ⟨?_, fun hnodup => ?_⟩
  · obtain ⟨kept, new, hnew, hprepared, htook⟩ := walk_queue t v
    rw [htrack] at hprepared
    cases hprepared with
    | cons hfirst hnil =>
      cases hnil
      obtain ⟨n, rfl⟩ := hfirst
      refine ⟨_, new, hnew, ⟨n, rfl⟩, fun e he => ?_⟩
      obtain ⟨i, path, trailing, hcopy⟩ := htook e he
      rw [copyOf_congr (s := s) hwork.cue hwork.clips] at hcopy
      exact ⟨i, path, trailing, hcopy⟩
  · obtain ⟨kept, made, hring, hserved, hmade⟩ := (walk_fetching t v).own
    rw [htrack] at hserved
    exact ⟨kept, made, hring, slots_trans (hkept hnodup) (slotsServed_sameBut hserved), fun y hy => hseq ▸ hmade y hy⟩

/-- Where the lookahead walks on behind a TRACK BREAK (R75). -/
theorem breakPlay_walks {t : TrackId} {s : State} {c : Copy} {r : List Copy} (h : (s.track t).queue = c :: r) :
    ∃ v, LookaheadWork t (s.setTrack t { s.track t with lastPlay := true }) v ∧ breakPlay t s = walk t v ∧
      ∃ ring, v.track t = (Track.broken { s.track t with lastPlay := true } c).withRing ring := by
  have hplay : ((s.modTrack t fun tr => { tr with lastPlay := true }).track t) = { s.track t with lastPlay := true } :=
    State.modTrack_track_same ..
  have hqueue : ((s.modTrack t fun tr => { tr with lastPlay := true }).track t).queue = c :: r := by
    rw [hplay]
    exact h
  obtain ⟨ring, htrack, -⟩ := (s.modTrack t fun tr => { tr with lastPlay := true }).broken_track t c
  rw [hplay] at htrack
  exact ⟨_, State.broken_work _ t c, breakWalk_eq hqueue, ring, htrack⟩

end Sys2Proof.Machine

namespace Sys2Proof.Proofs.TrackPrograms

open Sys2Proof Sys2Proof.Machine

/-- Settles O31. -/
theorem trackBreakEndsTheLoop : Obligations.TrackBreakEndsTheLoop := by
  unfold Obligations.TrackBreakEndsTheLoop
  intro s tag t hserves
  split
  next h =>
    intro k x
    refine ⟨fun c r hstate hqueue => ?_, fun hstate => ?_, fun hplaying hholding => ?_⟩
    · split
      next hremains =>
        have hdone : Completes (.trackBreak tag [t]) s tag [] (breakPlay k s) :=
          completes_of_blind (exec_trackBreak ..) hserves
            (fun l => (handleTrackBreak_playing h (s := s.withLink l) hstate hqueue).trans
              (if_pos ((Track.playRemains_iff _ c).mpr hremains)))
            (breakPlay_withLink hqueue)
        obtain ⟨⟨d, q, hnew, ⟨n, rfl⟩, htook⟩, hring⟩ := breakPlay_prepares hqueue
        obtain ⟨v, hwork, hwalk, ring, htrack⟩ := breakPlay_walks hqueue
        refine ⟨breakPlay k s, hdone, ?_, ⟨_, q, hnew, rfl, rfl, rfl, rfl, fun e he => tookCopy_spec (htook e he)⟩,
          ⟨v, hwork, hwalk, ?_, ?_, ?_, ?_⟩, hring⟩
        · rw [hwalk]
          exact hwork.trans (walk_work k v)
        all_goals
          rw [htrack]
          rfl
      next hnone =>
        exact refuses_of_blind (exec_trackBreak ..) hserves fun l =>
          (handleTrackBreak_playing h (s := s.withLink l) hstate hqueue).trans (if_neg fun hr => hnone ((Track.playRemains_iff _ c).mp hr))
    · by_cases hstop : x.stop = .now
      · rw [if_pos hstop]
        exact completes_of_blind (f := id) (exec_trackBreak ..) hserves
          (fun l => (handleTrackBreak_holding h (s := s.withLink l) hstate).trans (congrArg _ (if_pos hstop))) fun l => rfl
      · rw [if_neg hstop]
        exact completes_of_blind (f := fun u => u.setTrack k { u.track k with breakPending := true })
          (exec_trackBreak ..) hserves
          (fun l => (handleTrackBreak_holding h (s := s.withLink l) hstate).trans (congrArg _ (if_neg hstop))) fun l => rfl
    · exact refuses_of_blind (exec_trackBreak ..) hserves fun l => handleTrackBreak_idle h (s := s.withLink l) hplaying hholding
  next h =>
    refine refuses_of_blind (exec_trackBreak ..) hserves fun l => ?_
    have hsize : ¬ [t].length ≠ 1 := by simp
    have hbyte : byteAt [t] 0 = t.toNat := rfl
    rw [handleTrackBreak, if_neg hsize, hbyte, readTrack_of_ge h]

end Sys2Proof.Proofs.TrackPrograms
end

section
/-! PROOFS. The pages of the flash (R115): a page's place, its blocks read back, and the pages beside it. -/

namespace Sys2Proof.Machine

/-- The number of a clip's page among the pages of the whole flash, counted bank by bank. -/
def ClipRecord.pageNumber (r : ClipRecord) (q : Nat) : Nat :=
  (r.bank.1 * 8192 + (r.first + q / 256)) * 256 + q % 256

theorem ClipRecord.pageAddress_eq (r : ClipRecord) (q : Nat) : r.pageAddress q = r.pageNumber q * 16384 :=
  Nat.add_zero _

/-- The blocks of a page fill it. -/
theorem mul_blockBytes {d : Nat} (hd : d ∈ [1, 2, 4, 8, 16, 32, 64, 128]) : d * blockBytes d = 16384 := by
  simp only [List.mem_cons, List.not_mem_nil, or_false] at hd
  rcases hd with rfl | rfl | rfl | rfl | rfl | rfl | rfl | rfl <;> rfl

theorem pos_of_decimation {d : Nat} (hd : d ∈ [1, 2, 4, 8, 16, 32, 64, 128]) : 0 < d :=
  Nat.pos_of_ne_zero fun h => by simp [h] at hd

/-- A block lies within its page. -/
theorem blockOffset_le {d k : Nat} (hd : d ∈ [1, 2, 4, 8, 16, 32, 64, 128]) (hk : k < d) :
    k * blockBytes d + blockBytes d ≤ 16384 :=
  calc k * blockBytes d + blockBytes d = (k + 1) * blockBytes d := (Nat.succ_mul k _).symm
    _ ≤ d * blockBytes d := Nat.mul_le_mul_right _ hk
    _ = 16384 := mul_blockBytes hd

/-- Block `i` of page `q` stands `i` blocks into the page. -/
theorem ClipRecord.blockAddress_page (r : ClipRecord) (q : Nat) {i : Nat} (hi : i < r.decimation) :
    r.blockAddress (q * r.decimation + i) = r.pageAddress q + i * blockBytes r.decimation := by
  have hpos : 0 < r.decimation := by omega
  rw [ClipRecord.blockAddress, Nat.mul_comm q, Nat.mul_add_div hpos, Nat.mul_add_mod, Nat.div_eq_of_lt hi,
    Nat.mod_eq_of_lt hi, Nat.add_zero]

/-- What is read within the bytes just programmed are those bytes. -/
theorem Memory.readAll_writeAll_within (m : List Host.Cell) (a : Nat) {data : List Byte} {o n : Nat}
    (hin : o + n ≤ data.length) : Memory.readAll (Memory.writeAll m a data) (a + o) n = (data.drop o).take n := by
  refine List.ext_getElem (by simp [Memory.readAll]; omega) fun i hi _ => ?_
  have hlt : i < n := by simpa [Memory.readAll] using hi
  have hat : a + o + i - a = o + i := by omega
  have hmem : o + i < data.length := by omega
  simp only [Memory.readAll, List.getElem_map, List.getElem_range, Memory.read_writeAll, List.getElem_take,
    List.getElem_drop]
  rw [if_pos (by omega), hat, List.getD_eq_getElem _ _ hmem]

/-- What is read outside the bytes just programmed stands as it was. -/
theorem Memory.readAll_writeAll_apart (m : List Host.Cell) {a x n : Nat} {data : List Byte}
    (hapart : x + n ≤ a ∨ a + data.length ≤ x) :
    Memory.readAll (Memory.writeAll m a data) x n = Memory.readAll m x n := by
  refine List.map_congr_left fun i hi => ?_
  have hlt := List.mem_range.1 hi
  rw [Memory.read_writeAll, if_neg (by omega)]

end Sys2Proof.Machine

namespace Sys2Proof.Proofs.Pages

open Sys2Proof Sys2Proof.Machine

/-- Settles O51: block `i` of page `q` lies `i` blocks into the page, and every page begins at a multiple of the page
size that names its bank, its sector and its position. -/
theorem programmedPagesReadBackAsBlocks : Obligations.ProgrammedPagesReadBackAsBlocks := by
  refine ⟨fun m r q n data hr hn hdata => ⟨fun i hi => ?_, fun x k hx happart => ?_⟩, fun r x q p hr hx => ?_⟩
  · have hlt : i < r.decimation := by omega
    have hin : i * blockBytes r.decimation + blockBytes r.decimation ≤ data.length :=
      calc i * blockBytes r.decimation + blockBytes r.decimation = (i + 1) * blockBytes r.decimation :=
            (Nat.succ_mul i _).symm
        _ ≤ n * blockBytes r.decimation := Nat.mul_le_mul_right _ hi
        _ = data.length := hdata.symm
    rw [ClipRecord.blockAddress_page r q hlt]
    exact Memory.readAll_writeAll_within m _ hin
  · have hblock := blockOffset_le hx (Nat.mod_lt k (pos_of_decimation hx))
    have hsize : data.length ≤ 16384 :=
      calc data.length = n * blockBytes r.decimation := hdata
        _ ≤ r.decimation * blockBytes r.decimation := Nat.mul_le_mul_right _ hn
        _ = 16384 := mul_blockBytes hr
    rw [ClipRecord.pageAddress_eq, ClipRecord.pageAddress_eq] at happart
    refine Memory.readAll_writeAll_apart m ?_
    change x.pageAddress (k / x.decimation) + k % x.decimation * blockBytes x.decimation + blockBytes x.decimation ≤ _ ∨
      _ ≤ x.pageAddress (k / x.decimation) + k % x.decimation * blockBytes x.decimation
    rw [ClipRecord.pageAddress_eq, ClipRecord.pageAddress_eq]
    omega
  · rw [ClipRecord.pageAddress_eq, ClipRecord.pageAddress_eq, ClipRecord.pageNumber, ClipRecord.pageNumber, Fin.ext_iff]
    omega

end Sys2Proof.Proofs.Pages
end

section
/-! PROOFS. LINE SET and CAPTURE READ (chapter 09): O52. One equation for each reader of the settings, and the bytes of
a capture record and of a line mask. -/

namespace Sys2Proof.Machine

/-! ### The bytes of a capture read -/

theorem le32_toNat (v : BitVec 32) :
    le32 v.toNat = [v.extractLsb' 0 8, v.extractLsb' 8 8, v.extractLsb' 16 8, v.extractLsb' 24 8] := by
  simp only [le32, le16, BitVec.extractLsb', Nat.shiftRight_eq_div_pow, Nat.div_div_eq_div_mul, List.cons_append,
    List.nil_append, Nat.pow_zero, Nat.div_one]

theorem Capture.bytes_eq (c : Capture) :
    c.bytes = [BitVec.ofNat 8 c.line.1, if c.rising then 0 else 1, c.offset.extractLsb' 0 8,
      (c.offset.extractLsb' 8 4).setWidth 8, c.count.extractLsb' 0 8, c.count.extractLsb' 8 8,
      c.count.extractLsb' 16 8, c.count.extractLsb' 24 8] := by
  have hedge : BitVec.ofNat 8 (if c.rising then 0 else 1) = if c.rising then 0 else 1 := by cases c.rising <;> rfl
  have hlow : BitVec.ofNat 8 c.offset.toNat = c.offset.extractLsb' 0 8 := rfl
  have hhigh : BitVec.ofNat 8 (c.offset.toNat / 256) = (c.offset.extractLsb' 8 4).setWidth 8 := by
    have hlt := c.offset.isLt
    apply BitVec.eq_of_toNat_eq
    simp only [BitVec.toNat_ofNat, BitVec.toNat_setWidth, BitVec.extractLsb'_toNat, Nat.shiftRight_eq_div_pow]
    omega
  rw [Capture.bytes, le32_toNat, le8, le8, le16, hedge, hlow, hhigh]
  rfl

/-- Bit n of a mask is what the mask says of line n. -/
theorem maskOf_spec (f : LineId → Bool) :
    maskOf f < 16 ∧ ∀ i : LineId, (BitVec.ofNat 8 (maskOf f)).getLsbD i.1 = f i := by
  have hbits : ∀ a b c d : Bool,
      let n := a.toNat * 2 ^ 0 + (b.toNat * 2 ^ 1 + (c.toNat * 2 ^ 2 + (d.toNat * 2 ^ 3 + 0)))
      n < 16 ∧ (BitVec.ofNat 8 n).getLsbD 0 = a ∧ (BitVec.ofNat 8 n).getLsbD 1 = b ∧
        (BitVec.ofNat 8 n).getLsbD 2 = c ∧ (BitVec.ofNat 8 n).getLsbD 3 = d := by decide
  obtain ⟨hlt, h0, h1, h2, h3⟩ := hbits (f 0) (f 1) (f 2) (f 3)
  refine ⟨hlt, fun i => ?_⟩
  match i with
  | 0 => exact h0
  | 1 => exact h1
  | 2 => exact h2
  | 3 => exact h3

/-! ### The settings of LINE SET (R178) -/

theorem readEdgeMode_toNat (b : Byte) :
    readEdgeMode b.toNat =
      if b.toNat < 4 then some (if b = 0 then .off else if b = 1 then .rise else if b = 2 then .fall else .both)
      else none := by
  obtain rfl | rfl | rfl | habove := byte_cases b
  · rfl
  · rfl
  · rfl
  · by_cases h : b.toNat = 3
    · obtain rfl := (toNat_eq_iff b 3).mp h
      rfl
    · rw [if_neg (by omega), readEdgeMode.eq_5] <;> omega

/-- The marker mode a byte below 3 carries. -/
def markerModeOf (mode : Byte) : MarkerMode := if mode = 0 then .off else if mode = 1 then .pulse else .follow

theorem markerModeOf_eq_pulse (mode : Byte) : markerModeOf mode = .pulse ↔ mode = 1 := by
  unfold markerModeOf
  split_ifs with hzero hone
  · simp [hzero]
  · simp [hone]
  · exact iff_of_false (by decide) hone

theorem readMarkerMode_toNat (b : Byte) :
    readMarkerMode b.toNat =
      if b.toNat < 3 then some (markerModeOf b) else none := by
  obtain rfl | rfl | rfl | habove := byte_cases b
  · rfl
  · rfl
  · rfl
  · rw [if_neg (by omega), readMarkerMode.eq_4] <;> omega

theorem readPolarity_toNat (b : Byte) :
    readPolarity b.toNat = if b.toNat < 2 then some (if b = 0 then .activeHigh else .activeLow) else none := by
  obtain rfl | rfl | rfl | habove := byte_cases b
  · rfl
  · rfl
  · rfl
  · rw [if_neg (by omega), readPolarity.eq_3] <;> omega

theorem readTriggerSettings_eq (kind n mode a b c : Byte) :
    readTriggerSettings [kind, n, mode, a, b, c] =
      if mode.toNat < 4 ∧ b.toNat < 2 ∧ c.toNat < 16 then
        some (if mode = 0 then .off else if mode = 1 then .rise else if mode = 2 then .fall else .both, a.toNat,
          decide (b = 1), c.setWidth 4)
      else none := by
  change (readEdgeMode mode.toNat).bind (fun e => (readBool b.toNat).bind fun x => (readFlag c.toNat).bind fun f =>
    some (e, a.toNat, x, f)) = _
  rw [readEdgeMode_toNat, readBool_toNat, readFlag_toNat]
  by_cases hmode : mode.toNat < 4
  · by_cases hb : b.toNat < 2
    · by_cases hc : c.toNat < 16
      · simp only [hmode, hb, hc, if_true, and_self, Option.bind_some]
      · simp only [hmode, hb, hc, if_true, if_false, and_false, Option.bind_some, Option.bind_none]
    · simp only [hmode, hb, if_true, if_false, false_and, and_false, Option.bind_some, Option.bind_none]
  · simp only [hmode, if_false, false_and, Option.bind_none]

theorem readMarkerSettings_eq (kind n mode a b c : Byte) :
    readMarkerSettings [kind, n, mode, a, b, c] =
      if mode.toNat < 3 ∧ a.toNat < 16 ∧ b.toNat < 2 ∧ c ≠ 0 then
        some (markerModeOf mode, a.setWidth 4,
          if b = 0 then .activeHigh else .activeLow, c.toNat)
      else none := by
  have hwidth : 1 ≤ c.toNat ↔ c ≠ 0 := by
    rw [Nat.one_le_iff_ne_zero, Ne, toNat_eq_iff c 0]
    rfl
  change (readMarkerMode mode.toNat).bind (fun e => (readFlag a.toNat).bind fun f => (readPolarity b.toNat).bind
    fun x => if 1 ≤ c.toNat then some (e, f, x, c.toNat) else none) = _
  rw [readMarkerMode_toNat, readFlag_toNat, readPolarity_toNat]
  simp only [hwidth]
  by_cases hmode : mode.toNat < 3
  · by_cases ha : a.toNat < 16
    · by_cases hb : b.toNat < 2
      · simp only [hmode, ha, hb, if_true, true_and, Option.bind_some]
      · simp only [hmode, ha, hb, if_true, if_false, false_and, and_false, Option.bind_some, Option.bind_none]
    · simp only [hmode, ha, if_true, if_false, false_and, and_false, Option.bind_some, Option.bind_none]
  · simp only [hmode, if_false, false_and, Option.bind_none]

/-! ### The handlers -/

theorem exec_lineSet (tag : Byte) (p : List Byte) (s : State) :
    exec (.lineSet tag p) s = .next (s.event (serve handleLineSet { tag := tag, code := 0x60, payload := p })) := rfl

theorem exec_captureRead (tag : Byte) (p : List Byte) (s : State) :
    exec (.captureRead tag p) s =
      .next (s.event (serve handleCaptureRead { tag := tag, code := 0x61, payload := p })) := rfl

/-- LINE SET on a trigger line. -/
theorem handleLineSet_trigger {p : List Byte} (hsize : p.length = 6) (hkind : byteAt p 0 = 0) {n : LineId}
    (hn : readFour (byteAt p 1) = some n) {mode : EdgeMode} {holdoff : Nat} {sets : Bool} {flag : FlagId}
    (hset : readTriggerSettings p = some (mode, holdoff, sets, flag)) (s : State) :
    handleLineSet p s = .done (bit8 (s.trigger n).level ++ [0])
      (s.setTrigger n { mode := mode, holdoff := holdoff, setsFlag := sets, flag := flag, remaining := 0,
                        level := (s.trigger n).level }) := by
  rw [handleLineSet, if_neg (not_not.mpr hsize), if_pos hkind, hn, hset]

/-- LINE SET on a marker line. -/
theorem handleLineSet_marker {p : List Byte} (hsize : p.length = 6) (hkind : byteAt p 0 = 1) {m : LineId}
    (hm : readFour (byteAt p 1) = some m) {mode : MarkerMode} {flag : FlagId} {polarity : Polarity} {width : Nat}
    (hset : readMarkerSettings p = some (mode, flag, polarity, width)) (s : State) :
    handleLineSet p s =
      .done (bit8 ((s.setMarker m ((s.marker m).replaced mode flag polarity width)).markerActive m) ++
          le8 ((s.marker m).replaced mode flag polarity width).remaining)
        (s.setMarker m ((s.marker m).replaced mode flag polarity width)) := by
  rw [handleLineSet, if_neg (not_not.mpr hsize), if_neg (by rw [hkind]; decide), if_pos hkind, hm, hset]
  simp only [State.setMarker_marker, if_true]

/-- LINE SET whose fields are not all in range. -/
theorem handleLineSet_range {p : List Byte} (hsize : p.length = 6)
    (htrigger : byteAt p 0 = 0 → readFour (byteAt p 1) = none ∨ readTriggerSettings p = none)
    (hmarker : byteAt p 0 = 1 → readFour (byteAt p 1) = none ∨ readMarkerSettings p = none) (s : State) :
    handleLineSet p s = .error .range := by
  rw [handleLineSet, if_neg (not_not.mpr hsize)]
  split_ifs with hzero hone
  · obtain h | h := htrigger hzero
    · rw [h]
    · rw [h]
      cases readFour (byteAt p 1) <;> rfl
  · obtain h | h := hmarker hone
    · rw [h]
    · rw [h]
      cases readFour (byteAt p 1) <;> rfl
  · rfl

theorem State.markerActive_setMarker (s : State) (m : LineId) (x : MarkerLine) :
    (s.setMarker m x).markerActive m =
      match x.mode with
      | .off => false
      | .pulse => decide (0 < x.remaining)
      | .follow => s.flagSet x.flag := by
  unfold State.markerActive
  rw [State.setMarker_marker, if_pos rfl]
  cases x.mode <;> rfl

end Sys2Proof.Machine

namespace Sys2Proof.Proofs.LineRequests

open Sys2Proof Sys2Proof.Machine

/-- Settles O52. -/
theorem lineRequests : Obligations.LineRequests := by
  unfold Obligations.LineRequests
  refine fun s => ⟨fun tag kind n mode a b c hserves => ?_, fun tag n hserves => ?_⟩
  · intro request
    have hsize : [kind, n, mode, a, b, c].length = 6 := rfl
    have htrigger := readTriggerSettings_eq kind n mode a b c
    have hmarker := readMarkerSettings_eq kind n mode a b c
    split
    next h =>
      intro line
      obtain ⟨hn, hfields⟩ := h
      obtain ⟨rfl, hset⟩ | ⟨rfl, hset⟩ := hfields
      · rw [if_pos hset] at htrigger
        exact completes_of_blind
          (f := fun u => u.setTrigger line
            { mode := if mode = 0 then .off else if mode = 1 then .rise else if mode = 2 then .fall else .both
              holdoff := a.toNat
              setsFlag := b = 1
              flag := c.setWidth 4
              remaining := 0
              level := (u.trigger line).level })
          (exec_lineSet ..) hserves
          (fun l => handleLineSet_trigger hsize rfl (readFour_of_lt hn) htrigger _) fun l => rfl
      · rw [if_pos hset] at hmarker
        rw [if_neg (by decide)]
        intro remaining active
        have hnew : (s.marker line).replaced (markerModeOf mode) (a.setWidth 4)
            (if b = 0 then .activeHigh else .activeLow) c.toNat =
            { mode := markerModeOf mode, flag := a.setWidth 4,
              polarity := if b = 0 then .activeHigh else .activeLow, width := c.toNat, remaining := remaining } := by
          simp only [MarkerLine.replaced, markerModeOf_eq_pulse]
          rfl
        have hremaining : remaining = ((s.marker line).replaced (markerModeOf mode) (a.setWidth 4)
            (if b = 0 then .activeHigh else .activeLow) c.toNat).remaining :=
          (congrArg MarkerLine.remaining hnew).symm
        have hactive : (s.setMarker line ((s.marker line).replaced (markerModeOf mode) (a.setWidth 4)
            (if b = 0 then .activeHigh else .activeLow) c.toNat)).markerActive line = decide active := by
          rw [hnew, State.markerActive_setMarker]
          obtain hmode | hmode | hmode | habove := byte_cases mode
          · simp [hmode, active, markerModeOf]
          · simp [hmode, active, markerModeOf]
          · simp [hmode, active, markerModeOf]
          · omega
        have hdone := completes_of_blind (payload := bit8 (decide active) ++ le8 remaining)
          (f := fun u => u.setMarker line ((u.marker line).replaced (markerModeOf mode) (a.setWidth 4)
            (if b = 0 then .activeHigh else .activeLow) c.toNat))
          (exec_lineSet ..) hserves
          (fun l => by
            rw [← hactive, hremaining]
            exact handleLineSet_marker hsize rfl (readFour_of_lt hn) hmarker _)
          fun l => rfl
        rw [hnew] at hdone
        simp only [bit8, decide_eq_true_eq] at hdone
        exact hdone
    next h =>
      refine refuses_of_blind (exec_lineSet ..) hserves fun l => handleLineSet_range hsize ?_ ?_ _
      · intro hzero
        obtain rfl := (toNat_eq_iff kind 0).mp hzero
        by_cases hn : n.toNat < 4
        · exact .inr (htrigger.trans (if_neg fun hset => h ⟨hn, .inl ⟨rfl, hset⟩⟩))
        · exact .inl (readFour_of_ge hn)
      · intro hone
        obtain rfl := (toNat_eq_iff kind 1).mp hone
        by_cases hn : n.toNat < 4
        · exact .inr (hmarker.trans (if_neg fun hset => h ⟨hn, .inr ⟨rfl, hset⟩⟩))
        · exact .inl (readFour_of_ge hn)
  · have hsize : ¬ [n].length ≠ 1 := by simp
    have hbyte : byteAt [n] 0 = n.toNat := rfl
    split
    next hn =>
      refine ⟨BitVec.ofNat 8 (maskOf fun i => (s.trigger i).level), BitVec.ofNat 8 (maskOf s.markerActive),
        fun i => ⟨(maskOf_spec _).2 i, (maskOf_spec _).2 i⟩, ?_, ?_, ?_⟩
      · exact lt_of_le_of_lt (BitVec.toNat_ofNat .. ▸ Nat.mod_le _ _) (maskOf_spec _).1
      · exact lt_of_le_of_lt (BitVec.toNat_ofNat .. ▸ Nat.mod_le _ _) (maskOf_spec _).1
      · rw [← funext Capture.bytes_eq]
        refine completes_of_blind
          (f := fun u => { u with
            lines := { u.lines with captures := u.lines.captures.drop n.toNat, overrun := false } })
          (exec_captureRead ..) hserves (fun l => ?_) fun l => rfl
        exact (if_neg hsize).trans (if_neg (Nat.not_lt.mpr hn))
    next hn =>
      exact refuses_of_blind (exec_captureRead ..) hserves fun l =>
        (if_neg hsize).trans (if_pos (Nat.lt_of_not_le hn))

end Sys2Proof.Proofs.LineRequests
end

section
/-! PROOFS. Trigger edges, holdoffs and pulses (chapter 09): O53. The samples of the four lines in one port sample are
taken one by one (`Sampled`); a pulse falls at a tick start and only an entry start raises it again. -/

namespace Sys2Proof.Machine

/-! ### What an accepted edge does (R171 to R173) -/

/-- A queue with room takes the record. -/
theorem offerCapture_room (c : Capture) {s : State} (h : s.lines.captures.length < 16) :
    offerCapture c s =
      ({ s with lines := { s.lines with captures := s.lines.captures ++ [c] } } : State).raiseIf
        s.lines.captures.isEmpty lineSource .captured := if_pos h

/-- A full queue loses the record. -/
theorem offerCapture_full (c : Capture) {s : State} (h : ¬ s.lines.captures.length < 16) :
    offerCapture c s =
      ({ s with lines := { s.lines with overrun := true } } : State).raise lineSource .captureOverrun := if_neg h

theorem offerCapture_lines (c : Capture) (s : State) :
    (offerCapture c s).lines =
      { s.lines with
        captures := if s.lines.captures.length < 16 then s.lines.captures ++ [c] else s.lines.captures
        overrun := s.lines.overrun || decide (16 ≤ s.lines.captures.length) } := by
  by_cases hroom : s.lines.captures.length < 16
  · rw [offerCapture_room c hroom, raiseIf_field State.lines (fun _ _ => rfl), if_pos hroom,
      decide_eq_false (Nat.not_le.mpr hroom), Bool.or_false]
  · rw [offerCapture_full c hroom, if_neg hroom, decide_eq_true (Nat.not_lt.mp hroom), Bool.or_true]
    rfl

theorem offerCapture_frame (c : Capture) (s : State) :
    { offerCapture c s with lines := s.lines, notices := s.notices } = s := by
  by_cases hroom : s.lines.captures.length < 16
  · rw [offerCapture_room c hroom]
    exact congrArg (fun u : State => { u with lines := s.lines }) (raiseIf_frame ..)
  · rw [offerCapture_full c hroom]
    rfl

theorem offerCapture_field {β : Type} (f : State → β)
    (hf : ∀ (u : State) x n, f { u with lines := x, notices := n } = f u) (c : Capture) (s : State) :
    f (offerCapture c s) = f s := by
  rw [← hf (offerCapture c s) s.lines s.notices, offerCapture_frame]

theorem offerCapture_notice_other (c : Capture) (s : State) {n : SourceId} (h : n ≠ lineSource) :
    (offerCapture c s).notice n = s.notice n := by
  by_cases hroom : s.lines.captures.length < 16
  · rw [offerCapture_room c hroom]
    exact State.raiseIf_notice_other _ _ _ h
  · rw [offerCapture_full c hroom, State.raise_notice, if_neg h.symm]
    rfl

theorem offerCapture_notice (c : Capture) (s : State) :
    (offerCapture c s).notice lineSource =
      if s.lines.captures = [] then some (mergeCause s.timeline.count .captured (s.notice lineSource))
      else if 16 ≤ s.lines.captures.length then
        some (mergeCause s.timeline.count .captureOverrun (s.notice lineSource))
      else s.notice lineSource := by
  by_cases hroom : s.lines.captures.length < 16
  · rw [offerCapture_room c hroom, if_neg (Nat.not_le.mpr hroom), State.raiseIf]
    by_cases hempty : s.lines.captures = []
    · rw [if_pos hempty, if_pos (List.isEmpty_iff.mpr hempty), State.raise_notice, if_pos rfl]
      rfl
    · rw [if_neg hempty, if_neg (mt List.isEmpty_iff.mp hempty)]
      rfl
  · have hsome : s.lines.captures ≠ [] := fun h => hroom (by simp [h])
    rw [offerCapture_full c hroom, if_neg hsome, if_pos (Nat.not_lt.mp hroom), State.raise_notice, if_pos rfl]
    rfl

theorem forEach_modTrack_track {ts : List TrackId} (hts : ts.Nodup) (f : Track → Track) (s : State) (t : TrackId) :
    (forEach ts (fun u k => u.modTrack k f) s).track t = if t ∈ ts then f (s.track t) else s.track t := by
  induction ts generalizing s with
  | nil => rfl
  | cons k ts ih =>
    obtain ⟨hk, hnodup⟩ := List.nodup_cons.mp hts
    refine (ih hnodup (s.modTrack k f)).trans ?_
    rw [State.modTrack_track]
    by_cases hkt : k = t
    · subst hkt
      rw [if_neg hk, if_pos rfl, if_pos List.mem_cons_self]
    · rw [if_neg hkt]
      simp only [List.mem_cons, Ne.symm hkt, false_or]

theorem meetTrigger_frame (n : LineId) (s : State) : { meetTrigger n s with tracks := s.tracks } = s := by
  unfold meetTrigger
  refine forEach_inv _ _ (fun u => { u with tracks := s.tracks } = s) (fun u t hu => ?_) s rfl
  exact hu

/-- What an edge accepted on line `n` makes of a track (R34). -/
def Track.edge_met (n : LineId) (tr : Track) : Track :=
  if tr.state = .starting ∧ tr.start = .trigger n then { tr with startDue := true } else tr

theorem meetTrigger_track (n : LineId) (s : State) (t : TrackId) :
    (meetTrigger n s).track t = (s.track t).edge_met n := by
  unfold meetTrigger Track.edge_met
  refine (forEach_modTrack_track ((List.nodup_finRange 48).filter _) _ s t).trans ?_
  simp only [List.mem_filter, List.mem_finRange, true_and, Bool.and_eq_true, decide_eq_true_eq]

/-- The record of an edge on line `n` (R173). -/
def State.edgeRecord (s : State) (n : LineId) (rising : Bool) (offset : BitVec 12) : Capture :=
  { line := n, rising := rising, count := s.timeline.count, offset := offset }

/-- The state as its accepted edge leaves it but for the tracks that wait on the line. -/
def State.edgeTaken (s : State) (n : LineId) (rising : Bool) (offset : BitVec 12) : State :=
  let s1 := offerCapture (s.edgeRecord n rising offset)
    (s.setTrigger n { s.trigger n with remaining := (s.trigger n).holdoff })
  if (s.trigger n).setsFlag then s1.setFlag (s.trigger n).flag else s1

theorem acceptEdge_eq (n : LineId) (rising : Bool) (offset : BitVec 12) (s : State) :
    acceptEdge n rising offset s = meetTrigger n (s.edgeTaken n rising offset) := rfl

/-- What an accepted edge leaves but for the flags. -/
theorem edgeTaken_field {β : Type} (f : State → β) (hf : ∀ (u : State) x, f { u with flags := x } = f u) (s : State)
    (n : LineId) (rising : Bool) (offset : BitVec 12) :
    f (s.edgeTaken n rising offset) = f (offerCapture (s.edgeRecord n rising offset)
      (s.setTrigger n { s.trigger n with remaining := (s.trigger n).holdoff })) := by
  unfold State.edgeTaken
  split
  · exact hf ..
  · rfl

theorem acceptEdge_field {β : Type} (f : State → β) (hf : ∀ (u : State) x, f { u with tracks := x } = f u) (n : LineId)
    (rising : Bool) (offset : BitVec 12) (s : State) :
    f (acceptEdge n rising offset s) = f (s.edgeTaken n rising offset) := by
  rw [acceptEdge_eq, ← hf (meetTrigger n _) (s.edgeTaken n rising offset).tracks, meetTrigger_frame]

theorem acceptEdge_lines (n : LineId) (rising : Bool) (offset : BitVec 12) (s : State) :
    (acceptEdge n rising offset s).lines =
      { (s.setTrigger n { s.trigger n with remaining := (s.trigger n).holdoff }).lines with
        captures := if s.lines.captures.length < 16 then s.lines.captures ++ [s.edgeRecord n rising offset]
          else s.lines.captures
        overrun := s.lines.overrun || decide (16 ≤ s.lines.captures.length) } := by
  rw [acceptEdge_field State.lines (fun _ _ => rfl), edgeTaken_field State.lines (fun _ _ => rfl), offerCapture_lines]
  rfl

theorem acceptEdge_flags (n : LineId) (rising : Bool) (offset : BitVec 12) (s : State) :
    (acceptEdge n rising offset s).flags =
      if (s.trigger n).setsFlag then (s.setFlag (s.trigger n).flag).flags else s.flags := by
  have hoffer := offerCapture_field State.flags (fun _ _ _ => rfl)
  rw [acceptEdge_field State.flags (fun _ _ => rfl), State.edgeTaken]
  split
  · simp only [State.setFlag, hoffer]
    rfl
  · rw [hoffer]
    rfl

theorem edgeTaken_track (s : State) (n : LineId) (rising : Bool) (offset : BitVec 12) (t : TrackId) :
    (s.edgeTaken n rising offset).track t = s.track t := by
  rw [edgeTaken_field (fun u => u.track t) (fun _ _ => rfl), offerCapture_field (fun u => u.track t) fun _ _ _ => rfl]
  rfl

theorem acceptEdge_track (n : LineId) (rising : Bool) (offset : BitVec 12) (s : State) (t : TrackId) :
    (acceptEdge n rising offset s).track t = (s.track t).edge_met n := by
  rw [acceptEdge_eq, meetTrigger_track, edgeTaken_track]

theorem acceptEdge_notice_other (n : LineId) (rising : Bool) (offset : BitVec 12) (s : State) {k : SourceId}
    (h : k ≠ lineSource) : (acceptEdge n rising offset s).notice k = s.notice k := by
  rw [acceptEdge_field (fun u => u.notice k) (fun _ _ => rfl), edgeTaken_field (fun u => u.notice k) (fun _ _ => rfl),
    offerCapture_notice_other _ _ h]
  rfl

theorem acceptEdge_notice (n : LineId) (rising : Bool) (offset : BitVec 12) (s : State) :
    (acceptEdge n rising offset s).notice lineSource =
      if s.lines.captures = [] then some (mergeCause s.timeline.count .captured (s.notice lineSource))
      else if 16 ≤ s.lines.captures.length then
        some (mergeCause s.timeline.count .captureOverrun (s.notice lineSource))
      else s.notice lineSource := by
  rw [acceptEdge_field (fun u => u.notice lineSource) (fun _ _ => rfl),
    edgeTaken_field (fun u => u.notice lineSource) (fun _ _ => rfl), offerCapture_notice]
  rfl

theorem acceptEdge_frame (n : LineId) (rising : Bool) (offset : BitVec 12) (s : State) :
    { acceptEdge n rising offset s with lines := s.lines, flags := s.flags, tracks := s.tracks, notices := s.notices } =
      s := by
  rw [acceptEdge_field
      (fun u => ({ u with lines := s.lines, flags := s.flags, tracks := s.tracks, notices := s.notices } : State))
      (fun _ _ => rfl),
    edgeTaken_field
      (fun u => ({ u with lines := s.lines, flags := s.flags, tracks := s.tracks, notices := s.notices } : State))
      (fun _ _ => rfl),
    offerCapture_field
      (fun u => ({ u with lines := s.lines, flags := s.flags, tracks := s.tracks, notices := s.notices } : State))
      (fun _ _ _ => rfl)]
  rfl

/-! ### The sample of one line (R169, R171) -/

/-- The level a line shows is an edge that its mode admits while no holdoff remains. -/
def State.edgeAccepted (s : State) (levels : BitVec 4) (m : LineId) : Bool :=
  levels.getLsbD m.1 ≠ (s.trigger m).level && (s.trigger m).remaining = 0 &&
    (s.trigger m).mode.admits (levels.getLsbD m.1)

/-- The state with the level last seen on a line. -/
def State.seen (s : State) (levels : BitVec 4) (m : LineId) : State :=
  s.setTrigger m { s.trigger m with level := levels.getLsbD m.1 }

theorem sampleTrigger_still {levels : BitVec 4} {s : State} {n : LineId}
    (h : levels.getLsbD n.1 = (s.trigger n).level) (offset : BitVec 12) : sampleTrigger levels offset s n = s :=
  if_pos h

theorem sampleTrigger_turned {levels : BitVec 4} {s : State} {n : LineId}
    (h : levels.getLsbD n.1 ≠ (s.trigger n).level)
    (haway : ¬ ((s.trigger n).mode.admits (levels.getLsbD n.1) = true ∧ (s.trigger n).remaining = 0))
    (offset : BitVec 12) : sampleTrigger levels offset s n = s.seen levels n := by
  refine (if_neg h).trans (if_neg ?_)
  rwa [Bool.and_eq_true, decide_eq_true_eq]

theorem sampleTrigger_accepted {levels : BitVec 4} {s : State} {n : LineId}
    (h : levels.getLsbD n.1 ≠ (s.trigger n).level)
    (hadmits : (s.trigger n).mode.admits (levels.getLsbD n.1) = true) (hfree : (s.trigger n).remaining = 0)
    (offset : BitVec 12) :
    sampleTrigger levels offset s n = acceptEdge n (levels.getLsbD n.1) offset (s.seen levels n) := by
  refine (if_neg h).trans (if_pos ?_)
  rw [Bool.and_eq_true, decide_eq_true_eq]
  exact ⟨hadmits, hfree⟩

/-! ### The samples of several lines (R169, R173) -/

/-- The records of the edges accepted on some lines, in order. -/
def State.edgeRecords (s : State) (levels : BitVec 4) (offset : BitVec 12) (ns : List LineId) : List Capture :=
  (ns.filter (s.edgeAccepted levels)).map fun m => s.edgeRecord m (levels.getLsbD m.1) offset

/-- What the samples of the lines `ns` make of a state. -/
structure Sampled (levels : BitVec 4) (offset : BitVec 12) (ns : List LineId) (s u : State) : Prop where
  trigger : ∀ m, u.trigger m =
    if m ∈ ns then
      { s.trigger m with
        level := levels.getLsbD m.1
        remaining := if s.edgeAccepted levels m then (s.trigger m).holdoff else (s.trigger m).remaining }
    else s.trigger m
  captures : u.lines.captures =
    s.lines.captures ++ (s.edgeRecords levels offset ns).take (16 - s.lines.captures.length)
  overrun : u.lines.overrun = (s.lines.overrun ||
    (decide (s.edgeRecords levels offset ns ≠ []) &&
      decide (16 < s.lines.captures.length + (s.edgeRecords levels offset ns).length)))
  flag : ∀ f, u.flagSet f = (s.flagSet f ||
    ns.any fun m => s.edgeAccepted levels m && (s.trigger m).setsFlag && decide ((s.trigger m).flag = f))
  track : ∀ t, u.track t =
    if (s.track t).state = .starting ∧ ∃ m ∈ ns, s.edgeAccepted levels m = true ∧ (s.track t).start = .trigger m then
      { s.track t with startDue := true }
    else s.track t
  notice : ∀ k, k ≠ lineSource → u.notice k = s.notice k
  timeline : u.timeline = s.timeline

theorem Sampled.nil (levels : BitVec 4) (offset : BitVec 12) (s : State) : Sampled levels offset [] s s where
  trigger m := by simp
  captures := by simp [State.edgeRecords]
  overrun := by simp [State.edgeRecords]
  flag f := by simp
  track t := by simp
  notice _ _ := rfl
  timeline := rfl

theorem Sampled.cons {levels : BitVec 4} {offset : BitVec 12} {n : LineId} {ns : List LineId} {s v u : State}
    (h : Sampled levels offset [n] s v) (k : Sampled levels offset ns v u) (hn : n ∉ ns) :
    Sampled levels offset (n :: ns) s u := by
  have hother {m : LineId} (hm : m ∈ ns) : v.trigger m = s.trigger m := by
    rw [h.trigger, if_neg fun hmem => hn (by rwa [← List.mem_singleton.mp hmem])]
  have haccepted {m : LineId} (hm : m ∈ ns) : v.edgeAccepted levels m = s.edgeAccepted levels m := by
    rw [State.edgeAccepted, State.edgeAccepted, hother hm]
  have hrecords : s.edgeRecords levels offset (n :: ns) =
      s.edgeRecords levels offset [n] ++ v.edgeRecords levels offset ns := by
    have hrecord (m : LineId) (r : Bool) : v.edgeRecord m r offset = s.edgeRecord m r offset := by
      rw [State.edgeRecord, State.edgeRecord, h.timeline]
    have hrest : v.edgeRecords levels offset ns = s.edgeRecords levels offset ns := by
      simp only [State.edgeRecords, hrecord, List.filter_congr fun m hm => haccepted hm]
    rw [hrest]
    exact (congrArg (List.map _) (List.filter_append (p := s.edgeAccepted levels) [n] ns)).trans List.map_append
  have hlength : v.lines.captures.length =
      s.lines.captures.length + min (16 - s.lines.captures.length) (s.edgeRecords levels offset [n]).length := by
    rw [h.captures, List.length_append, List.length_take]
  exact {
    trigger := fun m => by
      rw [k.trigger]
      by_cases hm : m ∈ ns
      · rw [if_pos hm, if_pos (List.mem_cons_of_mem n hm), hother hm, haccepted hm]
      · rw [if_neg hm, h.trigger]
        simp only [List.mem_cons, List.not_mem_nil, or_false, hm]
    captures := by
      rw [k.captures, h.captures, hrecords, List.append_assoc, List.take_append, ← h.captures, hlength]
      congr 3
      omega
    overrun := by
      rw [k.overrun, h.overrun, hrecords, hlength, Bool.eq_iff_iff]
      simp only [Bool.or_eq_true, Bool.and_eq_true, decide_eq_true_eq, ne_eq, ← List.length_pos_iff_ne_nil,
        List.length_append]
      cases s.lines.overrun <;> simp only [true_or, Bool.false_eq_true, false_or]
      omega
    flag := fun f => by
      rw [k.flag, h.flag, Bool.or_assoc, List.any_cons, List.any_cons, List.any_nil, Bool.or_false]
      congr 2
      rw [Bool.eq_iff_iff, List.any_eq_true, List.any_eq_true]
      refine exists_congr fun m => and_congr_right fun hm => ?_
      rw [haccepted hm, hother hm]
    track := fun t => by
      have hlines : (∃ m ∈ ns, v.edgeAccepted levels m = true ∧ (s.track t).start = .trigger m) ↔
          ∃ m ∈ ns, s.edgeAccepted levels m = true ∧ (s.track t).start = .trigger m :=
        exists_congr fun m => and_congr_right fun hm => by rw [haccepted hm]
      rw [k.track, h.track]
      simp only [List.mem_cons, List.not_mem_nil, or_false, exists_eq_left, exists_eq_or_imp]
      by_cases hfirst : (s.track t).state = .starting ∧ s.edgeAccepted levels n = true ∧ (s.track t).start = .trigger n
      · have hany : (s.track t).state = .starting ∧
            ((s.edgeAccepted levels n = true ∧ (s.track t).start = .trigger n) ∨
              ∃ m ∈ ns, s.edgeAccepted levels m = true ∧ (s.track t).start = .trigger m) :=
          ⟨hfirst.1, Or.inl hfirst.2⟩
        simp only [if_pos hfirst, if_pos hany, ite_self]
      · simp only [if_neg hfirst, hlines]
        refine if_congr ⟨fun ⟨hs, hm⟩ => ⟨hs, .inr hm⟩, fun ⟨hs, hm⟩ => ⟨hs, hm.resolve_left fun hn => hfirst ⟨hs, hn⟩⟩⟩
          rfl rfl
    notice := fun j hj => (k.notice j hj).trans (h.notice j hj)
    timeline := k.timeline.trans h.timeline }

theorem State.seen_self {s : State} {levels : BitVec 4} {n : LineId} (h : levels.getLsbD n.1 = (s.trigger n).level) :
    s.seen levels n = s := by
  have hset : s.lines.triggers.set n.1 s.lines.triggers[n.1] = s.lines.triggers := Vector.set_getElem_self _
  rw [State.seen, h]
  exact congrArg (fun v => { s with lines := { s.lines with triggers := v } }) hset

/-- An edge turned away, or none, changes only the level last seen (R171). -/
theorem Sampled.turnedAway {levels : BitVec 4} {s : State} {n : LineId} (h : s.edgeAccepted levels n = false)
    (offset : BitVec 12) : Sampled levels offset [n] s (s.seen levels n) where
  trigger m := by
    rw [State.seen, State.setTrigger_trigger]
    simp only [List.mem_singleton]
    by_cases hm : m = n
    · subst hm
      rw [if_pos rfl, if_pos rfl, h]
      rfl
    · rw [if_neg (Ne.symm hm), if_neg hm]
  captures := by simp [State.edgeRecords, h, State.seen]
  overrun := by simp [State.edgeRecords, h, State.seen]
  flag f := by simp [h, State.seen, State.flagSet]
  track t := by simp [h, State.seen]
  notice _ _ := rfl
  timeline := rfl

theorem Sampled.accepted {levels : BitVec 4} {s : State} {n : LineId} (h : s.edgeAccepted levels n = true)
    (offset : BitVec 12) :
    Sampled levels offset [n] s (acceptEdge n (levels.getLsbD n.1) offset (s.seen levels n)) := by
  have hrecords : s.edgeRecords levels offset [n] = [s.edgeRecord n (levels.getLsbD n.1) offset] := by
    simp [State.edgeRecords, h]
  have hlines := acceptEdge_lines n (levels.getLsbD n.1) offset (s.seen levels n)
  have hseen : (s.seen levels n).trigger n = { s.trigger n with level := levels.getLsbD n.1 } :=
    State.setTrigger_trigger_same ..
  exact {
    trigger := fun m => by
      have htriggers : (acceptEdge n (levels.getLsbD n.1) offset (s.seen levels n)).trigger m =
          ((s.seen levels n).setTrigger n { (s.seen levels n).trigger n with
            remaining := ((s.seen levels n).trigger n).holdoff }).trigger m := by
        rw [State.trigger, hlines]
        rfl
      rw [htriggers, State.setTrigger_trigger, hseen]
      simp only [List.mem_singleton]
      by_cases hm : m = n
      · subst hm
        rw [if_pos rfl, if_pos rfl, if_pos h]
      · rw [if_neg (Ne.symm hm), if_neg hm, State.seen, State.setTrigger_trigger, if_neg (Ne.symm hm)]
    captures := by
      rw [hlines, hrecords]
      change (if s.lines.captures.length < 16 then _ else s.lines.captures) = _
      split
      next hroom =>
        rw [List.take_of_length_le (by simp; omega)]
        rfl
      next hfull => rw [show 16 - s.lines.captures.length = 0 by omega, List.take_zero, List.append_nil]
    overrun := by
      rw [hlines, hrecords]
      change (s.lines.overrun || decide (16 ≤ s.lines.captures.length)) = _
      congr 1
      simp
    flag := fun f => by
      rw [List.any_cons, List.any_nil, Bool.or_false, h, Bool.true_and, State.flagSet, acceptEdge_flags, hseen]
      cases (s.trigger n).setsFlag with
      | false => exact (Bool.or_false _).symm
      | true => exact (State.setFlag_flagSet s (s.trigger n).flag f).trans (Bool.or_comm _ _)
    track := fun t => by
      rw [acceptEdge_track, Track.edge_met]
      simp only [List.mem_singleton, exists_eq_left, h, true_and]
      rfl
    notice := fun k hk => acceptEdge_notice_other n _ offset _ hk
    timeline := (congrArg State.timeline (acceptEdge_frame n (levels.getLsbD n.1) offset (s.seen levels n)) :) }

theorem sampleTrigger_sampled (levels : BitVec 4) (offset : BitVec 12) (s : State) (n : LineId) :
    Sampled levels offset [n] s (sampleTrigger levels offset s n) := by
  by_cases hlevel : levels.getLsbD n.1 = (s.trigger n).level
  · have haway : s.edgeAccepted levels n = false := by
      rw [State.edgeAccepted, hlevel]
      simp
    have hturned := Sampled.turnedAway haway offset
    rw [State.seen_self hlevel] at hturned
    rwa [sampleTrigger_still hlevel offset]
  · by_cases hadmits : (s.trigger n).mode.admits (levels.getLsbD n.1) = true ∧ (s.trigger n).remaining = 0
    · rw [sampleTrigger_accepted hlevel hadmits.1 hadmits.2]
      refine .accepted ?_ offset
      rw [State.edgeAccepted, hadmits.1, hadmits.2, decide_eq_true hlevel]
      rfl
    · rw [sampleTrigger_turned hlevel hadmits]
      refine .turnedAway ?_ offset
      rw [State.edgeAccepted, Bool.eq_false_iff]
      simp only [ne_eq, Bool.and_eq_true, decide_eq_true_eq]
      exact fun ⟨⟨_, hfree⟩, hmode⟩ => hadmits ⟨hmode, hfree⟩

theorem sampleTriggers_sampled (levels : BitVec 4) (offset : BitVec 12) {ns : List LineId} (hns : ns.Nodup) (s : State) :
    Sampled levels offset ns s (forEach ns (sampleTrigger levels offset) s) := by
  induction ns generalizing s with
  | nil => exact .nil levels offset s
  | cons n ns ih =>
    obtain ⟨hn, hnodup⟩ := List.nodup_cons.mp hns
    exact (sampleTrigger_sampled levels offset s n).cons (ih hnodup _) hn

/-- Where no other line shows an edge, the samples of the four lines are that of one. -/
theorem triggerEdge_one {levels : BitVec 4} {s : State} {n : LineId}
    (h : ∀ m, m ≠ n → levels.getLsbD m.1 = (s.trigger m).level) (offset : BitVec 12) :
    triggerEdge levels offset s = sampleTrigger levels offset s n := by
  have hstill (ns : List LineId) (u : State) (hu : ∀ m ∈ ns, levels.getLsbD m.1 = (u.trigger m).level) :
      forEach ns (sampleTrigger levels offset) u = u := by
    induction ns with
    | nil => rfl
    | cons m ns ih =>
      refine (congrArg (forEach ns _) (sampleTrigger_still (hu m List.mem_cons_self) offset)).trans ?_
      exact ih fun k hk => hu k (List.mem_cons_of_mem m hk)
  obtain ⟨before, after, hsplit⟩ := List.append_of_mem (List.mem_finRange n)
  have hnodup := List.nodup_finRange 4
  rw [hsplit, List.nodup_middle, List.nodup_cons, List.mem_append, not_or] at hnodup
  obtain ⟨⟨hbefore, hafter⟩, -⟩ := hnodup
  have hsampled := sampleTrigger_sampled levels offset s n
  calc triggerEdge levels offset s
    _ = forEach (before ++ n :: after) (sampleTrigger levels offset) s := by rw [← hsplit]; rfl
    _ = forEach after (sampleTrigger levels offset)
          (sampleTrigger levels offset (forEach before (sampleTrigger levels offset) s) n) := List.foldl_append
    _ = sampleTrigger levels offset s n := by
      rw [hstill before s fun m hm => h m fun hmn => hbefore (hmn ▸ hm)]
      refine hstill after _ fun m hm => ?_
      have hne : m ≠ n := fun hmn => hafter (hmn ▸ hm)
      rw [hsampled.trigger, if_neg (by simpa using hne)]
      exact h m hne

/-! ### Pulses (R176) -/

/-- No pulse of `s` is shorter in `u`. -/
structure State.PulsesStay (s u : State) : Prop where
  remaining : ∀ m, (s.marker m).remaining ≤ (u.marker m).remaining

theorem State.PulsesStay.refl (s : State) : s.PulsesStay s := ⟨fun _ => Nat.le_refl _⟩

theorem State.PulsesStay.trans {s u v : State} (h : s.PulsesStay u) (k : u.PulsesStay v) : s.PulsesStay v :=
  ⟨fun m => (h.remaining m).trans (k.remaining m)⟩

theorem State.PulsesStay.of_markers {s u : State} (h : u.lines.markers = s.lines.markers) : s.PulsesStay u :=
  ⟨fun m => by rw [State.marker, State.marker, h]⟩

theorem pulseMarker_stay (s : State) (m : LineId) : s.PulsesStay (pulseMarker s m) := by
  unfold pulseMarker
  split
  · refine ⟨fun k => ?_⟩
    rw [State.setMarker_marker]
    split
    next h =>
      subst h
      exact Nat.le_max_left ..
    next => exact Nat.le_refl _
  · exact .refl s

theorem startActions_stay (t : TrackId) (e : CueEntry) (s : State) : s.PulsesStay (startActions t e s) := by
  have hflags : (s.flagAction e.action e.actionFlag).lines.markers = s.lines.markers := by
    unfold State.flagAction
    split <;> rfl
  have hpulses : s.PulsesStay (pulseMarkers e.markers (s.flagAction e.action e.actionFlag)) :=
    forEach_inv _ _ s.PulsesStay (fun u m hu => hu.trans (pulseMarker_stay u m)) _ (.of_markers hflags)
  exact hpulses.trans (.of_markers (raiseIf_field (fun u => u.lines.markers) (fun _ _ => rfl) ..))

/-! ### Parts of a track's tick that move neither flags nor pulses -/

/-- The flags and the marker lines stand. -/
structure Quiet (s u : State) : Prop where
  flags : u.flags = s.flags
  markers : u.lines.markers = s.lines.markers

theorem Quiet.refl (s : State) : Quiet s s := ⟨rfl, rfl⟩

theorem Quiet.trans {s u v : State} (h : Quiet s u) (k : Quiet u v) : Quiet s v :=
  ⟨k.flags.trans h.flags, k.markers.trans h.markers⟩

theorem Quiet.setTrack (t : TrackId) (x : Track) (s : State) : Quiet s (s.setTrack t x) := ⟨rfl, rfl⟩

theorem Quiet.modTrack (t : TrackId) (f : Track → Track) (s : State) : Quiet s (s.modTrack t f) := ⟨rfl, rfl⟩

theorem Quiet.raise (n : SourceId) (c : Cause) (s : State) : Quiet s (s.raise n c) := ⟨rfl, rfl⟩

theorem Quiet.raiseIf (b : Bool) (n : SourceId) (c : Cause) (s : State) : Quiet s (s.raiseIf b n c) :=
  ⟨raiseIf_field State.flags (fun _ _ => rfl) .., raiseIf_field (fun u => u.lines.markers) (fun _ _ => rfl) ..⟩

theorem LookaheadWork.quiet {t : TrackId} {s u : State} (h : LookaheadWork t s u) : Quiet s u := ⟨h.flags, h.markers⟩

theorem clampTrack_quiet (t : TrackId) (e : CueEntry) (s : State) : Quiet s (clampTrack t e s) := by
  simp only [clampTrack]
  split
  · exact ⟨rfl, rfl⟩
  · exact .refl s

theorem levelTick_quiet (t : TrackId) (c : Copy) (data : Option (List Byte)) (s : State) :
    Quiet s (levelTick t c data s) := by
  have hfeeds (fs : List Feed) (u : State) (tr : Track) (w : BitVec 32) :
      Quiet u (forEach fs (computeFeed t tr c w data) u) :=
    forEach_inv fs (computeFeed t tr c w data) (Quiet u) (fun _ _ hv => hv.trans ⟨rfl, rfl⟩) u (.refl u)
  refine Quiet.trans ?_ (.modTrack t Track.advanceGate _)
  refine Quiet.trans ?_ (clampTrack_quiet t c.entry _)
  refine Quiet.trans ?_ (.raiseIf _ _ _ _)
  refine Quiet.trans ?_ (.modTrack t _ _)
  exact (Quiet.setTrack t (s.track t).silent s).trans (hfeeds ..)

theorem consume_quiet (t : TrackId) (s : State) : Quiet s (consume t s).2 := by
  have hskip : Quiet s (underrun t (s.modTrack t Track.skipBlock)) := ⟨rfl, rfl⟩
  unfold consume
  split
  · exact hskip
  next x r _ =>
    split
    · exact hskip
    · have hdrop := (dropSlots_lookahead t [x.id] s).quiet
      generalize dropSlots t [x.id] s = u at hdrop
      dsimp only
      split
      · exact hdrop
      · exact hdrop.trans ⟨rfl, rfl⟩
      all_goals exact hdrop.trans ⟨rfl, rfl⟩

theorem playBlock_quiet (t : TrackId) (c : Copy) (entryStart : Bool) (s : State) :
    Quiet s (playBlock t c entryStart s) := by
  have htaken := consume_quiet t s
  simp only [playBlock]
  generalize (consume t s).1 = data
  generalize (consume t s).2 = u at htaken
  have hmoved : Quiet s (if ((u.track t).transferPoint entryStart c.entry && (u.track t).stagedPending) = true then
      u.setTrack t (u.track t).transfer else u) := by
    split
    · exact htaken.trans (.setTrack ..)
    · exact htaken
  refine Quiet.trans ?_ (walk_work t _).quiet
  refine Quiet.trans ?_ (levelTick_quiet ..)
  split
  · exact hmoved.trans (clampTrack_quiet ..)
  · exact hmoved

theorem discardAll_quiet (t : TrackId) (s : State) : Quiet s (discardAll t s) :=
  (Quiet.modTrack t _ s).trans (dropSlots_lookahead t _ _).quiet

theorem faultTrack_quiet (t : TrackId) (reason : FaultReason) (index : CueIndex) (s : State) :
    Quiet s (faultTrack t reason index s) :=
  ((discardAll_quiet t s).trans (.modTrack t _ _)).trans (.raise ..)

theorem completeStop_quiet (t : TrackId) (cause : Cause) (s : State) : Quiet s (completeStop t cause s) :=
  (((discardAll_quiet t s).trans (.modTrack t _ _)).trans (.raise ..)).trans (restartWalk_work t _).quiet

/-! ### No part of a track's tick shortens a pulse -/

theorem Quiet.stay {s u : State} (h : Quiet s u) : s.PulsesStay u := .of_markers h.markers

theorem beginFront_stay (t : TrackId) (s : State) : s.PulsesStay (beginFront t s) := by
  unfold beginFront
  split
  · exact .refl s
  next c r _ =>
    split
    · exact (faultTrack_quiet ..).stay
    · exact ((Quiet.modTrack ..).stay.trans (startActions_stay t c.entry _)).trans (playBlock_quiet ..).stay

theorem beginNext_stay (t : TrackId) (leave : Track → Track) (s : State) : s.PulsesStay (beginNext t leave s) := by
  unfold beginNext
  split
  · exact (Quiet.modTrack ..).stay.trans (beginFront_stay ..)
  · exact .refl s

theorem holdBoundary_stay (t : TrackId) (s : State) : s.PulsesStay (holdBoundary t s) := by
  unfold holdBoundary
  split_ifs
  · exact (completeStop_quiet ..).stay
  · exact beginNext_stay ..
  · exact (Quiet.modTrack ..).stay

theorem resolveIf_stay (t : TrackId) (c : Copy) (s : State) : s.PulsesStay (resolveIf t c s) := by
  simp only [resolveIf]
  split
  · exact (resolveSplit_work ..).quiet.stay.trans (beginNext_stay ..)
  · exact beginNext_stay ..

theorem followEntry_stay (t : TrackId) (c : Copy) (s : State) : s.PulsesStay (followEntry t c s) := by
  unfold followEntry afterTrailing
  split
  · split
    · exact (faultTrack_quiet ..).stay
    · exact beginNext_stay ..
  · split
    · exact beginNext_stay ..
    · split
      case h_4 =>
        split
        · exact beginNext_stay ..
        · exact (faultTrack_quiet ..).stay
      case h_5 | h_6 => exact resolveIf_stay ..
      case h_7 => exact holdBoundary_stay ..
      case h_8 => exact (completeStop_quiet ..).stay
      all_goals exact beginNext_stay ..

theorem boundary_stay (t : TrackId) (c : Copy) (s : State) : s.PulsesStay (boundary t c s) := by
  simp only [boundary]
  split
  · exact (completeStop_quiet ..).stay
  · split
    · exact ((Quiet.setTrack ..).trans (playBlock_quiet ..)).stay
    · exact followEntry_stay ..

theorem playTick_stay (t : TrackId) (s : State) : s.PulsesStay (playTick t s) := by
  simp only [playTick]
  split
  · exact (completeStop_quiet ..).stay
  · split
    · exact .refl s
    · split
      · exact (Quiet.setTrack ..).stay.trans (boundary_stay ..)
      · exact ((Quiet.setTrack ..).trans (playBlock_quiet ..)).stay

theorem startTick_stay (t : TrackId) (s : State) : s.PulsesStay (startTick t s) := by
  unfold startTick beginTrack
  split_ifs
  · split
    · exact .refl s
    · split
      · exact (faultTrack_quiet ..).stay
      · exact ((Quiet.modTrack ..).stay.trans (beginFront_stay ..)).trans (Quiet.raise ..).stay
  · exact ((Quiet.modTrack ..).trans (.raise ..)).stay
  · exact (Quiet.modTrack ..).stay

theorem holdTick_stay (t : TrackId) (s : State) : s.PulsesStay (holdTick t s) := by
  simp only [holdTick]
  split_ifs
  · exact (completeStop_quiet ..).stay
  · exact beginNext_stay ..
  · exact (Quiet.setTrack ..).stay

theorem trackTick_stay (t : TrackId) (s : State) : s.PulsesStay (trackTick t s) := by
  have hmark : s.PulsesStay (s.markTrack t) := .of_markers rfl
  simp only [trackTick]
  split
  · exact .refl s
  · split
    · exact hmark.trans (startTick_stay ..)
    · exact hmark.trans (holdTick_stay ..)
    · exact hmark.trans (playTick_stay ..)
    · exact hmark.trans (playTick_stay ..)
    all_goals exact hmark.trans (Quiet.modTrack ..).stay

/-! ### Tracks that play nothing -/

/-- The track neither starts nor plays, holds or stops. -/
def Track.Inert (tr : Track) : Prop :=
  tr.state = .idle ∨ tr.state = .priming ∨ tr.state = .ready ∨ tr.state = .faulted

theorem trackTick_inert {t : TrackId} {s : State} (h : (s.track t).Inert) :
    (trackTick t s).lines = s.lines ∧ ∀ k, ((trackTick t s).track k).state = (s.track k).state := by
  have hsilent : ((s.markTrack t).modTrack t Track.silent).lines = s.lines ∧
      ∀ k, (((s.markTrack t).modTrack t Track.silent).track k).state = (s.track k).state := by
    refine ⟨rfl, fun k => ?_⟩
    rw [State.modTrack_track]
    split
    next hk =>
      subst hk
      rfl
    next => rfl
  simp only [trackTick]
  split
  · exact ⟨rfl, fun _ => rfl⟩
  · obtain h | h | h | h := h <;> rw [h] <;> exact hsilent

theorem forEach_trackTick_inert (ts : List TrackId) {s : State} (h : ∀ t, (s.track t).Inert) :
    (forEach ts (fun u t => trackTick t u) s).lines = s.lines ∧
      ∀ t, ((forEach ts (fun u t => trackTick t u) s).track t).Inert := by
  refine forEach_inv ts _ (fun u => u.lines = s.lines ∧ ∀ t, (u.track t).Inert) (fun u t ⟨hlines, hu⟩ => ?_) s ⟨rfl, h⟩
  obtain ⟨hstays, hstate⟩ := trackTick_inert (hu t)
  refine ⟨hstays.trans hlines, fun k => ?_⟩
  rw [Track.Inert, hstate k]
  exact hu k

/-- Where every track is inert no part of the tick start after its opening reaches a line. -/
theorem tickStart_lines {s : State} (h : ∀ t, (s.track t).Inert) : (tickStart s).lines = (openTick s).lines := by
  have hflags : (flagPart (openTick s)).lines = (openTick s).lines ∧ ∀ t, ((flagPart (openTick s)).track t).Inert := by
    have hopen (t : TrackId) : ((openTick s).track t).Inert := by
      rw [openTick_track]
      exact h t
    unfold flagPart
    split
    · exact ⟨rfl, hopen⟩
    · obtain ⟨hlines, hinert⟩ := forEach_trackTick_inert
        (allTracks.filter (judgeFlags (openTick s)).isReleased) (s := judgeFlags (openTick s))
        fun t => by
          rw [judgeFlags_track]
          exact hopen t
      exact ⟨hlines.trans (judgeFlags_field State.lines (fun _ _ => rfl) _), hinert⟩
  exact (forEach_trackTick_inert allTracks hflags.2).1.trans hflags.1

theorem tickStart_stay (s : State) : (openTick s).PulsesStay (tickStart s) := by
  have htracks (ts : List TrackId) (u : State) : u.PulsesStay (forEach ts (fun v t => trackTick t v) u) :=
    forEach_inv ts _ u.PulsesStay (fun v t hv => hv.trans (trackTick_stay t v)) u (.refl u)
  have hflags : (openTick s).PulsesStay (flagPart (openTick s)) := by
    unfold flagPart
    split
    · exact .refl _
    · exact State.PulsesStay.trans (.of_markers (judgeFlags_field (fun u => u.lines.markers) (fun _ _ => rfl) _))
        (htracks ..)
  exact (hflags.trans (htracks ..)).trans (.of_markers rfl)

end Sys2Proof.Machine


namespace Sys2Proof.Proofs.LineEvents

open Sys2Proof Sys2Proof.Machine

/-- Settles O53. -/
theorem triggerAndMarkerEvents : Obligations.TriggerAndMarkerEvents := by
  unfold Obligations.TriggerAndMarkerEvents
  refine ⟨fun s m => ⟨fun h => ?_, fun h => ?_, fun h => ?_, ?_⟩, fun s n hheld => ⟨?_, ?_, ?_, ?_, ?_, ?_⟩⟩
  · rw [State.markerActive, h]
  · rw [State.markerActive, h]
    exact decide_eq_true_iff
  · rw [State.markerActive, h]
    rfl
  · rw [State.markerLevel]
    cases (s.marker m).polarity <;> rfl
  · intro levels offset hothers line rising admitted record
    have hacts : Acts (.triggerEdge levels offset) s (sampleTrigger levels offset s n) := by
      rw [← triggerEdge_one hothers offset]
      exact acts_of rfl hheld
    have hadmits : line.mode.admits rising = true ↔ admitted := by
      simp only [admitted]
      cases line.mode <;> simp [EdgeMode.admits]
    refine ⟨fun hstill => ?_, fun hturned haway => ?_, fun hturned hadmit hfree => ?_⟩
    · rwa [sampleTrigger_still hstill] at hacts
    · rwa [sampleTrigger_turned hturned (fun h => haway ⟨hadmits.mp h.1, h.2⟩)] at hacts
    · rw [sampleTrigger_accepted hturned (hadmits.mpr hadmit) hfree] at hacts
      have hlines := acceptEdge_lines n rising offset (s.seen levels n)
      have htrigger (m : LineId) : (acceptEdge n rising offset (s.seen levels n)).trigger m =
          if n = m then { line with level := rising, remaining := line.holdoff } else s.trigger m := by
        have hset : (acceptEdge n rising offset (s.seen levels n)).trigger m =
            ((s.seen levels n).setTrigger n { (s.seen levels n).trigger n with
              remaining := ((s.seen levels n).trigger n).holdoff }).trigger m := by
          rw [State.trigger, hlines]
          rfl
        rw [hset, State.setTrigger_trigger, State.seen, State.setTrigger_trigger_same, State.setTrigger_trigger]
        split <;> rfl
      have hflags := acceptEdge_flags n rising offset (s.seen levels n)
      have hseen : (s.seen levels n).trigger n = { line with level := rising } := State.setTrigger_trigger_same ..
      rw [hseen] at hflags
      refine ⟨_, hacts, ?_, fun m hm => ?_, ?_, ?_, ?_, hflags, fun t => acceptEdge_track .., acceptEdge_notice ..,
        fun m hm => acceptEdge_notice_other n rising offset _ hm, ?_⟩
      · rw [htrigger, if_pos rfl]
      · rw [htrigger, if_neg (Ne.symm hm)]
      · rw [hlines]
        rfl
      · rw [hlines]
        rfl
      · rw [hlines]
        rfl
      · exact congrArg (fun u : State => { u with lines := s.lines }) (acceptEdge_frame n rising offset (s.seen levels n))
  · intro levels offset accepted records
    have hacts : Acts (.triggerEdge levels offset) s (triggerEdge levels offset s) := acts_of rfl hheld
    have hsampled : Sampled levels offset (List.finRange 4) s (triggerEdge levels offset s) :=
      sampleTriggers_sampled levels offset (List.nodup_finRange 4) s
    have haccepted : s.edgeAccepted levels = accepted := by
      funext m
      simp only [State.edgeAccepted, accepted]
      cases (s.trigger m).mode <;> rfl
    have hrecords : s.edgeRecords levels offset (List.finRange 4) = records := by
      rw [State.edgeRecords, haccepted]
      rfl
    obtain ⟨htrigger, hcaptures, hoverrun, hflag, htrack, hnotice, -⟩ := hsampled
    rw [hrecords] at hcaptures hoverrun
    simp only [haccepted, List.mem_finRange, if_true, true_and] at htrigger hflag htrack
    exact ⟨_, hacts, htrigger, hcaptures, hoverrun, hflag, htrack, hnotice⟩
  · intro htriggers
    refine ⟨tickStart s, acts_tickStart hheld, ?_⟩
    rw [tickStart_trigger, openTick_trigger, State.triggerFallen, htriggers]
    rfl
  · intro hmarkers
    have hfallen : (openTick s).marker n = (s.marker n).fallen := by
      rw [openTick_marker, State.markerFallen, hmarkers]
      rfl
    refine ⟨by rw [hfallen, MarkerLine.fallen], tickStart s, acts_tickStart hheld, ?_, fun hinert => ?_⟩
    · have hstay := (tickStart_stay s).remaining n
      rwa [hfallen] at hstay
    · rw [State.marker, tickStart_lines hinert]
      exact hfallen
  · intro htriggers hone
    have hacts : Acts (.holdoffExpiry n) s (triggerFall (timelineTick s) n) :=
      takePart_acts (f := fun u => triggerFall (timelineTick u) n) rfl hheld
        (by rw [State.holdoffDue, htriggers, hone]; rfl)
    have hwork : (timelineTick s).work.triggers = s.work.triggers :=
      (congrArg TickWork.triggers (timelineTick_work_rest s) :)
    have hlines : (timelineTick s).lines = s.lines := timelineTick_field State.lines (fun _ _ _ _ => rfl) s
    have htrigger (m : LineId) : (timelineTick s).trigger m = s.trigger m := by rw [State.trigger, hlines]; rfl
    have hframe := triggerFall_frame (timelineTick s) n
    rw [hlines] at hframe
    refine ⟨_, hacts, ?_, fun m hm => ?_, triggerFall_field State.timeline (fun _ _ _ => rfl) _ n, ?_⟩
    · rw [triggerFall_trigger, if_pos rfl, State.triggerFallen, hwork, htriggers, htrigger]
      simp [TriggerLine.fallen, hone]
    · rw [triggerFall_trigger, if_neg (Ne.symm hm), htrigger]
    · exact (congrArg (fun u : State => { u with timeline := s.timeline, work := s.work, notices := s.notices })
        hframe).trans (timelineTick_frame s)
  · intro hmarkers hmode hone
    have hacts : Acts (.pulseEnd n) s (markerFall (timelineTick s) n) :=
      takePart_acts (f := fun u => markerFall (timelineTick u) n) rfl hheld
        (by rw [State.pulseEndDue, hmarkers, hmode, hone]; rfl)
    have hwork : (timelineTick s).work.markers = s.work.markers :=
      (congrArg TickWork.markers (timelineTick_work_rest s) :)
    have hlines : (timelineTick s).lines = s.lines := timelineTick_field State.lines (fun _ _ _ _ => rfl) s
    have hmarker (m : LineId) : (timelineTick s).marker m = s.marker m := by rw [State.marker, hlines]; rfl
    have hframe := markerFall_frame (timelineTick s) n
    rw [hlines] at hframe
    have hended : (markerFall (timelineTick s) n).marker n = { s.marker n with remaining := 0 } := by
      rw [markerFall_marker, if_pos rfl, State.markerFallen, hwork, hmarkers, hmarker]
      simp [MarkerLine.fallen, hone]
    refine ⟨_, hacts, hended, ?_, fun m hm => ?_, markerFall_field State.timeline (fun _ _ _ => rfl) _ n, ?_⟩
    · rw [State.markerActive, hended, hmode]
      rfl
    · rw [markerFall_marker, if_neg (Ne.symm hm), hmarker]
    · exact (congrArg (fun u : State => { u with timeline := s.timeline, work := s.work, notices := s.notices })
        hframe).trans (timelineTick_frame s)

end Sys2Proof.Proofs.LineEvents
end

section
/-! PROOFS. CLIP OPEN, CLIP DATA, CLIP CLOSE and CLIP DROP (chapter 06): O44, O45, O46. The search for a run, the count
of sectors over a canonical map, and the readers of the payloads. -/

namespace Sys2Proof.Machine

/-! ### The search for a run of FREE sectors (R122) -/

theorem State.runFree_iff (s : State) (b : BankId) (k n : Nat) :
    s.runFree b k n = true ↔ ∀ i < n, s.sector b (k + i) = .free := by
  induction n generalizing k with
  | zero => simp [State.runFree]
  | succ n ih =>
    rw [State.runFree, Bool.and_eq_true, decide_eq_true_eq, ih]
    refine ⟨fun ⟨hfirst, hrest⟩ i hi => ?_, fun h => ⟨h 0 (Nat.succ_pos n), fun i hi => ?_⟩⟩
    · cases i with
      | zero => exact hfirst
      | succ i => rw [← Nat.add_assoc, Nat.add_right_comm]; exact hrest i (by omega)
    · have hnext := h (i + 1) (by omega)
      rwa [← Nat.add_assoc, Nat.add_right_comm] at hnext

/-- A run of `n` FREE sectors within the bank starts at sector `k`. -/
def State.FreeRun (s : State) (b : BankId) (n k : Nat) : Prop := k + n ≤ 8192 ∧ ∀ i < n, s.sector b (k + i) = .free

theorem State.findRun_spec (s : State) (b : BankId) (n fuel k : Nat) :
    match s.findRun b n fuel k with
    | some j => s.FreeRun b n j ∧ ∀ i, k ≤ i → i < j → ¬ s.FreeRun b n i
    | none => ∀ i, k ≤ i → i < k + fuel → ¬ s.FreeRun b n i := by
  induction fuel generalizing k with
  | zero => exact fun i hk hi => absurd hi (Nat.not_lt.mpr hk)
  | succ fuel ih =>
    have hhere : (decide (k + n ≤ 8192) && s.runFree b k n) = true ↔ s.FreeRun b n k := by
      rw [Bool.and_eq_true, decide_eq_true_eq, State.runFree_iff]
      rfl
    have hstep : s.findRun b n (fuel + 1) k =
        if (decide (k + n ≤ 8192) && s.runFree b k n) = true then some k else s.findRun b n fuel (k + 1) := rfl
    rw [hstep]
    by_cases hrun : s.FreeRun b n k
    · rw [if_pos (hhere.mpr hrun)]
      exact ⟨hrun, fun i hk hi => absurd hi (Nat.not_lt.mpr hk)⟩
    · rw [if_neg (mt hhere.mp hrun)]
      have hrest := ih (k + 1)
      have hskip {i : Nat} (hk : k ≤ i) (hnot : k + 1 ≤ i → ¬ s.FreeRun b n i) : ¬ s.FreeRun b n i := by
        obtain rfl | hlt := Nat.eq_or_lt_of_le hk
        · exact hrun
        · exact hnot hlt
      split at hrest
      · exact ⟨hrest.1, fun i hk hi => hskip hk fun h => hrest.2 i h hi⟩
      · exact fun i hk hi => hskip hk fun h => hrest i h (by omega)

/-- The lowest run is found. -/
theorem State.freeRun_eq_some {s : State} {b : BankId} {n k : Nat} (hn : 1 ≤ n) (hk : s.FreeRun b n k)
    (hlow : ∀ j < k, ¬ s.FreeRun b n j) : s.freeRun b n = some k := by
  have hspec := s.findRun_spec b n 8192 0
  unfold State.freeRun
  change s.findRun b n 8192 0 = some k
  split at hspec
  next j hj =>
    obtain ⟨hrun, hbelow⟩ := hspec
    obtain hlt | rfl | hgt := Nat.lt_trichotomy j k
    · exact absurd hrun (hlow j hlt)
    · exact hj
    · exact absurd hk (hbelow k (Nat.zero_le k) hgt)
  next => exact absurd hk (hspec k (Nat.zero_le k) (by have := hk.1; omega))

theorem State.freeRun_eq_none {s : State} {b : BankId} {n : Nat} (h : ∀ k, ¬ s.FreeRun b n k) :
    s.freeRun b n = none := by
  have hspec := s.findRun_spec b n 8192 0
  unfold State.freeRun
  change s.findRun b n 8192 0 = none
  split at hspec
  next j hj => exact absurd hspec.1 (h j)
  next hnone => exact hnone

theorem sectorKey_eq (b : BankId) (n : Nat) : sectorKey b n = b.1 * 8192 + n := rfl

theorem allocate_sector {s : State} {b : BankId} {k n : Nat} (hfit : k + n ≤ 8192) (d : BankId) {m : Nat}
    (hm : m < 8192) :
    (allocate b k n s).sector d m = if d = b ∧ k ≤ m ∧ m < k + n then .allocated else s.sector d m := by
  have hkey : (sectorKey b k ≤ sectorKey d m ∧ sectorKey d m < sectorKey b k + n) ↔ d = b ∧ k ≤ m ∧ m < k + n := by
    rw [sectorKey_eq, sectorKey_eq, Fin.ext_iff]
    omega
  refine (tableGet_splice ..).trans ?_
  rw [List.length_replicate]
  by_cases hin : d = b ∧ k ≤ m ∧ m < k + n
  · have hlt := (hkey.mpr hin).2
    rw [if_pos (hkey.mpr hin), if_pos hin, List.getD_replicate]
    omega
  · rw [if_neg (mt hkey.mp hin), if_neg hin]
    rfl

/-! ### The payload of CLIP OPEN (R121) -/

theorem readClip_of_lt {n : Nat} (h : n < 1024) : readClip n = some ⟨n, h⟩ := dif_pos h

theorem readClip_of_ge {n : Nat} (h : ¬ n < 1024) : readClip n = none := dif_neg h

/-- The fields of a CLIP OPEN beside its clip and bank are in range (R121). -/
def OpenFieldsOk (d : Byte) (n : Nat) (ref : Int) (size : Byte) (label : List Byte) : Prop :=
  d.toNat ∈ [1, 2, 4, 8, 16, 32, 64, 128] ∧ 1 ≤ n ∧ n ≤ 8192 ∧ -120 ≤ ref ∧ ref ≤ 0 ∧ size.toNat ≤ 24 ∧
    (∀ x ∈ label.take size.toNat, 0x20 ≤ x.toNat ∧ x.toNat ≤ 0x7E) ∧ ∀ x ∈ label.drop size.toNat, x = 0

/-- The reader as its fields' tests in their order. -/
theorem readOpen_eq_bind (i0 i1 b d n0 n1 r0 r1 size : Byte) (label : List Byte) :
    readOpen ([i0, i1, b, d, n0, n1, r0, r1, size] ++ label) =
      (readClip (i1 ++ i0).toNat).bind fun id => (readFour b.toNat).bind fun bank =>
        if [1, 2, 4, 8, 16, 32, 64, 128].contains d.toNat ∧ 1 ≤ (n1 ++ n0).toNat ∧ (n1 ++ n0).toNat ≤ 8192 ∧
            inRange (-120) 0 (r1 ++ r0).toInt ∧ size.toNat ≤ 24 ∧
            (label.take size.toNat).all (fun c => 0x20 ≤ c.toNat && c.toNat ≤ 0x7E) ∧
            (label.drop size.toNat).all (· = 0) then
          some { id := id, bank := bank, decimation := d.toNat, sectors := (n1 ++ n0).toNat, ref := (r1 ++ r0).toInt,
                 label := label.take size.toNat }
        else none := by
  have hid : word16 ([i0, i1, b, d, n0, n1, r0, r1, size] ++ label) 0 = (i1 ++ i0).toNat := word16_eq_toNat_append _ 0
  have hn : word16 ([i0, i1, b, d, n0, n1, r0, r1, size] ++ label) 4 = (n1 ++ n0).toNat := word16_eq_toNat_append _ 4
  have href : signed16 ([i0, i1, b, d, n0, n1, r0, r1, size] ++ label) 6 = (r1 ++ r0).toInt :=
    signed16_eq_toInt_append _ 6
  have hrest (n : Nat) : ([i0, i1, b, d, n0, n1, r0, r1, size] ++ label).drop (9 + n) = label.drop n := by
    rw [Nat.add_comm]
    rfl
  rw [readOpen, hid, hn, href]
  simp only [hrest]
  rfl

theorem openFieldsOk_iff (d : Byte) (n : Nat) (ref : Int) (size : Byte) (label : List Byte) :
    ([1, 2, 4, 8, 16, 32, 64, 128].contains d.toNat = true ∧ 1 ≤ n ∧ n ≤ 8192 ∧ inRange (-120) 0 ref = true ∧
      size.toNat ≤ 24 ∧ (label.take size.toNat).all (fun c => 0x20 ≤ c.toNat && c.toNat ≤ 0x7E) = true ∧
      (label.drop size.toNat).all (· = 0) = true) ↔ OpenFieldsOk d n ref size label := by
  simp only [OpenFieldsOk, List.contains_iff_mem, inRange_iff, List.all_eq_true, Bool.and_eq_true, decide_eq_true_eq,
    and_assoc]

theorem readOpen_of_ok {i0 i1 b d n0 n1 r0 r1 size : Byte} {label : List Byte} (hid : (i1 ++ i0).toNat < 1024)
    (hbank : b.toNat < 4) (hok : OpenFieldsOk d (n1 ++ n0).toNat (r1 ++ r0).toInt size label) :
    readOpen ([i0, i1, b, d, n0, n1, r0, r1, size] ++ label) =
      some { id := ⟨(i1 ++ i0).toNat, hid⟩, bank := ⟨b.toNat, hbank⟩, decimation := d.toNat,
             sectors := (n1 ++ n0).toNat, ref := (r1 ++ r0).toInt, label := label.take size.toNat } := by
  rw [readOpen_eq_bind, readClip_of_lt hid, readFour_of_lt hbank]
  exact if_pos ((openFieldsOk_iff ..).mpr hok)

theorem readOpen_of_not_ok {i0 i1 b d n0 n1 r0 r1 size : Byte} {label : List Byte}
    (h : ¬ ((i1 ++ i0).toNat < 1024 ∧ b.toNat < 4 ∧ OpenFieldsOk d (n1 ++ n0).toNat (r1 ++ r0).toInt size label)) :
    readOpen ([i0, i1, b, d, n0, n1, r0, r1, size] ++ label) = none := by
  rw [readOpen_eq_bind]
  by_cases hid : (i1 ++ i0).toNat < 1024
  · by_cases hbank : b.toNat < 4
    · rw [readClip_of_lt hid, readFour_of_lt hbank]
      exact if_neg fun hok => h ⟨hid, hbank, (openFieldsOk_iff ..).mp hok⟩
    · rw [readClip_of_lt hid, readFour_of_ge hbank]
      rfl
  · rw [readClip_of_ge hid]
    rfl

theorem exec_clipOpen (tag : Byte) (p : List Byte) (s : State) :
    exec (.clipOpen tag p) s = .next (s.event (serve handleClipOpen { tag := tag, code := 0x50, payload := p })) := rfl

/-- CLIP OPEN on a payload of its size. -/
theorem handleClipOpen_eq {p : List Byte} (hsize : p.length = 33) {v : OpenValues} (hread : readOpen p = some v)
    (s : State) :
    handleClipOpen p s =
      if s.store.scanning then .error .state
      else if (s.clip v.id).state ≠ .empty then .error .inUse
      else
        ((s.freeRun v.bank v.sectors).map fun first => Reply.done (le16 first) (openClip v first s)).getD
          (.error .noSpace) := by
  refine (if_neg (not_not.mpr hsize)).trans ?_
  rewrite [hread]
  dsimp only
  split_ifs
  · rfl
  · rfl
  · cases s.freeRun v.bank v.sectors <;> rfl

/-! ### A free bank goes to work (R120) -/

theorem bankSettle_free {b : BankId} {s : State} (hscan : s.store.scanning = false) (hflight : (s.bank b).inFlight = none)
    (hop : (s.bank b).op = none) (hfetch : (s.bank b).fetch = []) : bankSettle b s = startStore b s := by
  simp only [bankSettle, hscan, hflight, hop, hfetch, Option.isSome_none, Bool.or_self, Bool.false_eq_true, if_false,
    List.isEmpty_nil, if_true]

theorem startStore_page {b : BankId} {s : State} {p : Page} {r : List Page} (h : (s.bank b).programQueue = p :: r) :
    startStore b s = s.setBank b { s.bank b with op := some (Operation.fresh (.program p.clip p.index)) } := by
  simp only [startStore, h]

/-! ### CLIP DATA (R123, R124) -/

theorem le32_eq (n : Nat) :
    le32 n = [BitVec.ofNat 8 n, BitVec.ofNat 8 (n / 256), BitVec.ofNat 8 (n / 65536), BitVec.ofNat 8 (n / 16777216)] := by
  rw [le32, le16, le16, Nat.div_div_eq_div_mul]
  rfl

theorem exec_clipData (tag : Byte) (p : List Byte) (s : State) :
    exec (.clipData tag p) s = .next (s.event (serve handleClipData { tag := tag, code := 0x51, payload := p })) := rfl

theorem acceptPage_withLink (c : ClipId) (data : List Byte) (s : State) (l : Link) :
    acceptPage c data (s.withLink l) = (acceptPage c data s).withLink l :=
  bankSettle_withLink (s.clip c).bank (s.withPage c data) l

/-- CLIP DATA whose clip id is in range. -/
theorem handleClipData_eq {i0 i1 q0 q1 q2 q3 : Byte} {data : List Byte} (hid : (i1 ++ i0).toNat < 1024) (s : State) :
    handleClipData ([i0, i1, q0, q1, q2, q3] ++ data) s =
      (let r := s.clip ⟨(i1 ++ i0).toNat, hid⟩
      if s.store.scanning then .error .state
      else if r.state ≠ .opened then .error .state
      else if r.ended then .error .order
      else if (q3 ++ q2 ++ q1 ++ q0).toNat ≠ r.nextPage then .error .order
      else if r.nextPage = r.sectors * 256 then .error .noSpace
      else if !pageFits r.decimation data.length then .error .length
      else if 2 ≤ (s.bank r.bank).programQueue.length then .error .busy
      else .done (le32 (r.nextPage + 1) ++ le32 r.blocks) (acceptPage ⟨(i1 ++ i0).toNat, hid⟩ data s)) := by
  have hclip : word16 ([i0, i1, q0, q1, q2, q3] ++ data) 0 = (i1 ++ i0).toNat := word16_eq_toNat_append _ 0
  have hpage : word32 ([i0, i1, q0, q1, q2, q3] ++ data) 2 = (q3 ++ q2 ++ q1 ++ q0).toNat := word32_eq_toNat _ 2
  have hsize : ¬ ([i0, i1, q0, q1, q2, q3] ++ data).length < 6 := by simp
  refine (if_neg hsize).trans ?_
  rw [hclip, hpage, readClip_of_lt hid]
  rfl

theorem pageFits_iff (d n : Nat) :
    pageFits d n = true ↔ ¬ (n = 0 ∨ n % (16384 / d) ≠ 0 ∨ d < n / (16384 / d)) := by
  unfold pageFits blockBytes
  rw [Bool.and_eq_true, Bool.and_eq_true, decide_eq_true_eq, decide_eq_true_eq, decide_eq_true_eq, not_or, not_or,
    not_not, Nat.not_lt, and_assoc]

/-! ### CLIP CLOSE and CLIP DROP (R126, R127) -/

theorem exec_clipClose (tag : Byte) (p : List Byte) (s : State) :
    exec (.clipClose tag p) s = .next (s.event (serve handleClipClose { tag := tag, code := 0x52, payload := p })) := rfl

theorem exec_clipDrop (tag : Byte) (p : List Byte) (s : State) :
    exec (.clipDrop tag p) s = .next (s.event (serve handleClipDrop { tag := tag, code := 0x53, payload := p })) := rfl

theorem readClipRequest_of_lt {i0 i1 : Byte} (h : (i1 ++ i0).toNat < 1024) :
    readClipRequest [i0, i1] = .ok ⟨(i1 ++ i0).toNat, h⟩ := by
  have hclip : word16 [i0, i1] 0 = (i1 ++ i0).toNat := word16_eq_toNat_append _ 0
  refine (if_neg (by simp)).trans ?_
  rw [hclip, readClip_of_lt h]

theorem readClipRequest_of_ge {i0 i1 : Byte} (h : ¬ (i1 ++ i0).toNat < 1024) :
    readClipRequest [i0, i1] = .error .range := by
  have hclip : word16 [i0, i1] 0 = (i1 ++ i0).toNat := word16_eq_toNat_append _ 0
  refine (if_neg (by simp)).trans ?_
  rw [hclip, readClip_of_ge h]

theorem State.pagesInQueue_ne_zero (s : State) (c : ClipId) :
    s.pagesInQueue c ≠ 0 ↔ ∃ p ∈ (s.bank (s.clip c).bank).programQueue, p.clip = c := by
  rw [State.pagesInQueue, Ne, List.countP_eq_zero]
  push Not
  simp only [decide_eq_true_eq]

theorem State.useCount_ne_zero (s : State) (c : ClipId) :
    s.useCount c ≠ 0 ↔ ∃ t, (∃ x ∈ (s.track t).ring, x.clip = some c) ∨
      ∃ q ∈ (s.track t).queue, q.status = .good ∧ q.entry.clip = some c := by
  have htrack (t : TrackId) : (s.track t).uses c = 0 ↔
      ¬ ((∃ x ∈ (s.track t).ring, x.clip = some c) ∨
        ∃ q ∈ (s.track t).queue, q.status = .good ∧ q.entry.clip = some c) := by
    rw [Track.uses, Nat.add_eq_zero_iff, List.countP_eq_zero, List.countP_eq_zero]
    simp only [Bool.and_eq_true, decide_eq_true_eq]
    push Not
    exact and_comm
  rw [State.useCount, Ne, List.sum_eq_zero_iff]
  simp only [List.mem_map, List.mem_finRange, true_and, forall_exists_index, forall_apply_eq_imp_iff, htrack]
  push Not
  rfl

/-- The state as a drop leaves it, before its bank goes on. -/
def State.dropped (s : State) (c : ClipId) : State := (dirtyRun (s.clip c) s).setClip c ClipRecord.empty

theorem dropClip_eq (c : ClipId) (s : State) : dropClip c s = bankSettle (s.clip c).bank (s.dropped c) := rfl

theorem dropClip_withLink (c : ClipId) (s : State) (l : Link) :
    dropClip c (s.withLink l) = (dropClip c s).withLink l := bankSettle_withLink (s.clip c).bank (s.dropped c) l

theorem ClipRecord.inRun_iff (r : ClipRecord) (b : BankId) {m : Nat} (hm : m < 8192)
    (hfit : r.first + r.sectors ≤ 8192) :
    r.inRun (sectorKey b m) = true ↔ b = r.bank ∧ r.first ≤ m ∧ m < r.first + r.sectors := by
  rw [ClipRecord.inRun, Bool.and_eq_true, decide_eq_true_eq, decide_eq_true_eq, sectorKey_eq, sectorKey_eq, sectorKey_eq,
    Fin.ext_iff]
  omega

theorem dirtyRun_sector {s : State} {r : ClipRecord} (hfit : r.first + r.sectors ≤ 8192) (b : BankId) {m : Nat}
    (hm : m < 8192) :
    (dirtyRun r s).sector b m =
      if b = r.bank ∧ r.first ≤ m ∧ m < r.first + r.sectors ∧ s.sector b m = .allocated then .dirty
      else s.sector b m := by
  refine (tableGet_map SectorState.free s.store.sectors
    (fun key x => if (r.inRun key && decide (x = .allocated)) = true then .dirty else x) (sectorKey b m) ?_).trans ?_
  · exact if_neg (by simp)
  · refine if_congr ?_ rfl rfl
    rw [Bool.and_eq_true, decide_eq_true_eq, ClipRecord.inRun_iff r b hm hfit, and_assoc, and_assoc]
    rfl

/-! ### Counting over a canonical table -/

theorem countP_range_single {f g : Nat → Bool} {n j : Nat} (hg : g j = false) (hfg : ∀ i, i ≠ j → f i = g i) :
    (List.range n).countP f = (List.range n).countP g + if j < n ∧ f j = true then 1 else 0 := by
  induction n with
  | zero => simp
  | succ n ih =>
    rw [List.range_succ, List.countP_append, List.countP_append, ih]
    by_cases hj : n = j
    · subst hj
      simp [hg]
    · simp only [List.countP_singleton, hfg n hj]
      have hlt : (j < n + 1 ∧ f j = true) ↔ (j < n ∧ f j = true) := and_congr_left' (by omega)
      rw [if_congr hlt rfl rfl]
      omega

/-- The entries of a canonical table in a run of keys are as many as the keys whose values are of their kind. -/
theorem tableWf_countP {α : Type} [DecidableEq α] {d : α} {t : List (Nat × α)} (ht : tableWf d t = true)
    {p : α → Bool} (hp : p d = false) (a n : Nat) :
    t.countP (fun e => decide (a ≤ e.1) && decide (e.1 < a + n) && p e.2) =
      (List.range n).countP fun i => p (tableGet d t (a + i)) := by
  induction t with
  | nil => simp [tableGet, hp]
  | cons e r ih =>
    obtain ⟨k, v⟩ := e
    rw [tableWf, Bool.and_eq_true, Bool.and_eq_true] at ht
    obtain ⟨⟨_, hkeys⟩, hr⟩ := ht
    have habsent : tableGet d r k = d := by
      have hne : ∀ e ∈ r, e.1 ≠ k := fun e he => by
        have := List.all_eq_true.mp hkeys e he
        simp only [decide_eq_true_eq] at this
        omega
      have := tableGet_append_none d r [] k hne
      rwa [List.append_nil] at this
    rw [List.countP_cons, ih hr]
    by_cases hk : a ≤ k
    · have hat : a + (k - a) = k := by omega
      rw [countP_range_single (f := fun i => p (tableGet d ((k, v) :: r) (a + i)))
        (g := fun i => p (tableGet d r (a + i))) (j := k - a)]
      · have hin : (decide (a ≤ k) && decide (k < a + n) && p v) = true ↔
            k - a < n ∧ p (tableGet d ((k, v) :: r) (a + (k - a))) = true := by
          rw [hat, tableGet, if_pos rfl, Bool.and_eq_true, Bool.and_eq_true, decide_eq_true_eq, decide_eq_true_eq]
          exact and_congr_left' (by omega)
        rw [if_congr hin rfl rfl]
      · rw [hat, habsent, hp]
      · intro i hi
        rw [tableGet, if_neg (by omega)]
    · have hout : (decide (a ≤ k) && decide (k < a + n) && p v) = false := by simp [hk]
      rw [hout, if_neg Bool.false_ne_true, Nat.add_zero]
      refine List.countP_congr fun i _ => ?_
      rw [tableGet, if_neg (by omega)]

/-- The ALLOCATED sectors of a run, over a canonical map. -/
theorem State.allocatedCount_eq {s : State} {r : ClipRecord}
    (hw : tableWf SectorState.free s.store.sectors = true) :
    s.allocatedCount r = (List.range r.sectors).countP fun i => decide (s.sector r.bank (r.first + i) = .allocated) := by
  have hcount := tableWf_countP (p := fun x => decide (x = SectorState.allocated)) hw rfl (sectorKey r.bank r.first)
    r.sectors
  have hkey (i : Nat) : sectorKey r.bank r.first + i = sectorKey r.bank (r.first + i) := by
    rw [sectorKey_eq, sectorKey_eq, Nat.add_assoc]
  simp only [hkey] at hcount
  exact hcount

theorem handleClipClose_eq {i0 i1 : Byte} (hid : (i1 ++ i0).toNat < 1024) (s : State) :
    handleClipClose [i0, i1] s =
      (let c : ClipId := ⟨(i1 ++ i0).toNat, hid⟩
      if s.store.scanning then .error .state
      else if (s.clip c).state ≠ .opened then .error .state
      else if s.pagesInQueue c ≠ 0 then .error .busy
      else if (s.clip c).blocks = 0 then .error .state
      else .done (le32 (s.clip c).blocks) (s.setClip c { s.clip c with state := .ready })) := by
  rw [handleClipClose, readClipRequest_of_lt hid]

theorem handleClipDrop_eq {i0 i1 : Byte} (hid : (i1 ++ i0).toNat < 1024) (s : State) :
    handleClipDrop [i0, i1] s =
      (let c : ClipId := ⟨(i1 ++ i0).toNat, hid⟩
      if s.store.scanning then .error .state
      else if (s.clip c).state = .empty then .error .notFound
      else if s.useCount c ≠ 0 then .error .inUse
      else if s.pagesInQueue c ≠ 0 then .error .busy
      else .done (le16 (s.allocatedCount (s.clip c))) (dropClip c s)) := by
  rw [handleClipDrop, readClipRequest_of_lt hid]

end Sys2Proof.Machine

namespace Sys2Proof.Proofs.ClipRequests

open Sys2Proof Sys2Proof.Machine

/-- Settles O44. -/
theorem clipOpenTakesTheLowestRun : Obligations.ClipOpenTakesTheLowestRun := by
  unfold Obligations.ClipOpenTakesTheLowestRun
  intro s tag i0 i1 b d n0 n1 r0 r1 size label payload n c hlabel hserves
  have hsize : payload.length = 33 := by simp [payload, hlabel]
  split
  next h =>
    intro id bank free
    obtain ⟨hid, hbank, hok⟩ := h
    have hread := readOpen_of_ok hid hbank hok
    have hreply (l : Link) := handleClipOpen_eq hsize hread (s.withLink l)
    refine ⟨fun hscan => ?_, fun hscan hused => ?_, fun hscan hempty => ⟨fun hnone => ?_, fun k hk hlow => ?_⟩⟩
    · exact refuses_of_blind (exec_clipOpen ..) hserves fun l => (hreply l).trans (if_pos hscan)
    · exact refuses_of_blind (exec_clipOpen ..) hserves fun l =>
        (hreply l).trans ((if_neg (Bool.eq_false_iff.mp hscan)).trans (if_pos hused))
    all_goals
      have hreply' (l : Link) := (hreply l).trans
        ((if_neg (Bool.eq_false_iff.mp hscan)).trans (if_neg (not_not.mpr hempty)))
    · refine refuses_of_blind (exec_clipOpen ..) hserves fun l => (hreply' l).trans ?_
      have hfull : (s.withLink l).freeRun bank n = none := State.freeRun_eq_none hnone
      exact congrArg (fun x : Option Nat => (x.map _).getD _) hfull
    · have hrun (l : Link) : (s.withLink l).freeRun bank n = some k := State.freeRun_eq_some hok.2.1 hk hlow
      refine ⟨openClip _ k s, completes_of_blind (f := openClip _ k) (exec_clipOpen ..) hserves
        (fun l => (hreply' l).trans (congrArg (fun x : Option Nat => (x.map _).getD _) (hrun l))) fun l => rfl,
        ?_, fun j hj => ?_, fun q m hm => ?_, ?_⟩
      · exact (State.setClip_clip ..).trans (if_pos rfl)
      · exact (State.setClip_clip ..).trans (if_neg hj)
      · exact (State.setClip_sector ..).trans (allocate_sector hk.1 q hm)
      · rfl
  next h =>
    refine refuses_of_blind (exec_clipOpen ..) hserves fun l => (if_neg (not_not.mpr hsize)).trans ?_
    rw [readOpen_of_not_ok h]

/-- Settles O45. -/
theorem clipDataJoinsTheProgramQueue : Obligations.ClipDataJoinsTheProgramQueue := by
  unfold Obligations.ClipDataJoinsTheProgramQueue
  intro s tag i0 i1 q0 q1 q2 q3 data payload c hserves
  split
  next h =>
    intro id r k block
    have hreply (l : Link) := handleClipData_eq (q0 := q0) (q1 := q1) (q2 := q2) (q3 := q3) (data := data) h (s.withLink l)
    have hfits : (!pageFits r.decimation data.length) = true ↔
        data.length = 0 ∨ data.length % block ≠ 0 ∨ r.decimation < data.length / block := by
      rw [Bool.not_eq_true', ← Bool.not_eq_true, pageFits_iff, not_not]
    have hrefuses {code : AnswerCode} (hcode : ∀ l, handleClipData payload (s.withLink l) = .error code) :
        Refuses c s tag code := refuses_of_blind (exec_clipData ..) hserves hcode
    split_ifs with hscan hstate horder hfull hsize hbusy
    · exact hrefuses fun l => (hreply l).trans (if_pos hscan)
    · exact hrefuses fun l => (hreply l).trans ((if_neg hscan).trans (if_pos hstate))
    all_goals replace hreply (l : Link) := (hreply l).trans ((if_neg hscan).trans (if_neg hstate))
    · refine hrefuses fun l => (hreply l).trans ?_
      obtain hended | hpage := horder
      · exact if_pos hended
      · exact (ite_congr rfl (fun _ => rfl) fun _ => if_pos hpage).trans (ite_self _)
    all_goals
      rw [not_or] at horder
      replace hreply (l : Link) := (hreply l).trans ((if_neg horder.1).trans (if_neg horder.2))
    · exact hrefuses fun l => (hreply l).trans (if_pos hfull)
    · exact hrefuses fun l => (hreply l).trans ((if_neg hfull).trans (if_pos (hfits.mpr hsize)))
    all_goals replace hreply (l : Link) := (hreply l).trans ((if_neg hfull).trans (if_neg (mt hfits.mp hsize)))
    · exact hrefuses fun l => (hreply l).trans (if_pos hbusy)
    · have hdone := completes_of_blind (payload := le32 (r.nextPage + 1) ++ le32 r.blocks) (f := acceptPage id data)
        (exec_clipData ..) hserves (fun l => (hreply l).trans (if_neg hbusy)) fun l => acceptPage_withLink id data s l
      rw [le32_eq, le32_eq] at hdone
      have hbank : (s.withPage id data).bank r.bank =
          { k with programQueue := k.programQueue ++ [{ clip := id, index := r.nextPage, data := data }] } :=
        State.setBank_bank_same ..
      refine ⟨_, hdone, bankSettle_work r.bank (s.withPage id data), fun hop hflight hfetch hpages => ?_⟩
      have hqueue : ((s.withPage id data).bank r.bank).programQueue =
          [{ clip := id, index := r.nextPage, data := data }] := by
        rw [hbank, hpages]
        rfl
      have hfree : bankSettle r.bank (s.withPage id data) = startStore r.bank (s.withPage id data) :=
        bankSettle_free (Bool.eq_false_iff.mpr hscan) (by rw [hbank]; exact hflight) (by rw [hbank]; exact hop)
          (by rw [hbank]; exact hfetch)
      rw [acceptPage_eq, hfree, startStore_page hqueue, State.setBank_bank_same]
      rfl
  next h =>
    refine refuses_of_blind (exec_clipData ..) hserves fun l => (if_neg (by simp [payload])).trans ?_
    have hclip : word16 payload 0 = (i1 ++ i0).toNat := word16_eq_toNat_append _ 0
    rw [hclip, readClip_of_ge h]

/-- Settles O46. -/
theorem clipCloseAndDrop : Obligations.ClipCloseAndDrop := by
  unfold Obligations.ClipCloseAndDrop
  refine fun s tag i0 i1 => ⟨fun hserves => ?_, fun hserves => ?_⟩
  · split
    next h =>
      intro id r
      have hreply (l : Link) := handleClipClose_eq h (s.withLink l)
      have hpages : s.pagesInQueue id ≠ 0 ↔ _ := s.pagesInQueue_ne_zero id
      have hrefuses {code : AnswerCode} (hcode : ∀ l, handleClipClose [i0, i1] (s.withLink l) = .error code) :
          Refuses (.clipClose tag [i0, i1]) s tag code := refuses_of_blind (exec_clipClose ..) hserves hcode
      split_ifs with hscan hstate hqueued hblocks
      · exact hrefuses fun l => (hreply l).trans (if_pos hscan)
      · exact hrefuses fun l => (hreply l).trans ((if_neg hscan).trans (if_pos hstate))
      all_goals replace hreply (l : Link) := (hreply l).trans ((if_neg hscan).trans (if_neg hstate))
      · exact hrefuses fun l => (hreply l).trans (if_pos (hpages.mpr hqueued))
      all_goals replace hreply (l : Link) := (hreply l).trans (if_neg (mt hpages.mp hqueued))
      · exact hrefuses fun l => (hreply l).trans (if_pos hblocks)
      · rw [← le32_eq]
        exact completes_of_blind (f := fun u => u.setClip id { u.clip id with state := .ready }) (exec_clipClose ..)
          hserves (fun l => (hreply l).trans (if_neg hblocks)) fun l => rfl
    next h =>
      refine refuses_of_blind (exec_clipClose ..) hserves fun l => ?_
      rw [handleClipClose, readClipRequest_of_ge h]
  · split
    next h =>
      intro id r used queued count
      have hreply (l : Link) := handleClipDrop_eq h (s.withLink l)
      have hpages : s.pagesInQueue id ≠ 0 ↔ queued := s.pagesInQueue_ne_zero id
      have huses : s.useCount id ≠ 0 ↔ used := s.useCount_ne_zero id
      have hrefuses {code : AnswerCode} (hcode : ∀ l, handleClipDrop [i0, i1] (s.withLink l) = .error code) :
          Refuses (.clipDrop tag [i0, i1]) s tag code := refuses_of_blind (exec_clipDrop ..) hserves hcode
      refine ⟨fun hscan => hrefuses fun l => (hreply l).trans (if_pos hscan), fun hscan hempty => ?_,
        fun hscan hsome hused => ?_, fun hscan hsome hfree hqueued => ?_, fun hscan hsome hfree hquiet hfit hw => ?_⟩
      all_goals replace hreply (l : Link) := (hreply l).trans (if_neg (Bool.eq_false_iff.mp hscan))
      · exact hrefuses fun l => (hreply l).trans (if_pos hempty)
      all_goals replace hreply (l : Link) := (hreply l).trans (if_neg hsome)
      · exact hrefuses fun l => (hreply l).trans (if_pos (huses.mpr hused))
      all_goals replace hreply (l : Link) := (hreply l).trans (if_neg (mt huses.mp hfree))
      · exact hrefuses fun l => (hreply l).trans (if_pos (hpages.mpr hqueued))
      · replace hreply (l : Link) := (hreply l).trans (if_neg (mt hpages.mp hquiet))
        have hdone := completes_of_blind (payload := le16 (s.allocatedCount r)) (f := dropClip id) (exec_clipDrop ..)
          hserves hreply fun l => dropClip_withLink id s l
        rw [State.allocatedCount_eq hw] at hdone
        refine ⟨s.dropped id, dropClip id s, hdone, bankSettle_work r.bank (s.dropped id),
          bankSettle_settles r.bank (s.dropped id), fun j => State.setClip_clip .., fun q m hm => ?_, rfl⟩
        exact (State.setClip_sector ..).trans (dirtyRun_sector hfit q hm)
    next h =>
      refine refuses_of_blind (exec_clipDrop ..) hserves fun l => ?_
      rw [handleClipDrop, readClipRequest_of_ge h]

end Sys2Proof.Proofs.ClipRequests
end

section
/-! PROOFS. STORE SWEEP, STORE HALT and STORE POLICY (chapter 06): O47. -/

namespace Sys2Proof.Machine

/-! ### The bank at its requests -/

theorem State.modBank_modBank (s : State) (b : BankId) (f g : Bank → Bank) :
    (s.modBank b f).modBank b g = s.modBank b (g ∘ f) := by
  have hset : ((s.banks.set b.1 (f (s.bank b))).set b.1 (g ((s.modBank b f).bank b))) =
      s.banks.set b.1 (g (f (s.bank b))) := by
    rw [State.modBank, State.setBank_bank_same, Vector.set_set]
  exact congrArg (fun v => { s with banks := v }) hset

theorem readBankRequest_of_lt {b : Byte} {q : BankId} (h : b.toNat = q.1) : readBankRequest [b] = .ok q := by
  have hread : readFour b.toNat = some q := by
    have hlt : b.toNat < 4 := h ▸ q.isLt
    rw [readFour_of_lt hlt]
    exact congrArg some (Fin.ext h)
  have hbyte : byteAt [b] 0 = b.toNat := rfl
  refine (if_neg (by simp)).trans ?_
  rw [hbyte, hread]

theorem readBankRequest_of_ge {b : Byte} (h : 4 ≤ b.toNat) : readBankRequest [b] = .error .range := by
  have hbyte : byteAt [b] 0 = b.toNat := rfl
  refine (if_neg (by simp)).trans ?_
  rw [hbyte, readFour_of_ge (Nat.not_lt.mpr h)]

theorem exec_storeSweep (tag : Byte) (p : List Byte) (s : State) :
    exec (.storeSweep tag p) s = .next (s.event (serve handleStoreSweep { tag := tag, code := 0x56, payload := p })) :=
  rfl

theorem exec_storeHalt (tag : Byte) (p : List Byte) (s : State) :
    exec (.storeHalt tag p) s = .next (s.event (serve handleStoreHalt { tag := tag, code := 0x57, payload := p })) := rfl

theorem exec_storePolicy (tag : Byte) (p : List Byte) (s : State) :
    exec (.storePolicy tag p) s =
      .next (s.event (serve handleStorePolicy { tag := tag, code := 0x58, payload := p })) := rfl

theorem handleStoreSweep_eq {b : Byte} {q : BankId} (h : b.toNat = q.1) (s : State) :
    handleStoreSweep [b] s =
      if s.store.scanning then .error .state else .done (le16 (s.erasable q).length) (sweepBank q s) := by
  rw [handleStoreSweep, readBankRequest_of_lt h]

theorem handleStoreHalt_eq {b : Byte} {q : BankId} (h : b.toNat = q.1) (s : State) :
    handleStoreHalt [b] s = if s.store.scanning then .error .state else .done [] (haltBank q s) := by
  rw [handleStoreHalt, readBankRequest_of_lt h]

theorem readPolicy_toNat (b : Byte) :
    readPolicy b.toNat = if b.toNat < 2 then some (if b = 0 then .allow else .defer) else none := by
  obtain rfl | rfl | rfl | habove := byte_cases b
  · rfl
  · rfl
  · rfl
  · rw [if_neg (by omega), readPolicy.eq_3] <;> omega

theorem handleStorePolicy_eq {b p a : Byte} {q : BankId} (h : b.toNat = q.1) (hp : p.toNat < 2) (ha : a.toNat < 2)
    (s : State) :
    handleStorePolicy [b, p, a] s =
      if s.store.scanning then .error .state
      else .done [] (setPolicy q (if p = 0 then .allow else .defer) (decide (a = 1)) s) := by
  have hread : readFour b.toNat = some q := by
    have hlt : b.toNat < 4 := h ▸ q.isLt
    rw [readFour_of_lt hlt]
    exact congrArg some (Fin.ext h)
  have hbank : byteAt [b, p, a] 0 = b.toNat := rfl
  have hpolicy : byteAt [b, p, a] 1 = p.toNat := rfl
  have hauto : byteAt [b, p, a] 2 = a.toNat := rfl
  refine (if_neg (by simp)).trans ?_
  rw [hbank, hpolicy, hauto, hread, readPolicy_toNat, if_pos hp, readBool_toNat, if_pos ha]

theorem handleStorePolicy_range {b p a : Byte} (h : 4 ≤ b.toNat ∨ 2 ≤ p.toNat ∨ 2 ≤ a.toNat) (s : State) :
    handleStorePolicy [b, p, a] s = .error .range := by
  have hbank : byteAt [b, p, a] 0 = b.toNat := rfl
  have hpolicy : byteAt [b, p, a] 1 = p.toNat := rfl
  have hauto : byteAt [b, p, a] 2 = a.toNat := rfl
  refine (if_neg (by simp)).trans ?_
  rw [hbank, hpolicy, hauto]
  obtain hb | hp | ha := h
  · rw [readFour_of_ge (Nat.not_lt.mpr hb)]
  · rw [readPolicy_toNat, if_neg (Nat.not_lt.mpr hp)]
    cases readFour b.toNat <;> rfl
  · rw [readBool_toNat, if_neg (Nat.not_lt.mpr ha)]
    cases readFour b.toNat <;> cases readPolicy p.toNat <;> rfl

/-! ### STORE SWEEP (R129) -/

/-- The listed sectors of a bank below `n` that are of a kind which FREE is not, over a canonical map. -/
theorem State.sectors_countP {s : State} (hw : tableWf SectorState.free s.store.sectors = true) (b : BankId)
    {p : SectorState → Bool} (hp : p .free = false) (n : Nat) :
    s.store.sectors.countP (fun e => decide (sectorKey b 0 ≤ e.1) && decide (e.1 < sectorKey b n) && p e.2) =
      (List.range n).countP fun m => p (s.sector b m) := by
  have hkey (m : Nat) : sectorKey b m = sectorKey b 0 + m := by rw [sectorKey_eq, sectorKey_eq, Nat.add_zero]
  have hcount := tableWf_countP hw hp (sectorKey b 0) n
  simp only [← hkey] at hcount
  exact hcount

theorem State.erasable_length {s : State} (hw : tableWf SectorState.free s.store.sectors = true) (b : BankId) :
    (s.erasable b).length =
      (List.range 8192).countP fun m => s.sector b m = .dirty || s.sector b m = .unsettled := by
  rw [State.erasable, List.length_map, ← List.countP_eq_length_filter]
  exact State.sectors_countP (p := fun x => decide (x = .dirty) || decide (x = .unsettled)) hw b rfl 8192

theorem Bank.erasing_iff (k : Bank) : k.erasing = true ↔ ∃ op m, k.op = some op ∧ op.kind = .erase m := by
  unfold Bank.erasing
  split
  next op hop =>
    split
    next m hkind => exact iff_of_true rfl ⟨op, m, hop, hkind⟩
    next c q hkind =>
      refine iff_of_false Bool.false_ne_true fun ⟨op', m, hop', hkind'⟩ => ?_
      rw [hop] at hop'
      cases hop'
      rw [hkind] at hkind'
      cases hkind'
  next hop =>
    refine iff_of_false Bool.false_ne_true fun ⟨op', m, hop', _⟩ => ?_
    rw [hop] at hop'
    cases hop'

/-- There is something for a sweep of the bank to erase, or an erase in progress. -/
def State.sweepWorks (s : State) (b : BankId) : Prop := s.erasable b ≠ [] ∨ (s.bank b).erasing = true

theorem sweepBank_swept {b : BankId} {s : State} (h : (s.bank b).sweep = true) : sweepBank b s = s := if_pos h

theorem sweepBank_done {b : BankId} {s : State} (h : (s.bank b).sweep = false) (hnone : ¬ s.sweepWorks b) :
    sweepBank b s = (s.setBank b { s.bank b with eraseHold := false }).raise (bankSource b) .sweepDone := by
  rw [State.sweepWorks, not_or, not_not, Bool.not_eq_true] at hnone
  refine (if_neg (Bool.eq_false_iff.mp h)).trans (if_pos ?_)
  rw [hnone.1, hnone.2]
  rfl

theorem sweepBank_works {b : BankId} {s : State} (h : (s.bank b).sweep = false) (hsome : s.sweepWorks b) :
    sweepBank b s = bankSettle b (s.setBank b { s.bank b with sweep := true, eraseHold := false }) := by
  refine (if_neg (Bool.eq_false_iff.mp h)).trans (if_neg ?_)
  rw [Bool.and_eq_true, List.isEmpty_iff, Bool.not_eq_true']
  rintro ⟨hempty, hidle⟩
  obtain hlist | herasing := hsome
  · exact hlist hempty
  · rw [hidle] at herasing
    cases herasing

theorem sweepBank_withLink (b : BankId) (s : State) (l : Link) :
    sweepBank b (s.withLink l) = (sweepBank b s).withLink l := by
  by_cases h : (s.bank b).sweep = true
  · rw [sweepBank_swept h, sweepBank_swept (s := s.withLink l) h]
  · have hclear := Bool.not_eq_true _ ▸ h
    by_cases hsome : s.sweepWorks b
    · rw [sweepBank_works hclear hsome, sweepBank_works (s := s.withLink l) hclear hsome]
      exact bankSettle_withLink b (s.setBank b { s.bank b with sweep := true, eraseHold := false }) l
    · rw [sweepBank_done hclear hsome, sweepBank_done (s := s.withLink l) hclear hsome]
      rfl

/-- A free bank with nothing to program erases its lowest sector that wants it (R128). -/
theorem startStore_erase {b : BankId} {s : State} (hpages : (s.bank b).programQueue = [])
    (hmay : (s.bank b).mayErase = true) {m : Nat} (hm : leastBy id (s.erasable b) = some m) :
    startStore b s =
      (s.setSector b m .erasing).setBank b { s.bank b with op := some (Operation.fresh (.erase m)) } := by
  simp only [startStore, hpages, hmay, hm, if_true]

theorem bankSettle_erases {b : BankId} {s : State} (hw : tableWf SectorState.free s.store.sectors = true)
    (hscan : s.store.scanning = false) (hflight : (s.bank b).inFlight = none) (hop : (s.bank b).op = none)
    (hfetch : (s.bank b).fetch = []) (hpages : (s.bank b).programQueue = []) (hmay : (s.bank b).mayErase = true)
    (hsome : s.erasable b ≠ []) :
    ∃ m, m < 8192 ∧ (s.sector b m = .dirty ∨ s.sector b m = .unsettled) ∧
      (∀ j < m, s.sector b j ≠ .dirty ∧ s.sector b j ≠ .unsettled) ∧
      ((bankSettle b s).bank b).op = some { kind := .erase m, sub := .running, count := 0, cap := false } ∧
      (bankSettle b s).sector b m = .erasing := by
  obtain ⟨m, hm⟩ : ∃ m, leastBy id (s.erasable b) = some m :=
    Option.ne_none_iff_exists'.mp fun hnone => hsome ((leastBy_none ..).mp hnone)
  obtain ⟨hlt, hstate, hlow⟩ := s.least_erasable b m hw hm
  rw [bankSettle_free hscan hflight hop hfetch, startStore_erase hpages hmay hm, State.setBank_bank_same]
  exact ⟨m, hlt, hstate, hlow, rfl, (State.setSector_sector ..).trans (if_pos rfl)⟩

/-! ### STORE HALT and STORE POLICY (R131, R149) -/

/-- The state as a halt leaves it, before HALTED is raised. -/
def State.halted (s : State) (b : BankId) : State :=
  (stopOperation b s).modBank b fun k => { k with sweep := false, eraseHold := true }

theorem haltBank_eq (b : BankId) (s : State) :
    haltBank b s = bankSettle b ((s.halted b).raise (bankSource b) .halted) := rfl

theorem stopOperation_withLink (b : BankId) (s : State) (l : Link) :
    stopOperation b (s.withLink l) = (stopOperation b s).withLink l := by
  unfold stopOperation
  rw [State.withLink_bank]
  split
  · rfl
  · split <;> rfl

theorem haltBank_withLink (b : BankId) (s : State) (l : Link) :
    haltBank b (s.withLink l) = (haltBank b s).withLink l := by
  rw [haltBank_eq, haltBank_eq, State.halted, stopOperation_withLink]
  exact bankSettle_withLink b ((s.halted b).raise (bankSource b) .halted) l

/-- A bank that a halt has stopped. -/
def Bank.halted (k : Bank) : Bank := { k with op := none, sweep := false, eraseHold := true }

theorem State.halted_none {s : State} {b : BankId} (h : (s.bank b).op = none) :
    s.halted b = s.setBank b (s.bank b).halted := by
  have hstop : stopOperation b s = s := by simp only [stopOperation, h]
  rw [State.halted, hstop, State.modBank, Bank.halted, ← h]

theorem State.halted_program {s : State} {b : BankId} {op : Operation} {c : ClipId} {q : Nat}
    (hop : (s.bank b).op = some op) (hkind : op.kind = .program c q) :
    s.halted b = (s.setClip c { s.clip c with state := .damaged }).setBank b
      { (s.bank b).halted with programQueue := (s.bank b).programQueue.filter fun p => p.clip ≠ c } := by
  have hstop : stopOperation b s = endOperation b (damageClip b c s) := by simp only [stopOperation, hop, hkind]
  rw [State.halted, hstop, endOperation, damageClip, State.modBank_modBank, State.modBank_modBank]
  rfl

theorem State.halted_erase {s : State} {b : BankId} {op : Operation} {n : Nat} (hop : (s.bank b).op = some op)
    (hkind : op.kind = .erase n) : s.halted b = (s.setSector b n .unsettled).setBank b (s.bank b).halted := by
  have hstop : stopOperation b s = endOperation b (s.setSector b n .unsettled) := by
    simp only [stopOperation, hop, hkind]
  rw [State.halted, hstop, endOperation, State.modBank_modBank]
  rfl

/-- What a halt leaves of the bank and its notice record, whatever its operation. -/
theorem State.halted_bank (s : State) (b : BankId) :
    ((s.halted b).bank b).op = none ∧ ((s.halted b).bank b).sweep = false ∧ ((s.halted b).bank b).eraseHold = true ∧
      (s.halted b).notices = s.notices ∧ (s.halted b).timeline = s.timeline ∧
      (s.halted b).store.scanning = s.store.scanning := by
  cases hop : (s.bank b).op with
  | none =>
    rw [State.halted_none hop, State.setBank_bank_same]
    exact ⟨rfl, rfl, rfl, rfl, rfl, rfl⟩
  | some op =>
    cases hkind : op.kind with
    | program c q =>
      rw [State.halted_program hop hkind, State.setBank_bank_same]
      exact ⟨rfl, rfl, rfl, rfl, rfl, rfl⟩
    | erase n =>
      rw [State.halted_erase hop hkind, State.setBank_bank_same]
      exact ⟨rfl, rfl, rfl, rfl, rfl, rfl⟩

/-- A bank under the erase hold starts a program or nothing. -/
theorem bankSettle_held {b : BankId} {s : State} (hop : (s.bank b).op = none) (hsweep : (s.bank b).sweep = false)
    (hhold : (s.bank b).eraseHold = true) {o : Operation} (ho : ((bankSettle b s).bank b).op = some o) :
    ∃ p r, ((bankSettle b s).bank b).programQueue = p :: r ∧
      o = { kind := .program p.clip p.index, sub := .running, count := 0, cap := false } := by
  obtain ⟨hreads, hstays⟩ := bankSettle_settles b s
  have hmay : (s.bank b).mayRead := fun o' ho' => nomatch hop.symm.trans ho'
  have hbusy {op : Option Operation} (h : ((bankSettle b s).bank b).op = op) (hnone : op = none) : False := by
    rw [h, hnone] at ho
    cases ho
  by_cases hidle : s.store.scanning = false ∧ (s.bank b).inFlight = none
  · by_cases hfetch : (s.bank b).fetch = []
    · rw [bankSettle_free hidle.1 hidle.2 hop hfetch] at ho ⊢
      cases hpages : (s.bank b).programQueue with
      | nil =>
        have hnone : startStore b s = s := by
          simp only [startStore, hpages, Bank.mayErase, hsweep, hhold, Bool.not_true, Bool.and_false, Bool.or_self,
            Bool.false_eq_true, if_false]
        rw [hnone, hop] at ho
        cases ho
      | cons p r =>
        rw [startStore_page hpages, State.setBank_bank_same] at ho ⊢
        exact ⟨p, r, hpages, (Option.some_inj.mp ho).symm⟩
    · exact (hbusy ((hreads hidle.1 hidle.2 hmay).1 hfetch).1 hop).elim
  · refine (hbusy (hstays ?_).1 hop).elim
    rw [not_and_or, Bool.not_eq_false] at hidle
    exact hidle.imp_right Or.inl

theorem setPolicy_eq (b : BankId) (policy : Policy) (auto : Bool) (s : State) :
    setPolicy b policy auto s = bankSettle b (suspendReact b
      (s.setBank b { s.bank b with policy := policy, autoSweep := auto, eraseHold := false })) := rfl

theorem setPolicy_withLink (b : BankId) (policy : Policy) (auto : Bool) (s : State) (l : Link) :
    setPolicy b policy auto (s.withLink l) = (setPolicy b policy auto s).withLink l := by
  rw [setPolicy_eq, setPolicy_eq, ← bankSettle_withLink, ← suspendReact_withLink]
  rfl

/-! ### Suspension (R145, R148) -/

theorem suspendReact_quiet {b : BankId} {s : State} (h : ∀ op, (s.bank b).op = some op → op.sub ≠ .running) :
    suspendReact b s = s := by
  unfold suspendReact
  cases hop : (s.bank b).op with
  | none => simp only [hop]
  | some op => simp only [hop, h op hop, decide_false, Bool.false_and, Bool.false_eq_true, if_false]

theorem suspendReact_defer {b : BankId} {s : State} (h : (s.bank b).policy ≠ .allow) : suspendReact b s = s := by
  unfold suspendReact
  cases hop : (s.bank b).op with
  | none => simp only [hop]
  | some op => simp only [hop, h, decide_false, Bool.and_false, Bool.false_and, Bool.false_eq_true, if_false]

theorem suspendReact_running {b : BankId} {s : State} {op : Operation} (hop : (s.bank b).op = some op)
    (hrunning : op.sub = .running) (hallow : (s.bank b).policy = .allow) (hfetch : (s.bank b).fetch ≠ []) :
    suspendReact b s =
      if op.count < 16 then s.setBank b { s.bank b with op := some { op with sub := .suspending } }
      else if op.cap then s
      else (s.setBank b { s.bank b with op := some { op with cap := true } }).raise (bankSource b) .suspendCap := by
  have hwaits : (s.bank b).fetch.isEmpty = false := by rwa [Bool.eq_false_iff, Ne, List.isEmpty_iff]
  simp only [suspendReact, hop, hrunning, hallow, hwaits, decide_true, Bool.not_false, Bool.and_self, if_true]
  rfl

theorem bankSettle_busy {b : BankId} {s : State} {op : Operation} (hop : (s.bank b).op = some op)
    (hsub : op.sub ≠ .suspended) : bankSettle b s = s := by
  simp only [bankSettle, hop, hsub, if_false, ite_self]

end Sys2Proof.Machine

namespace Sys2Proof.Proofs.BankRequests

open Sys2Proof Sys2Proof.Machine

/-- Settles O47. -/
theorem bankRequestsActOnTheirBank : Obligations.BankRequestsActOnTheirBank := by
  unfold Obligations.BankRequestsActOnTheirBank
  refine fun s tag b => ⟨fun hb => ⟨fun hserves => ?_, fun hserves => ?_⟩, fun p a hbad hserves => ?_, fun q hq => ?_⟩
  · refine refuses_of_blind (exec_storeSweep ..) hserves fun l => ?_
    rw [handleStoreSweep, readBankRequest_of_ge hb]
  · refine refuses_of_blind (exec_storeHalt ..) hserves fun l => ?_
    rw [handleStoreHalt, readBankRequest_of_ge hb]
  · exact refuses_of_blind (exec_storePolicy ..) hserves fun l => handleStorePolicy_range hbad _
  · intro k left halted
    refine ⟨fun hserves => ⟨fun hscan => ?_, fun hscan hw => ?_⟩, fun hserves => ⟨fun hscan => ?_, fun hscan => ?_⟩,
      fun p a hp ha hserves => ⟨fun hscan => ?_, fun hscan => ?_⟩⟩
    · exact refuses_of_blind (exec_storeSweep ..) hserves fun l => (handleStoreSweep_eq hq _).trans (if_pos hscan)
    · have hleft : (s.erasable q).length = left := State.erasable_length hw q
      have hworks : s.sweepWorks q ↔ left ≠ 0 ∨ ∃ op m, k.op = some op ∧ op.kind = .erase m := by
        rw [State.sweepWorks, Bank.erasing_iff, ← hleft, Ne, Ne, List.length_eq_zero_iff]
      have hdone := completes_of_blind (payload := le16 (s.erasable q).length) (f := sweepBank q) (exec_storeSweep ..)
        hserves (fun l => (handleStoreSweep_eq hq _).trans (if_neg (Bool.eq_false_iff.mp hscan)))
        fun l => sweepBank_withLink q s l
      rw [hleft] at hdone
      refine ⟨sweepBank q s, hdone, sweepBank_swept, fun hsweep hnone hidle => ?_, fun hsweep hsome => ?_⟩
      · refine sweepBank_done hsweep fun h => ?_
        obtain hleft' | ⟨op, m, hop, hkind⟩ := hworks.mp h
        · exact hleft' hnone
        · exact hidle op m hop hkind
      · rw [sweepBank_works hsweep (hworks.mpr hsome)]
        refine ⟨bankSettle_work .., bankSettle_settles .., fun hop hflight hfetch hpages hsome => ?_⟩
        have hbank : (s.setBank q { k with sweep := true, eraseHold := false }).bank q =
            { k with sweep := true, eraseHold := false } := State.setBank_bank_same ..
        refine bankSettle_erases (s := s.setBank q { k with sweep := true, eraseHold := false }) hw hscan
          (by rw [hbank]; exact hflight) (by rw [hbank]; exact hop) (by rw [hbank]; exact hfetch)
          (by rw [hbank]; exact hpages) (by rw [hbank]; rfl) fun hnone => hsome ?_
        rw [← hleft]
        exact congrArg List.length hnone
    · exact refuses_of_blind (exec_storeHalt ..) hserves fun l => (handleStoreHalt_eq hq _).trans (if_pos hscan)
    · have hdone := completes_of_blind (f := haltBank q) (exec_storeHalt ..)
        hserves (fun l => (handleStoreHalt_eq hq _).trans (if_neg (Bool.eq_false_iff.mp hscan)))
        fun l => haltBank_withLink q s l
      obtain ⟨hop, hsweep, hhold, hnotices, htimeline, _⟩ := s.halted_bank q
      refine ⟨s.halted q, haltBank q s, hdone, bankSettle_work .., bankSettle_settles q ((s.halted q).raise _ _), ?_,
        fun o ho => bankSettle_held (s := (s.halted q).raise (bankSource q) .halted) hop hsweep hhold ho, State.halted_none, fun op c m => State.halted_program,
        fun op m => State.halted_erase⟩
      have hwork := bankSettle_work q ((s.halted q).raise (bankSource q) .halted)
      have hnotice : (s.halted q).notice (bankSource q) = s.notice (bankSource q) := by
        rw [State.notice, hnotices]
        rfl
      rw [haltBank_eq, ((hwork.banks q).fresh hop).1, State.raise_notice, if_pos rfl, hnotice, htimeline]
    · exact refuses_of_blind (exec_storePolicy ..) hserves fun l => (handleStorePolicy_eq hq hp ha _).trans (if_pos hscan)
    · have hdone := completes_of_blind (f := setPolicy q (if p = 0 then .allow else .defer) (decide (a = 1)))
        (exec_storePolicy ..) hserves
        (fun l => (handleStorePolicy_eq hq hp ha _).trans (if_neg (Bool.eq_false_iff.mp hscan)))
        fun l => setPolicy_withLink q _ _ s l
      refine ⟨_, hdone, ?_⟩
      intro v
      rw [setPolicy_eq]
      have hbank : v.bank q = { k with policy := if p = 0 then .allow else .defer, autoSweep := decide (a = 1),
                                       eraseHold := false } := State.setBank_bank_same ..
      refine ⟨(suspendReact_work q v).trans (bankSettle_work q _), fun hmay => ?_, fun op hop hrunning hfetch => ?_⟩
      · rw [suspendReact_quiet fun op hop => ?_]
        · exact bankSettle_settles q v
        · rw [hbank] at hop
          rw [hmay op hop]
          exact SubState.noConfusion
      · have hvop : (v.bank q).op = some op := by rw [hbank]; exact hop
        have hvfetch : (v.bank q).fetch ≠ [] := by rw [hbank]; exact hfetch
        have hvpolicy : (v.bank q).policy = if p = 0 then .allow else .defer := by rw [hbank]
        have hvnotice : v.notice (bankSource q) = s.notice (bankSource q) := rfl
        refine ⟨fun hallow hcount => ?_, fun hallow hcount => ?_, fun hdefer => ?_⟩
        · rw [suspendReact_running hvop hrunning (hvpolicy.trans (if_pos hallow)) hvfetch, if_pos hcount]
          have hsuspending : ((v.setBank q { v.bank q with op := some { op with sub := .suspending } }).bank q).op =
              some { op with sub := .suspending } := congrArg Bank.op (State.setBank_bank_same ..)
          rw [bankSettle_busy hsuspending SubState.noConfusion, hsuspending]
        · rw [suspendReact_running hvop hrunning (hvpolicy.trans (if_pos hallow)) hvfetch, if_neg (Nat.not_lt.mpr hcount)]
          have hsub : op.sub ≠ .suspended := by
            rw [hrunning]
            exact SubState.noConfusion
          by_cases hcap : op.cap = true
          · rw [if_pos hcap, if_pos hcap, bankSettle_busy hvop hsub, hvop, ← hcap]
            exact ⟨rfl, hvnotice⟩
          · have hcapped : (((v.setBank q { v.bank q with op := some { op with cap := true } }).raise (bankSource q)
                .suspendCap).bank q).op = some { op with cap := true } := congrArg Bank.op (State.setBank_bank_same ..)
            rw [if_neg hcap, if_neg hcap, bankSettle_busy hcapped hsub, hcapped, State.raise_notice, if_pos rfl]
            exact ⟨rfl, rfl⟩
        · have hquiet : suspendReact q v = v := suspendReact_defer (by
            rw [hvpolicy, hdefer]
            decide)
          have hsub : op.sub ≠ .suspended := by
            rw [hrunning]
            exact SubState.noConfusion
          rw [hquiet, bankSettle_busy hvop hsub, hvop]
          exact ⟨rfl, hvnotice⟩

end Sys2Proof.Proofs.BankRequests
end

section
/-! PROOFS. Programs, erases and the scan complete (chapter 06): O50. How a bank settles is read off the bank, the
sectors and the order of its requests (`settles_congr`), so the banks that settled before it do not matter. -/

namespace Sys2Proof.Machine

/-! ### What settles a bank -/

/-- What the deadlines of a track's slots are read from, slot by slot. -/
def Slot.timing (x : Slot) : Nat × PathTag × Bool := (x.id, x.path, x.gated)

/-- The requests of `u` are ordered as those of `s`. -/
structure State.OrdersAs (s u : State) : Prop where
  timing : ∀ t, (u.track t).ring.map Slot.timing = (s.track t).ring.map Slot.timing
  due : ∀ t, u.frontDue t = s.frontDue t
  count : u.timeline.count = s.timeline.count

theorem State.deadline_eq (s : State) (t : TrackId) (k : Nat) :
    s.deadline t k = ((s.track t).ring.map Slot.timing)[k]?.bind fun x =>
      if x.2.1 = .main && !x.2.2 then (s.frontDue t).map (· + BitVec.ofNat 32 k) else none := by
  rw [State.deadline, List.getElem?_map]
  cases (s.track t).ring[k]? <;> rfl

theorem Track.slotPlace_eq (tr : Track) (id : Nat) :
    tr.slotPlace id = (tr.ring.map Slot.timing).findIdx? fun x => x.1 = id := by
  rw [List.findIdx?_map]
  rfl

theorem State.OrdersAs.urgency {s u : State} (h : s.OrdersAs u) (r : FetchRequest) : u.urgency r = s.urgency r := by
  have hdeadline (t : TrackId) (k : Nat) : u.deadline t k = s.deadline t k := by
    rw [State.deadline_eq, State.deadline_eq, h.timing, h.due]
  have hplace : (u.track r.track).slotPlace r.slot = (s.track r.track).slotPlace r.slot := by
    rw [Track.slotPlace_eq, Track.slotPlace_eq, h.timing]
  simp only [State.urgency, hplace, hdeadline, h.count]

theorem sameBut_timing {xs ys : List Slot} (h : List.Forall₂ Slot.SameBut xs ys) :
    ys.map Slot.timing = xs.map Slot.timing := by
  induction h with
  | nil => rfl
  | cons hfirst _ ih =>
    rw [List.map_cons, List.map_cons, ih]
    exact congrArg (· :: _) (congrArg Slot.timing hfirst).symm

theorem BankWork.orders {s u : State} (h : BankWork s u) : s.OrdersAs u where
  timing t := sameBut_timing (h.tracks t).2
  due t := by
    have htrack : { u.track t with ring := (s.track t).ring } = s.track t := (h.tracks t).1
    have hstate : (u.track t).state = (s.track t).state := (congrArg Track.state htrack :)
    have hstart : (u.track t).start = (s.track t).start := (congrArg Track.start htrack :)
    have hdue : (u.track t).startDue = (s.track t).startDue := (congrArg Track.startDue htrack :)
    have hnext : u.nextTick t = s.nextTick t := by rw [State.nextTick, State.nextTick, State.trackDone, h.work, h.timeline]; rfl
    unfold State.frontDue
    rw [hnext, h.timeline]
    dsimp only
    rw [hstate, hstart, hdue]
  count := by rw [h.timeline]

/-- A bank settles by its own fields, its sectors and the order of the requests, and into its own fields alone. -/
theorem settles_congr {v w u u' : State} {b : BankId} (horder : v.OrdersAs w) (hbank : w.bank b = v.bank b)
    (hscan : w.store.scanning = v.store.scanning) (hsectors : ∀ m < 8192, w.sector b m = v.sector b m)
    (hw : tableWf SectorState.free v.store.sectors = true → tableWf SectorState.free w.store.sectors = true)
    (hafter : u'.bank b = u.bank b) (h : w.settles u b) : v.settles u' b := by
  have hmay (kind : OpKind) : w.mayStart b kind ↔ v.mayStart b kind :=
    ⟨State.mayStart_congr (by rw [hbank]) hsectors,
      State.mayStart_congr (by rw [hbank]) fun m hm => (hsectors m hm).symm⟩
  simp only [State.settles, State.startsWork, hbank, hscan, horder.urgency, hmay] at h
  simp only [State.settles, State.startsWork, hafter]
  exact ⟨fun hscan hflight hop => ⟨(h.1 hscan hflight hop).1, fun hfetch =>
    ⟨((h.1 hscan hflight hop).2 hfetch).1, ((h.1 hscan hflight hop).2 hfetch).2.1, fun hnone hwf =>
      ((h.1 hscan hflight hop).2 hfetch).2.2 hnone (hw hwf)⟩⟩, h.2⟩

/-- A bank that settles raises nothing. -/
theorem BankWork.notice_of_settles {v u : State} {b : BankId} (h : BankWork v u) (hs : v.settles u b) :
    u.notice (bankSource b) = v.notice (bankSource b) := by
  cases hop : (v.bank b).op with
  | none => exact ((h.banks b).fresh hop).1
  | some o =>
    obtain ⟨o', ho', _, _, _, _, _, hsame | ⟨_, _, _, hclear, hcap, _⟩⟩ := (h.banks b).goesOn o hop
    · exact hsame.2
    · have hkeeps : o'.cap = o.cap := by
        by_cases hidle : v.store.scanning = false ∧ (v.bank b).inFlight = none ∧ (v.bank b).mayRead
        · obtain ⟨hreads, hquiet⟩ := hs.1 hidle.1 hidle.2.1 hidle.2.2
          by_cases hfetch : (v.bank b).fetch = []
          · have hresumed := (hquiet hfetch).2.1 o hop
            rw [ho'] at hresumed
            rw [Option.some_inj.mp hresumed]
          · have hstays := (hreads hfetch).1
            rw [ho', hop] at hstays
            rw [Option.some_inj.mp hstays]
        · have hstays := (hs.2 (by
            by_contra hnot
            push Not at hnot
            exact hidle ⟨Bool.eq_false_iff.mpr hnot.1, hnot.2.1, hnot.2.2⟩)).1
          rw [ho', hop] at hstays
          rw [Option.some_inj.mp hstays]
      rw [hkeeps, hclear] at hcap
      cases hcap

/-! ### A bank whose operation has ended -/

/-- A bank without an operation goes on with none, or with a new one. -/
theorem bankSettle_op {b : BankId} {v : State} (hop : (v.bank b).op = none) {o : Operation}
    (ho : ((bankSettle b v).bank b).op = some o) :
    o.sub ≠ .suspended ∧ o.count = 0 ∧ ∀ x y, o.kind = .program x y →
      ∃ p r, (v.bank b).programQueue = p :: r ∧ p.clip = x ∧ p.index = y := by
  have hstays (h : ((bankSettle b v).bank b).op = (v.bank b).op) : False := by
    rw [h, hop] at ho
    cases ho
  have hmay : (v.bank b).mayRead := fun o' ho' => nomatch hop.symm.trans ho'
  obtain ⟨hreads, hbusy⟩ := bankSettle_settles b v
  by_cases hidle : v.store.scanning = false ∧ (v.bank b).inFlight = none
  · by_cases hfetch : (v.bank b).fetch = []
    · rw [bankSettle_free hidle.1 hidle.2 hop hfetch] at ho
      have hnothing {w : State} (h : startStore b v = w) (hw : (w.bank b).op = none) : False := by
        rw [h, hw] at ho
        cases ho
      cases hpages : (v.bank b).programQueue with
      | cons p r =>
        rw [startStore_page hpages, State.setBank_bank_same] at ho
        obtain rfl := Option.some_inj.mp ho
        exact ⟨SubState.noConfusion, rfl, fun x y hkind => ⟨p, r, rfl, OpKind.program.inj hkind⟩⟩
      | nil =>
        by_cases herase : (v.bank b).mayErase = true
        · cases hleast : leastBy id (v.erasable b) with
          | none => exact (hnothing (by simp only [startStore, hpages, herase, hleast, if_true]) hop).elim
          | some m =>
            rw [startStore_erase hpages herase hleast, State.setBank_bank_same] at ho
            obtain rfl := Option.some_inj.mp ho
            exact ⟨SubState.noConfusion, rfl, fun x y hkind => nomatch hkind⟩
        · exact (hnothing (by simp only [startStore, hpages, herase]; rfl) hop).elim
    · exact (hstays ((hreads hidle.1 hidle.2 hmay).1 hfetch).1).elim
  · refine (hstays (hbusy ?_).1).elim
    rw [not_and_or, Bool.not_eq_false] at hidle
    exact hidle.imp_right Or.inl

theorem bankSettle_programs {b : BankId} {v : State} (hop : (v.bank b).op = none) (hflight : (v.bank b).inFlight = none)
    (hscan : v.store.scanning = false) (hfetch : (v.bank b).fetch = []) {p : Page} {r : List Page}
    (hpages : (v.bank b).programQueue = p :: r) :
    ((bankSettle b v).bank b).op =
      some { kind := .program p.clip p.index, sub := .running, count := 0, cap := false } := by
  rw [bankSettle_free hscan hflight hop hfetch, startStore_page hpages, State.setBank_bank_same]
  rfl

theorem bankSettle_notice (b : BankId) (v : State) :
    (bankSettle b v).notice (bankSource b) = v.notice (bankSource b) :=
  (bankSettle_work b v).notice_of_settles (bankSettle_settles b v)

/-! ### PROGRAM_COMPLETION (R125, R132) -/

/-- A page programmed, before the bank goes on. -/
def State.programmed (s : State) (b : BankId) (c : ClipId) (q : Nat) (p : Page) (rest : List Page) : State :=
  let flash := Memory.writeAll s.store.flash ((s.clip c).pageAddress q) p.data
  (({ s with store := { s.store with flash := flash } } : State).setClip c
    { s.clip c with
      blocks := (s.clip c).blocks + p.data.length / (16384 / (s.clip c).decimation) }).setBank b
    { s.bank b with op := none, programQueue := rest }

/-- A page whose program failed, before PROGRAM_FAIL is raised. -/
def State.programFailed (s : State) (b : BankId) (c : ClipId) (q : Nat) : State :=
  ((s.setSector b ((s.clip c).first + q / 256) .retired).setClip c { s.clip c with state := .damaged }).setBank b
    { s.bank b with op := none, programQueue := (s.bank b).programQueue.filter fun x => x.clip ≠ c }

theorem completeProgram_suspended {s : State} {b : BankId} {op : Operation} (hop : (s.bank b).op = some op)
    (hsub : op.sub = .suspended) (good : Bool) : completeProgram b good s = s := by
  unfold completeProgram
  rw [hop]
  cases (s.bank b).programQueue with
  | nil => rfl
  | cons p r =>
    dsimp only
    rw [hsub]
    cases op.kind <;> rfl

theorem completeErase_suspended {s : State} {b : BankId} {op : Operation} (hop : (s.bank b).op = some op)
    (hsub : op.sub = .suspended) (good : Bool) : completeErase b good s = s := by
  unfold completeErase
  rw [hop]
  dsimp only
  rw [hsub]
  cases op.kind <;> rfl

section Program

variable {s : State} {b : BankId} {op : Operation} {c : ClipId} {q : Nat} {p : Page} {rest : List Page}

theorem completeProgram_success (hop : (s.bank b).op = some op) (hsub : op.sub ≠ .suspended)
    (hkind : op.kind = .program c q) (hqueue : (s.bank b).programQueue = p :: rest) (hclip : p.clip = c)
    (hindex : p.index = q) : completeProgram b true s = bankSettle b (s.programmed b c q p rest) := by
  subst hclip hindex
  have hended : endOperation b (programPage b p s) = s.programmed b p.clip p.index p rest := by
    rw [endOperation, programPage, State.modBank_modBank, State.programmed]
    have htail : (s.bank b).programQueue.tail = rest := by rw [hqueue]; rfl
    rw [← htail]
    rfl
  simp only [completeProgram, hop, hqueue, hkind, hsub, if_false, if_true, hended]

theorem completeProgram_failure (hop : (s.bank b).op = some op) (hsub : op.sub ≠ .suspended)
    (hkind : op.kind = .program c q) (hqueue : (s.bank b).programQueue = p :: rest) :
    completeProgram b false s = bankSettle b ((s.programFailed b c q).raise (bankSource b) .programFail) := by
  have hended : endOperation b (failProgram b c q s) = (s.programFailed b c q).raise (bankSource b) .programFail := by
    have hbank : endOperation b (damageClip b c (s.setSector b ((s.clip c).first + q / 256) .retired)) =
        s.programFailed b c q := by
      rw [endOperation, damageClip, State.modBank_modBank]
      rfl
    rw [← hbank]
    rfl
  simp only [completeProgram, hop, hqueue, hkind, hsub, if_false, hended]
  rfl

end Program

/-! ### ERASE_COMPLETION (R128, R129, R133) -/

/-- The sector map as the end of an erase leaves it. -/
def State.cleared (s : State) (b : BankId) (n : Nat) (good : Bool) : State :=
  s.setSector b n (if good then .free else .retired)

/-- A failed erase raises ERASE_FAIL. -/
def State.eraseNotice (s : State) (b : BankId) (good : Bool) : State :=
  if good then s else s.raise (bankSource b) .eraseFail

/-- An erase ended, before the bank goes on. -/
def State.erased (s : State) (b : BankId) (n : Nat) (good : Bool) : State :=
  endSweep b (endOperation b (endErase b n good s))

theorem completeErase_ends {s : State} {b : BankId} {op : Operation} {n : Nat} (hop : (s.bank b).op = some op)
    (hsub : op.sub ≠ .suspended) (hkind : op.kind = .erase n) (good : Bool) :
    completeErase b good s = bankSettle b (s.erased b n good) := by
  simp only [completeErase, hop, hkind, hsub, if_false]
  rfl

/-- An erase ended, before its bank's sweep is judged. -/
def State.unswept (s : State) (b : BankId) (n : Nat) (good : Bool) : State := endOperation b (endErase b n good s)

theorem State.unswept_bank (s : State) (b : BankId) (n : Nat) (good : Bool) (d : BankId) :
    (s.unswept b n good).bank d = if b = d then { s.bank b with op := none } else s.bank d := by
  cases good <;> exact State.modBank_bank ..

theorem State.unswept_store (s : State) (b : BankId) (n : Nat) (good : Bool) :
    (s.unswept b n good).store =
      { (s.cleared b n good).store with
        flash := if good then Memory.erase s.store.flash (flashAddress b n 0 0) (256 * 16384) else s.store.flash } := by
  cases good <;> rfl

theorem State.unswept_rest (s : State) (b : BankId) (n : Nat) (good : Bool) :
    { s.unswept b n good with store := s.store, banks := s.banks } = s.eraseNotice b good := by
  cases good <;> rfl

theorem State.unswept_frame (s : State) (b : BankId) (n : Nat) (good : Bool) :
    { s.unswept b n good with
      store := { (s.unswept b n good).store with sectors := s.store.sectors, flash := s.store.flash }
      banks := s.banks
      notices := s.notices } = s := by
  cases good <;> rfl

theorem State.raise_notices {u v : State} (hnotices : u.notices = v.notices) (htimeline : u.timeline = v.timeline)
    {n : SourceId} {c : Cause} : (u.raise n c).notices = (v.raise n c).notices := by
  simp only [State.raise, State.setNotice, State.notice, hnotices, htimeline]

theorem State.erased_done {s : State} {b : BankId} {n : Nat} {good : Bool} (hsweep : (s.bank b).sweep = true)
    (hnone : (s.cleared b n good).erasable b = []) :
    s.erased b n good =
      ((s.unswept b n good).modBank b fun k => { k with sweep := false }).raise (bankSource b) .sweepDone := by
  have hlist : (s.unswept b n good).erasable b = [] := by
    rw [← hnone, State.erasable, State.unswept_store]
    rfl
  refine if_pos ?_
  rw [Bool.and_eq_true, List.isEmpty_iff]
  refine ⟨?_, hlist⟩
  rw [← State.unswept, State.unswept_bank, if_pos rfl]
  exact hsweep

theorem State.erased_left {s : State} {b : BankId} {n : Nat} {good : Bool}
    (h : ¬ ((s.bank b).sweep = true ∧ (s.cleared b n good).erasable b = [])) :
    s.erased b n good = s.unswept b n good := by
  refine if_neg fun hdone => h ?_
  rw [Bool.and_eq_true, List.isEmpty_iff, ← State.unswept, State.unswept_bank, if_pos rfl, State.erasable,
    State.unswept_store] at hdone
  exact hdone

/-- The bank behind an erase is idle, its pages, its reads and the scan as they were. -/
theorem State.erased_idle (s : State) (b : BankId) (n : Nat) (good : Bool) :
    ((s.erased b n good).bank b).op = none ∧ ((s.erased b n good).bank b).programQueue = (s.bank b).programQueue ∧
      ((s.erased b n good).bank b).inFlight = (s.bank b).inFlight ∧
      ((s.erased b n good).bank b).fetch = (s.bank b).fetch ∧
      (s.erased b n good).store.scanning = s.store.scanning := by
  have hbank : (s.unswept b n good).bank b = { s.bank b with op := none } := by rw [State.unswept_bank, if_pos rfl]
  have hscan : (s.unswept b n good).store.scanning = s.store.scanning := by
    rw [State.unswept_store]
    rfl
  by_cases hdone : (s.bank b).sweep = true ∧ (s.cleared b n good).erasable b = []
  · have hswept : (((s.unswept b n good).modBank b fun k => { k with sweep := false }).raise (bankSource b)
        .sweepDone).bank b = { (s.unswept b n good).bank b with sweep := false } := State.setBank_bank_same ..
    rw [State.erased_done hdone.1 hdone.2, hswept, hbank]
    exact ⟨rfl, rfl, rfl, rfl, hscan⟩
  · rw [State.erased_left hdone, hbank]
    exact ⟨rfl, rfl, rfl, rfl, hscan⟩

theorem flashAddress_next (b : BankId) (n : Nat) : flashAddress b (n + 1) 0 0 = flashAddress b n 0 0 + 256 * 16384 := by
  unfold flashAddress
  omega

theorem State.erasable_nil_iff_sectors {s : State} (hw : tableWf SectorState.free s.store.sectors = true) (b : BankId) :
    s.erasable b = [] ↔ ∀ m < 8192, s.sector b m ≠ .dirty ∧ s.sector b m ≠ .unsettled := by
  rw [List.eq_nil_iff_forall_not_mem]
  refine forall_congr' fun m => ?_
  rw [State.mem_erasable s b m hw, not_and, not_or]

/-! ### SCAN_COMPLETION (R137) -/

/-- The state as the scan leaves it, before the banks go on. -/
def State.scanEnded (s : State) : State := forEach allFour (fun s b => s.raise (bankSource b) .scanDone) s.scanned

theorem completeScan_ends {s : State} (h : s.store.scanning = true) :
    completeScan s = forEach allFour (fun s b => bankSettle b s) s.scanEnded := if_pos h

theorem forEach_raise_notice {bs : List BankId} (hbs : bs.Nodup) (c : Cause) (s : State) (k : SourceId) :
    (forEach bs (fun s b => s.raise (bankSource b) c) s).notice k =
      if ∃ b ∈ bs, bankSource b = k then some (mergeCause s.timeline.count c (s.notice k)) else s.notice k := by
  induction bs generalizing s with
  | nil => simp [forEach]
  | cons b bs ih =>
    obtain ⟨hb, hnodup⟩ := List.nodup_cons.mp hbs
    refine (ih hnodup (s.raise (bankSource b) c)).trans ?_
    have hcount : (s.raise (bankSource b) c).timeline.count = s.timeline.count := rfl
    rw [State.raise_notice, hcount]
    simp only [List.mem_cons, exists_eq_or_imp]
    by_cases hbk : bankSource b = k
    · subst hbk
      have hother : ¬ ∃ d ∈ bs, bankSource d = bankSource b := fun ⟨d, hd, hsame⟩ => hb (bankSource_inj hsame ▸ hd)
      rw [if_neg hother, if_pos rfl, if_pos (Or.inl rfl)]
    · simp only [hbk, false_or, if_false]

theorem State.scanEnded_frame (s : State) :
    { s.scanEnded with notices := { s.scanEnded.notices with records := s.notices.records } } = s.scanned :=
  forEach_inv allFour (fun u b => u.raise (bankSource b) .scanDone)
    (fun u => { u with notices := { u.notices with records := s.notices.records } } = s.scanned)
    (fun _ _ hu => hu) s.scanned rfl

theorem State.scanEnded_field {β : Type} (s : State) (f : State → β)
    (hf : ∀ (u : State) x, f { u with notices := { u.notices with records := x } } = f u) :
    f s.scanEnded = f s.scanned := by
  exact (hf s.scanEnded s.notices.records).symm.trans (congrArg f s.scanEnded_frame)

theorem bankSettle_bank_other {b d : BankId} (hbd : b ≠ d) (s : State) : (bankSettle b s).bank d = s.bank d := by
  have hkept : KeptByBank b fun u => u.bank d = s.bank d := {
    congr := fun hs h => by rw [← hs]; exact (congrArg (fun c => c.2.2.2.1[d]) h.core).symm
    setTrack := fun _ _ _ _ hs => hs
    move := fun k u _ hs => (State.setBank_bank_other u b d k hbd).trans hs
    startProgram := fun _ _ u _ hs => (State.setBank_bank_other u b d _ hbd).trans hs
    startErase := fun n u _ _ hs => (State.setBank_bank_other (u.setSector b n .erasing) b d _ hbd).trans hs }
  exact hkept.bankSettle s rfl

theorem settleAll_bank_other {bs : List BankId} {d : BankId} (hd : d ∉ bs) (s : State) :
    (forEach bs (fun s b => bankSettle b s) s).bank d = s.bank d := by
  induction bs generalizing s with
  | nil => rfl
  | cons b bs ih =>
    obtain ⟨hdb, hrest⟩ := not_or.mp (mt List.mem_cons.mpr hd)
    exact (ih hrest (bankSettle b s)).trans (bankSettle_bank_other (Ne.symm hdb) s)

/-- Where all banks go on in turn, each settles from where it stood. -/
theorem settleAll_settles (s : State) (b : BankId) : s.settles (forEach allFour (fun s b => bankSettle b s) s) b := by
  obtain ⟨before, after, hsplit⟩ := List.append_of_mem (List.mem_finRange b)
  have hnodup := List.nodup_finRange 4
  rw [hsplit, List.nodup_middle, List.nodup_cons, List.mem_append, not_or] at hnodup
  obtain ⟨⟨hbefore, hafter⟩, -⟩ := hnodup
  have hall : forEach allFour (fun s b => bankSettle b s) s =
      forEach after (fun s b => bankSettle b s) (bankSettle b (forEach before (fun s b => bankSettle b s) s)) := by
    have happend : forEach (before ++ b :: after) (fun s b => bankSettle b s) s = _ := List.foldl_append
    rw [← hsplit] at happend
    exact happend
  have hwork : BankWork s (forEach before (fun s b => bankSettle b s) s) :=
    forEach_work before _ (fun u d => bankSettle_work d u) s
  have hbank := settleAll_bank_other hbefore s
  rw [hall]
  refine settles_congr hwork.orders hbank hwork.scanning (fun m hm => ?_) hwork.tables (settleAll_bank_other hafter _)
    (bankSettle_settles b _)
  rw [hwork.sectors b m hm, hbank, if_neg]
  rintro ⟨hop, hkind⟩
  rw [hop] at hkind
  cases hkind

end Sys2Proof.Machine

namespace Sys2Proof.Proofs.StoreOperations

open Sys2Proof Sys2Proof.Machine

/-- Settles O50. -/
theorem storeOperationsComplete : Obligations.StoreOperationsComplete := by
  unfold Obligations.StoreOperationsComplete
  refine ⟨fun s b op hheld => ?_, fun s hheld => ⟨fun hscan => ?_, fun hscan => ?_⟩⟩
  · intro k ended hop
    have hended {v : State} {queue : List Page} (hnone : (v.bank b).op = none)
        (hqueue : (v.bank b).programQueue = queue) (hflight : (v.bank b).inFlight = k.inFlight)
        (hfetch : (v.bank b).fetch = k.fetch) (hscan : v.store.scanning = s.store.scanning) :
        ended (bankSettle b v) queue := by
      subst hqueue
      exact ⟨fun o ho => bankSettle_op hnone ho, fun hfree hidle hempty p r hpages =>
        bankSettle_programs hnone (hflight.trans hfree) (hscan.trans hidle) (hfetch.trans hempty) hpages⟩
    refine ⟨fun hsub good => ⟨?_, ?_⟩, fun c q p rest hsub hkind hqueue hclip hindex => ?_, fun n good hsub hkind => ?_⟩
    · exact acts_same (acts_of rfl hheld) (completeProgram_suspended hop hsub good)
    · exact acts_same (acts_of rfl hheld) (completeErase_suspended hop hsub good)
    · intro r
      constructor
      · have hacts : Acts (.programCompletion b true) s (completeProgram b true s) := acts_of rfl hheld
        rw [completeProgram_success hop hsub hkind hqueue hclip hindex] at hacts
        have hbank : (s.programmed b c q p rest).bank b = { k with op := none, programQueue := rest } :=
          State.setBank_bank_same ..
        refine ⟨_, hacts, bankSettle_work .., bankSettle_settles .., ?_, bankSettle_notice ..⟩
        exact hended (by rw [hbank]) (by rw [hbank]) (by rw [hbank]) (by rw [hbank]) rfl
      · have hacts : Acts (.programCompletion b false) s (completeProgram b false s) := acts_of rfl hheld
        rw [completeProgram_failure hop hsub hkind hqueue] at hacts
        have hbank : ((s.programFailed b c q).raise (bankSource b) .programFail).bank b =
            { k with op := none, programQueue := k.programQueue.filter fun x => x.clip ≠ c } :=
          State.setBank_bank_same ..
        refine ⟨_, hacts, bankSettle_work .., bankSettle_settles b ((s.programFailed b c q).raise _ _), ?_, ?_⟩
        · exact hended (by rw [hbank]) (by rw [hbank]) (by rw [hbank]) (by rw [hbank]) rfl
        · rw [bankSettle_notice, State.raise_notice, if_pos rfl]
          rfl
    · have hacts : Acts (.eraseCompletion b good) s (completeErase b good s) := acts_of rfl hheld
      rw [completeErase_ends hop hsub hkind] at hacts
      obtain ⟨hnone, hqueue, hflight, hfetch, hscan⟩ := s.erased_idle b n good
      refine ⟨s.erased b n good, _, hacts, bankSettle_work .., bankSettle_settles ..,
        hended hnone hqueue hflight hfetch hscan, ?_⟩
      intro cleared failed done
      have hflash (a : Nat) : Memory.read (s.unswept b n good).store.flash a =
          if good = true ∧ flashAddress b n 0 0 ≤ a ∧ a < flashAddress b (n + 1) 0 0 then erasedByte
          else Memory.read s.store.flash a := by
        rw [State.unswept_store, flashAddress_next]
        cases good with
        | false => simp
        | true =>
          simp only [true_and, if_true]
          exact Memory.read_erase ..
      have hsectors : (s.unswept b n good).store.sectors = cleared.store.sectors := by
        rw [State.unswept_store]
        rfl
      have hrest := s.unswept_rest b n good
      refine ⟨fun hw => and_congr_right fun _ =>
        State.erasable_nil_iff_sectors (tableWf_set .free s.store.sectors _ _ hw) b, bankSettle_notice .., ?_⟩
      by_cases hdone : done
      · rw [State.erased_done hdone.1 hdone.2, if_pos hdone]
        refine ⟨hsectors, hflash, ?_, fun d hd => ?_, ?_, s.unswept_frame b n good⟩
        · refine (State.setBank_bank_same ..).trans ?_
          rw [State.unswept_bank, if_pos rfl, decide_eq_true hdone, Bool.not_true, Bool.and_false]
        · refine (State.setBank_bank_other _ b d _ (Ne.symm hd)).trans ?_
          rw [State.unswept_bank, if_neg (Ne.symm hd)]
        · exact State.raise_notices (congrArg State.notices hrest :) (congrArg State.timeline hrest :)
      · rw [State.erased_left hdone, if_neg hdone]
        refine ⟨hsectors, hflash, ?_, fun d hd => ?_, (congrArg State.notices hrest :), s.unswept_frame b n good⟩
        · rw [State.unswept_bank, if_pos rfl, decide_eq_false hdone, Bool.not_false, Bool.and_true]
        · rw [State.unswept_bank, if_neg (Ne.symm hd)]
  · have hacts : Acts .scanCompletion s (completeScan s) := acts_of rfl hheld
    exact acts_same hacts (if_neg (Bool.eq_false_iff.mp hscan))
  · have hacts : Acts .scanCompletion s (completeScan s) := acts_of rfl hheld
    rw [completeScan_ends hscan] at hacts
    have hwork : BankWork s.scanEnded (forEach allFour (fun s b => bankSettle b s) s.scanEnded) :=
      forEach_work allFour _ (fun u d => bankSettle_work d u) _
    have hsettles := settleAll_settles s.scanEnded
    have hnotice (k : SourceId) := forEach_raise_notice (List.nodup_finRange 4) .scanDone s.scanned k
    have hbank (b : BankId) : s.scanEnded.notice (bankSource b) =
        some (mergeCause s.timeline.count .scanDone (s.notice (bankSource b))) :=
      (hnotice (bankSource b)).trans (if_pos ⟨b, List.mem_finRange b, rfl⟩)
    refine ⟨s.scanEnded, _, hacts, hwork, hsettles, s.scanEnded_field (fun u => u.store.scanning) fun _ _ => rfl,
      fun b => (hwork.notice_of_settles (hsettles b)).trans (hbank b), fun c => ?_, fun b n => ?_,
      s.scanEnded_field (fun u => u.store.flash) fun _ _ => rfl, hbank, fun n hn => ?_, ?_⟩
    · refine (s.scanEnded_field (fun u => u.clip c) fun _ _ => rfl).trans ?_
      exact tableGet_map ClipRecord.empty s.store.clips (fun _ r => r.scanned) c.1 rfl
    · refine (s.scanEnded_field (fun u => u.sector b n) fun _ _ => rfl).trans ?_
      exact tableGet_map SectorState.free s.store.sectors (fun _ x => x.scanned) (sectorKey b n) rfl
    · refine (hnotice n).trans (if_neg fun ⟨b, _, hsame⟩ => ?_)
      have hrange : n.1 = 2 + b.1 := congrArg Fin.val hsame.symm
      omega
    · exact congrArg (fun u : State => { u with store := s.store }) s.scanEnded_frame

end Sys2Proof.Proofs.StoreOperations
end

section
/-! PROOFS. Reads and suspensions complete (chapter 07, R30, R62): O49. A slot stands while its bank goes on when it is
not WANTED and no request of the bank asks for it (`State.hasSlot`). -/

namespace Sys2Proof.Machine

/-! ### Slots that bank service leaves as they are -/

/-- Slot `y` stands in the ring of track `t`, alone with its number. -/
structure State.hasSlot (s : State) (t : TrackId) (y : Slot) : Prop where
  mem : y ∈ (s.track t).ring
  nodup : ((s.track t).ring.map Slot.id).Nodup

/-- No request of bank `b` asks for slot `n` of track `t`. -/
def State.unasked (s : State) (b : BankId) (t : TrackId) (n : Nat) : Prop :=
  ∀ f ∈ (s.bank b).fetch, f.track = t → f.slot ≠ n

section HasSlot

variable {s : State} {b : BankId} {t : TrackId} {y : Slot}

theorem State.hasSlot.of_track {u : State} (h : s.hasSlot t y) (htrack : u.track t = s.track t) : u.hasSlot t y :=
  ⟨htrack ▸ h.mem, htrack ▸ h.nodup⟩

/-- A slot of another number changes. -/
theorem State.hasSlot.modSlot (h : s.hasSlot t y) {k : TrackId} {n : Nat} (hother : k = t → n ≠ y.id) (f : Slot → Slot)
    (hid : ∀ x, (f x).id = x.id) : (s.modTrack k fun tr => tr.modSlot n f).hasSlot t y := by
  by_cases hkt : k = t
  · subst hkt
    have hring : ((s.modTrack k fun tr => tr.modSlot n f).track k).ring =
        (s.track k).ring.map fun x => if x.id = n then f x else x := by
      rw [State.modTrack_track_same]
      rfl
    constructor
    · rw [hring]
      exact List.mem_map.mpr ⟨y, h.mem, if_neg (hother rfl).symm⟩
    · rw [hring, List.map_map]
      have hids : Slot.id ∘ (fun x => if x.id = n then f x else x) = Slot.id := by
        funext x
        simp only [Function.comp_apply]
        split
        · exact hid x
        · rfl
      rw [hids]
      exact h.nodup
  · exact h.of_track (State.modTrack_track_other _ _ _ _ hkt)

/-- Reacting to a waiting request moves the operation alone. -/
theorem suspendReact_frame (b : BankId) (s : State) :
    (suspendReact b s).tracks = s.tracks ∧
      (suspendReact b s).bank b = { s.bank b with op := ((suspendReact b s).bank b).op } ∧
      (∀ d, d ≠ b → (suspendReact b s).bank d = s.bank d) ∧ ((s.bank b).op = none → suspendReact b s = s) := by
  have hset (k : Bank) (hk : k = { s.bank b with op := k.op }) :
      (s.setBank b k).bank b = { s.bank b with op := ((s.setBank b k).bank b).op } ∧
        ∀ d, d ≠ b → (s.setBank b k).bank d = s.bank d := by
    rw [State.setBank_bank_same]
    exact ⟨hk, fun d hd => State.setBank_bank_other _ _ _ _ hd.symm⟩
  unfold suspendReact
  dsimp only
  split
  · exact ⟨rfl, rfl, fun _ _ => rfl, fun _ => rfl⟩
  next op hop =>
    split
    · split
      · exact ⟨rfl, (hset _ rfl).1, (hset _ rfl).2, fun hnone => nomatch hop.symm.trans hnone⟩
      · split
        · exact ⟨rfl, rfl, fun _ _ => rfl, fun _ => rfl⟩
        · exact ⟨rfl, (hset _ rfl).1, (hset _ rfl).2, fun hnone => nomatch hop.symm.trans hnone⟩
    · exact ⟨rfl, rfl, fun _ _ => rfl, fun _ => rfl⟩

theorem suspendReact_track (b : BankId) (s : State) (t : TrackId) : (suspendReact b s).track t = s.track t := by
  rw [State.track, (suspendReact_frame b s).1, State.track]

theorem joinFetch_track (b : BankId) (r : FetchRequest) (s : State) (t : TrackId) :
    (joinFetch b r s).track t =
      (s.modTrack r.track fun tr => tr.modSlot r.slot fun x => { x with state := .queued }).track t :=
  suspendReact_track b _ t

/-- A request has joined the fetch queue of bank `b`, and its slot is QUEUED. -/
def State.joined (s : State) (b : BankId) (r : FetchRequest) : State :=
  (s.modBank b fun k => { k with fetch := k.fetch ++ [r] }).modTrack r.track fun tr =>
    tr.modSlot r.slot fun x => { x with state := .queued }

theorem joinFetch_fetch (b : BankId) (r : FetchRequest) (s : State) :
    ((joinFetch b r s).bank b).fetch = (s.bank b).fetch ++ [r] := by
  obtain ⟨-, hbank, -, -⟩ := suspendReact_frame b (s.joined b r)
  have hjoin : joinFetch b r s = suspendReact b (s.joined b r) := rfl
  rw [hjoin, hbank, State.joined, State.modTrack_bank, State.modBank_bank, if_pos rfl]

theorem State.hasSlot.join (h : s.hasSlot t y) {r : FetchRequest} (hother : r.track = t → r.slot ≠ y.id) :
    (joinFetch b r s).hasSlot t y :=
  (h.modSlot hother (fun x => { x with state := .queued }) fun _ => rfl).of_track (joinFetch_track b r s t)

/-- A slot that waits for a place is WANTED. -/
theorem State.hasSlot.ne_of_wanting (h : s.hasSlot t y) (hstate : y.state ≠ .wanted) {r : FetchRequest}
    (hr : r ∈ s.wanting b) : r.track = t → r.slot ≠ y.id := by
  obtain ⟨k, _, hr⟩ := List.mem_flatMap.mp hr
  obtain ⟨x, hx, hreq⟩ := List.mem_filterMap.mp hr
  obtain ⟨hq, _⟩ := Option.filter_eq_some_iff.mp hreq
  obtain ⟨c, _, rfl⟩ := Option.map_eq_some_iff.mp hq
  obtain ⟨hmem, hwanted⟩ := List.mem_filter.mp hx
  rintro rfl hid
  have hxy : x = y := List.inj_on_of_nodup_map h.nodup hmem h.mem hid
  subst hxy
  exact hstate (of_decide_eq_true hwanted)

theorem State.hasSlot.offer (h : s.hasSlot t y) (hstate : y.state ≠ .wanted) (n : Nat) : (offerPlaces b n s).hasSlot t y := by
  induction n generalizing s with
  | zero => exact h
  | succ n ih =>
    rw [offerPlaces]
    split
    · split
      · exact h
      next r hr => exact ih (h.join (h.ne_of_wanting hstate (leastBy_mem _ _ _ hr)))
    · exact h

theorem State.hasSlot.startRead (h : s.hasSlot t y) (hstate : y.state ≠ .wanted) (hfree : s.unasked b t y.id) :
    (startRead b s).hasSlot t y := by
  unfold Machine.startRead
  split
  · exact h
  next r hr =>
    have hread : (s.modBank b fun k => { k with fetch := k.fetch.erase r, inFlight := some r }).hasSlot t y := h.of_track rfl
    exact (hread.modSlot (hfree r (leastBy_mem _ _ _ hr)) (fun x => { x with state := .reading }) fun _ => rfl).offer
      hstate _

theorem State.hasSlot.settle (h : s.hasSlot t y) (hstate : y.state ≠ .wanted) (hfree : s.unasked b t y.id) :
    (bankSettle b s).hasSlot t y := by
  unfold bankSettle
  dsimp only
  split
  · exact h
  · split
    · split
      · unfold startStore
        dsimp only
        split
        · exact h.of_track rfl
        · split
          · split
            · exact h
            · exact h.of_track rfl
          · exact h
      · exact h.startRead hstate hfree
    · split
      · split
        · exact h.of_track rfl
        · exact h.startRead hstate hfree
      · exact h

end HasSlot

/-! ### The priming condition beside the banks (R30) -/

/-- The walk looks at the paths of the slots alone. -/
theorem Track.stuck_sameBut {a b : Track} (h : a.SameBut b) : b.stuck ↔ a.stuck := by
  obtain ⟨ring, rfl, hslots⟩ := Track.sameBut_iff.mp h
  have hlen : ring.length = a.ring.length := hslots.length_eq.symm
  have hmade (p : PathTag) : (a.withRing ring).madeOn p = a.madeOn p := by
    have hpaths : ring.map Slot.path = a.ring.map Slot.path := by
      have := congrArg (List.map fun x => x.2.1) (sameBut_timing hslots)
      rwa [List.map_map, List.map_map] at this
    have hcount (xs : List Slot) : xs.countP (fun x => x.path = p) = (xs.map Slot.path).countP (fun q => q = p) := by
      rw [List.countP_map]
      rfl
    rw [Track.madeOn, Track.madeOn, hcount, hcount]
    exact congrArg _ hpaths
  have hsplit : (a.withRing ring).nextSplit = a.nextSplit := by
    rw [Track.nextSplit, hmade, hmade]
    rfl
  unfold Track.stuck
  rw [hsplit]
  change _ ↔ _
  rw [Track.withRing_ring, hlen]
  rfl

/-- Slots of which the settled ones stand, and no other settles. -/
theorem settled_counts {xs ys : List Slot}
    (h : List.Forall₂ (fun x y => Slot.Served x y ∧ (x.settled = true → y = x)) xs ys) :
    ys.countP (fun x => x.state = .filled) = xs.countP (fun x => x.state = .filled) ∧
      ((∀ y ∈ ys, y.state = .filled ∨ y.state = .faulty) ↔ ∀ x ∈ xs, x.state = .filled ∨ x.state = .faulty) := by
  have hstate {x y : Slot} (h : Slot.Served x y ∧ (x.settled = true → y = x)) :
      (y.state = .filled ↔ x.state = .filled) ∧ (y.state = .faulty ↔ x.state = .faulty) := by
    obtain ⟨⟨st, rfl, hst⟩, hsettled⟩ := h
    by_cases hx : x.settled = true
    · rw [hsettled hx]
      exact ⟨Iff.rfl, Iff.rfl⟩
    · have hx : x.state ≠ .filled ∧ x.state ≠ .faulty := by simpa [Slot.settled] using hx
      obtain rfl | rfl | rfl := hst <;> simp [hx]
  induction h with
  | nil => exact ⟨rfl, Iff.rfl⟩
  | cons hxy _ ih =>
    obtain ⟨hcount, hall⟩ := ih
    obtain ⟨hfilled, hfaulty⟩ := hstate hxy
    simp only [List.countP_cons, List.forall_mem_cons, hcount, hall, hfilled, hfaulty, and_true]

/-- Where every settled slot stands, the priming condition does. -/
theorem primes_of_hasSlot {s u : State} {t : TrackId} (h : (s.track t).SameBut (u.track t))
    (hserved : List.Forall₂ Slot.Served (s.track t).ring (u.track t).ring)
    (hsettled : ∀ x ∈ (s.track t).ring, x.settled = true → u.hasSlot t x) : u.primes t ↔ s.primes t := by
  have hstand : List.Forall₂ (fun x y => Slot.Served x y ∧ (x.settled = true → y = x)) (s.track t).ring (u.track t).ring := by
    obtain ⟨hlen, hget⟩ := List.forall₂_iff_get.mp hserved
    refine List.forall₂_iff_get.mpr ⟨hlen, fun i hi hj => ⟨hget i hi hj, fun hx => ?_⟩⟩
    have hslot := hsettled _ (List.get_mem ..) hx
    exact List.inj_on_of_nodup_map hslot.nodup (List.get_mem ..) hslot.mem (hget i hi hj).id_eq
  obtain ⟨hcount, hall⟩ := settled_counts hstand
  have hwalk : (u.track t).walk = (s.track t).walk := (congrArg Track.walk h.1 :)
  rw [State.primes, State.primes, walkStep_eq_none_iff, walkStep_eq_none_iff, Track.stuck_sameBut h, hcount, hall, hwalk]

/-! ### BLOCK_READ_COMPLETION (R62, R143) -/

/-- A read's result in its slot. -/
def Slot.answered (correct : Bool) (data : List Byte) (y : Slot) : Slot :=
  if correct then { y with state := .filled, data := data } else { y with state := .faulty }

theorem Slot.answered_id (correct : Bool) (data : List Byte) (y : Slot) : (y.answered correct data).id = y.id := by
  unfold Slot.answered
  split <;> rfl

theorem Slot.answered_settled (correct : Bool) (data : List Byte) (y : Slot) :
    (y.answered correct data).settled = true := by
  unfold Slot.answered
  split <;> rfl

theorem checkPriming_setBank (t : TrackId) (s : State) (b : BankId) (k : Bank) :
    checkPriming t (s.setBank b k) = (checkPriming t s).setBank b k := by
  have hprimes : primingMet t (s.setBank b k) = primingMet t s := by
    rw [Bool.eq_iff_iff, primingMet_iff, primingMet_iff]
    exact primes_congr rfl rfl rfl
  unfold checkPriming
  dsimp only
  rw [hprimes, State.setBank_track]
  split
  · split <;> rfl
  · rfl

theorem checkPriming_bank (t : TrackId) (s : State) (b : BankId) : (checkPriming t s).bank b = s.bank b := by
  unfold checkPriming
  dsimp only
  split
  · split <;> rfl
  · rfl

/-- Judging the priming condition may prime the track, and nothing else of it changes. -/
theorem checkPriming_track (t : TrackId) (s : State) :
    ∃ st primed, (checkPriming t s).track t = { s.track t with state := st, primed := primed } := by
  unfold checkPriming
  dsimp only
  split
  · split
    · exact ⟨_, _, State.setTrack_track_same ..⟩
    · exact ⟨_, _, State.setTrack_track_same ..⟩
  · exact ⟨_, _, rfl⟩

/-- The read of bank `b` for `r` has ended and its track has judged its priming; the bank is still to go on. -/
def State.readEnded (s : State) (b : BankId) (r : FetchRequest) (correct : Bool) : State :=
  checkPriming r.track (deliverRead r correct (s.setBank b { s.bank b with inFlight := none }))

theorem completeRead_ends {s : State} {b : BankId} {r : FetchRequest} (h : (s.bank b).inFlight = some r) (correct : Bool) :
    completeRead b correct s = bankSettle b (s.readEnded b r correct) := by
  unfold completeRead State.readEnded
  rw [h]
  dsimp only
  rw [State.modBank, checkPriming_bank, ← checkPriming_setBank]
  rfl

theorem completeRead_none {s : State} {b : BankId} (h : (s.bank b).inFlight = none) (correct : Bool) :
    completeRead b correct s = s := by
  unfold completeRead
  rw [h]

theorem deliverRead_track (r : FetchRequest) (correct : Bool) (s : State) :
    (deliverRead r correct s).track r.track =
      (s.track r.track).modSlot r.slot fun x => x.answered correct (s.blockData r.clip r.block) :=
  State.modTrack_track_same ..

/-- The track that asked may be primed. -/
theorem readEnded_track (s : State) (b : BankId) (r : FetchRequest) (correct : Bool) :
    ∃ st primed, (s.readEnded b r correct).track r.track =
      { (s.track r.track).modSlot r.slot fun x => x.answered correct (s.blockData r.clip r.block) with
        state := st, primed := primed } := by
  obtain ⟨st, primed, htrack⟩ :=
    checkPriming_track r.track (deliverRead r correct (s.setBank b { s.bank b with inFlight := none }))
  refine ⟨st, primed, htrack.trans ?_⟩
  rw [deliverRead_track]
  rfl

theorem readEnded_ring (s : State) (b : BankId) (r : FetchRequest) (correct : Bool) :
    ((s.readEnded b r correct).track r.track).ring = (s.track r.track).ring.map fun x =>
      if x.id = r.slot then x.answered correct (s.blockData r.clip r.block) else x := by
  obtain ⟨st, primed, htrack⟩ := readEnded_track s b r correct
  rw [htrack]
  rfl

theorem readEnded_bank (s : State) (b : BankId) (r : FetchRequest) (correct : Bool) :
    (s.readEnded b r correct).bank b = { s.bank b with inFlight := none } := by
  rw [State.readEnded, checkPriming_bank]
  exact State.setBank_bank_same ..

theorem readEnded_ids (s : State) (b : BankId) (r : FetchRequest) (correct : Bool) :
    ((s.readEnded b r correct).track r.track).ring.map Slot.id = (s.track r.track).ring.map Slot.id := by
  rw [readEnded_ring, List.map_map]
  refine List.map_congr_left fun x _ => ?_
  rw [Function.comp_apply]
  split
  · exact x.answered_id ..
  · rfl

/-- Ending a read leaves what the requests are ordered by. -/
theorem readEnded_work (s : State) (b : BankId) (r : FetchRequest) (correct : Bool) :
    LookaheadWork r.track (s.setBank b { s.bank b with inFlight := none }) (s.readEnded b r correct) :=
  (LookaheadWork.modTrack r.track (s.setBank b { s.bank b with inFlight := none })
    (fun tr => tr.modSlot r.slot fun x => x.answered correct (s.blockData r.clip r.block)) fun _ => rfl).trans
    (checkPriming_work r.track (deliverRead r correct (s.setBank b { s.bank b with inFlight := none })))

/-- A settled slot that no request asks for stands while the bank goes on. -/
theorem readEnded_hasSlot {s : State} {b : BankId} {r : FetchRequest} {correct : Bool}
    (hnodup : ((s.track r.track).ring.map Slot.id).Nodup) {x : Slot}
    (hx : x ∈ ((s.readEnded b r correct).track r.track).ring) (hsettled : x.settled = true)
    (hfree : s.unasked b r.track x.id) : (bankSettle b (s.readEnded b r correct)).hasSlot r.track x := by
  refine State.hasSlot.settle ⟨hx, readEnded_ids s b r correct ▸ hnodup⟩ (fun hwanted => ?_) fun f hf => hfree f ?_
  · rw [Slot.settled, hwanted] at hsettled
    cases hsettled
  · rwa [readEnded_bank] at hf

/-- Slots that keep their places and paths keep the order of the requests: a track that becomes primed has no deadline
before or after. -/
theorem LookaheadWork.orders {t : TrackId} {s u : State} (h : LookaheadWork t s u)
    (hring : (u.track t).ring.map Slot.timing = (s.track t).ring.map Slot.timing) : s.OrdersAs u where
  timing k := by
    by_cases hkt : k = t
    · rw [hkt]
      exact hring
    · exact sameBut_timing (h.others k hkt).2
  due k := by
    have hnext : u.nextTick k = s.nextTick k := by
      rw [State.nextTick, State.nextTick, State.trackDone, h.work, h.timeline]
      rfl
    by_cases hkt : k = t
    · subst hkt
      have hstart : (u.track k).start = (s.track k).start := (congrArg Track.start h.own :)
      have hdue : (u.track k).startDue = (s.track k).startDue := (congrArg Track.startDue h.own :)
      unfold State.frontDue
      dsimp only
      rw [hnext, h.timeline, hstart, hdue]
      obtain ⟨hstate, -, -⟩ | ⟨hbefore, -, hafter, -, -⟩ := h.primed
      · rw [hstate]
      · rw [hbefore, hafter]
    · have htrack : { u.track k with ring := (s.track k).ring } = s.track k := (h.others k hkt).1
      have hstate : (u.track k).state = (s.track k).state := (congrArg Track.state htrack :)
      have hstart : (u.track k).start = (s.track k).start := (congrArg Track.start htrack :)
      have hdue : (u.track k).startDue = (s.track k).startDue := (congrArg Track.startDue htrack :)
      unfold State.frontDue
      dsimp only
      rw [hnext, h.timeline, hstate, hstart, hdue]
  count := by rw [h.timeline]

theorem readEnded_settles (s : State) (b : BankId) (r : FetchRequest) (correct : Bool) :
    (s.setBank b { s.bank b with inFlight := none }).settles (bankSettle b (s.readEnded b r correct)) b := by
  have hwork := readEnded_work s b r correct
  have hbank : (s.readEnded b r correct).bank b = (s.setBank b { s.bank b with inFlight := none }).bank b := by
    rw [readEnded_bank, State.setBank_bank_same]
  refine settles_congr (hwork.orders ?_) hbank hwork.scanning (fun m hm => ?_) hwork.tables rfl (bankSettle_settles ..)
  · rw [readEnded_ring, List.map_map]
    refine List.map_congr_left fun x _ => ?_
    rw [Function.comp_apply, Slot.answered]
    split
    · split <;> rfl
    · rfl
  · rw [hwork.sectors b m hm, hbank, if_neg]
    rintro ⟨hnone, herase⟩
    rw [hnone] at herase
    cases herase

/-- The track that waited for priming has it exactly when it meets the condition. -/
theorem readEnded_primes {s : State} {b : BankId} {r : FetchRequest} {correct : Bool}
    (hprimed : (s.track r.track).primed = false)
    (hstate : (s.track r.track).state = .priming ∨ (s.track r.track).state = .starting)
    (hnodup : ((s.track r.track).ring.map Slot.id).Nodup)
    (hfree : ∀ f ∈ (s.bank b).fetch, f.track = r.track → f.slot ≠ r.slot ∧
      ∀ y ∈ (s.track r.track).ring, y.id = f.slot → y.state = .queued) :
    let u := bankSettle b (s.readEnded b r correct)
    ((u.track r.track).primed = true ↔ u.primes r.track) ∧
      ((s.track r.track).state = .priming → ((u.track r.track).state = .ready ↔ u.primes r.track)) := by
  intro u
  have hdelivered := deliverRead_track r correct (s.setBank b { s.bank b with inFlight := none })
  have hjudged := checkPriming_primes (s := deliverRead r correct (s.setBank b { s.bank b with inFlight := none }))
    (t := r.track) (by rw [hdelivered]; exact hprimed) (by rw [hdelivered]; exact hstate)
  rw [hdelivered] at hjudged
  have htrack : ((s.readEnded b r correct).track r.track).SameBut (u.track r.track) := (bankSettle_work b _).tracks _
  have hprimed' : (u.track r.track).primed = ((s.readEnded b r correct).track r.track).primed :=
    (congrArg Track.primed htrack.1 :)
  have hstate' : (u.track r.track).state = ((s.readEnded b r correct).track r.track).state :=
    (congrArg Track.state htrack.1 :)
  have hprimes : u.primes r.track ↔ (s.readEnded b r correct).primes r.track := by
    refine primes_of_hasSlot htrack ((bankSettle_serving b _).slots _) fun x hx hsettled =>
      readEnded_hasSlot hnodup hx hsettled fun f hf hft hid => ?_
    obtain ⟨hslot, hqueued⟩ := hfree f hf hft
    rw [readEnded_ring] at hx
    obtain ⟨y, hy, rfl⟩ := List.mem_map.mp hx
    by_cases hyid : y.id = r.slot
    · rw [if_pos hyid, Slot.answered_id] at hid
      exact hslot (hid.trans hyid)
    · rw [if_neg hyid] at hid hsettled
      rw [Slot.settled, hqueued y hy hid.symm] at hsettled
      cases hsettled
  rw [hprimed', hstate', hprimes]
  exact hjudged

/-! ### A request joins (R145, R148) -/

/-- The operation and the record of a bank a request waits at. -/
theorem suspendReact_asked {s : State} {b : BankId} {op : Operation} (hop : (s.bank b).op = some op)
    (hfetch : (s.bank b).fetch ≠ []) :
    let k := s.bank b
    let blocked := op.sub = .running ∧ k.policy = .allow ∧ 16 ≤ op.count
    ((suspendReact b s).bank b).op = some
        (if op.sub = .running ∧ k.policy = .allow ∧ op.count < 16 then { op with sub := .suspending }
        else if blocked then { op with cap := true } else op) ∧
      (suspendReact b s).notice (bankSource b) =
        if blocked ∧ op.cap = false then some (mergeCause s.timeline.count .suspendCap (s.notice (bankSource b)))
        else s.notice (bankSource b) := by
  intro k blocked
  by_cases hrunning : op.sub = .running
  · by_cases hallow : k.policy = .allow
    · rw [suspendReact_running hop hrunning hallow hfetch]
      by_cases hcount : op.count < 16
      · have hblocked : ¬ blocked := fun h => absurd h.2.2 (by omega)
        rw [if_pos hcount, if_pos ⟨hrunning, hallow, hcount⟩, if_neg (fun h => hblocked h.1), State.setBank_bank_same]
        exact ⟨rfl, rfl⟩
      · have hblocked : blocked := ⟨hrunning, hallow, by omega⟩
        have hfull : ¬ (op.sub = .running ∧ k.policy = .allow ∧ op.count < 16) := fun h => hcount h.2.2
        rw [if_neg hcount, if_neg hfull, if_pos hblocked]
        by_cases hcap : op.cap = true
        · have hraised : ¬ (blocked ∧ op.cap = false) := fun h => Bool.false_ne_true (h.2.symm.trans hcap)
          rw [if_pos hcap, if_neg hraised, hop]
          exact ⟨congrArg some (by rw [← hcap]), rfl⟩
        · have hraised : blocked ∧ op.cap = false := ⟨hblocked, Bool.eq_false_iff.mpr hcap⟩
          rw [if_neg hcap, if_pos hraised, State.raise_notice, if_pos rfl]
          exact ⟨(congrArg Bank.op (State.setBank_bank_same s b _) :), rfl⟩
    · rw [suspendReact_defer hallow, if_neg (fun h => hallow h.2.1), if_neg (fun h => hallow h.2.1),
        if_neg (fun h => hallow h.1.2.1)]
      exact ⟨hop, rfl⟩
  · have hquiet : suspendReact b s = s := suspendReact_quiet fun o ho => by
      obtain rfl : op = o := Option.some.inj (hop.symm.trans ho)
      exact hrunning
    rw [hquiet, if_neg (fun h => hrunning h.1), if_neg (fun h => hrunning h.1), if_neg (fun h => hrunning h.1.1)]
    exact ⟨hop, rfl⟩

/-- What a request does to the banks when it joins. -/
theorem joinFetch_spec (b : BankId) (r : FetchRequest) (s : State) :
    let k := s.bank b
    let u := joinFetch b r s
    (u.bank b).fetch = k.fetch ++ [r] ∧ (∀ d, d ≠ b → u.bank d = s.bank d) ∧ (k.op = none → (u.bank b).op = none) ∧
      ∀ op, k.op = some op →
        let blocked := op.sub = .running ∧ k.policy = .allow ∧ 16 ≤ op.count
        (u.bank b).op = some
          (if op.sub = .running ∧ k.policy = .allow ∧ op.count < 16 then { op with sub := .suspending }
          else if blocked then { op with cap := true } else op) ∧
        u.notice (bankSource b) =
          if blocked ∧ op.cap = false then some (mergeCause s.timeline.count .suspendCap (s.notice (bankSource b)))
          else s.notice (bankSource b) := by
  intro k u
  have hbank : (s.joined b r).bank b = { k with fetch := k.fetch ++ [r] } := State.setBank_bank_same ..
  obtain ⟨-, -, hothers, hidle⟩ := suspendReact_frame b (s.joined b r)
  refine ⟨joinFetch_fetch b r s, fun d hd => ?_, fun hop => ?_, fun op hop => ?_⟩
  · exact (hothers d hd).trans (State.setBank_bank_other _ _ _ _ hd.symm)
  · have hnone : ((s.joined b r).bank b).op = none := by
      rw [hbank]
      exact hop
    have hstand : u = s.joined b r := hidle hnone
    rw [hstand]
    exact hnone
  · have hasked := suspendReact_asked (s := s.joined b r) (b := b) (op := op) (by rw [hbank]; exact hop)
      (by rw [hbank]; exact List.append_ne_nil_of_right_ne_nil _ (List.cons_ne_nil _ _))
    rw [hbank] at hasked
    exact hasked

/-! ### SUSPEND_COMPLETION (R146) -/

theorem completeSuspend_suspends {s : State} {b : BankId} {op : Operation} (hop : (s.bank b).op = some op)
    (hsub : op.sub = .suspending) : completeSuspend b s =
      bankSettle b (s.setBank b { s.bank b with op := some { op with sub := .suspended, count := op.count + 1 } }) := by
  unfold completeSuspend
  rw [hop]
  exact if_pos hsub

theorem completeSuspend_stands {s : State} {b : BankId} (h : ∀ op, (s.bank b).op = some op → op.sub ≠ .suspending) :
    completeSuspend b s = s := by
  unfold completeSuspend
  cases hop : (s.bank b).op with
  | none => rfl
  | some op => exact if_neg (h op hop)

end Sys2Proof.Machine

namespace Sys2Proof.Proofs.ReadsAndSuspends

open Sys2Proof Sys2Proof.Machine

theorem read_completes {s : State} {b : BankId} (hheld : s.held = false) (correct : Bool) {r : FetchRequest}
    (hflight : (s.bank b).inFlight = some r) :
    Acts (.blockReadCompletion b correct) s (bankSettle b (s.readEnded b r correct)) := by
  have hacts : Acts (.blockReadCompletion b correct) s (completeRead b correct s) := acts_of rfl hheld
  rwa [completeRead_ends hflight] at hacts

/-- Settles O49. -/
theorem readsAndSuspendsComplete : Obligations.ReadsAndSuspendsComplete := by
  unfold Obligations.ReadsAndSuspendsComplete
  intro s b hheld k
  refine ⟨fun correct hnone => ?_, fun correct r hflight => ?_, fun r => ?_, fun hnone => ?_, fun op hop hsub => ?_⟩
  · exact acts_same (acts_of rfl hheld) (completeRead_none hnone correct)
  · refine ⟨_, read_completes hheld correct hflight, (readEnded_work ..).trans ((bankSettle_work ..).lookahead _),
      readEnded_settles .., readEnded_primes, fun hstale => ?_, fun hnodup hfree y hy hid => ?_⟩
    · obtain ⟨st, primed, htrack⟩ := readEnded_track s b r correct
      have hsame : ((s.readEnded b r correct).track r.track).SameBut _ := (bankSettle_work b _).tracks r.track
      have hback := Track.SameBut.map (f := fun tr => { tr with
        state := (s.track r.track).state, primed := (s.track r.track).primed }) (fun _ _ => rfl) hsame
      have hring : (s.track r.track).modSlot r.slot (fun x => x.answered correct (s.blockData r.clip r.block)) =
          s.track r.track := by
        have hmap : (s.track r.track).ring.map (fun x =>
            if x.id = r.slot then x.answered correct (s.blockData r.clip r.block) else x) = (s.track r.track).ring :=
          (List.map_congr_left fun x hx => if_neg (hstale x hx)).trans (List.map_id _)
        rw [Track.modSlot, hmap]
      rw [htrack, hring] at hback
      exact hback
    · refine (readEnded_hasSlot (x := y.answered correct (s.blockData r.clip r.block)) hnodup ?_ (y.answered_settled ..)
        fun f hf hft => ?_).mem
      · rw [readEnded_ring]
        exact List.mem_map.mpr ⟨y, hy, if_pos hid⟩
      · rw [Slot.answered_id, hid]
        exact hfree f hf hft
  · obtain ⟨hfetch, hothers, hidle, hasked⟩ := joinFetch_spec b r s
    refine ⟨joinFetch_work b r s, hfetch, hothers, fun y hy hid => ?_, hidle, hasked⟩
    rw [joinFetch_track, State.modTrack_track_same]
    exact List.mem_map.mpr ⟨y, hy, if_pos hid⟩
  · exact acts_same (acts_of rfl hheld) (completeSuspend_stands hnone)
  · have hacts : Acts (.suspendCompletion b) s (completeSuspend b s) := acts_of rfl hheld
    rw [completeSuspend_suspends hop hsub] at hacts
    refine ⟨_, hacts, bankSettle_work .., bankSettle_settles .., fun hflight hscan hfetch => ?_⟩
    have hsettles := bankSettle_settles b
      (s.setBank b { s.bank b with op := some { op with sub := .suspended, count := op.count + 1 } })
    simp only [State.settles, State.setBank_bank_same] at hsettles
    have hmay : Bank.mayRead { s.bank b with op := some { op with sub := .suspended, count := op.count + 1 } } := by
      rintro o ⟨⟩
      rfl
    obtain ⟨-, hempty⟩ := hsettles.1 hscan hflight hmay
    obtain ⟨-, hresumes, -⟩ := hempty hfetch
    exact hresumes _ rfl

end Sys2Proof.Proofs.ReadsAndSuspends
end

section
/-! PROOFS. Deadlines and the order of reads (chapter 03, 07): O48. -/

namespace Sys2Proof.Machine

/-! ### Deadlines (R71 to R73) -/

theorem State.nextTick_eq (s : State) (t : TrackId) : s.nextTick t =
    if s.work.timeline = true ∧ s.trackDone t = false then s.timeline.count else s.timeline.count + 1 := by
  unfold State.nextTick
  simp only [Bool.and_eq_true, Bool.not_eq_true']

/-- A slot's deadline is that of the front slot, as many ticks later as slots stand before it. -/
theorem State.deadline_of_due {s : State} {t : TrackId} {k : Nat} {y : Slot} (hy : (s.track t).ring[k]? = some y)
    (hpath : y.path = .main) (hgated : y.gated = false) {due : Option Count} (hdue : s.frontDue t = due) :
    s.deadline t k = due.map (· + BitVec.ofNat 32 k) := by
  unfold State.deadline
  rw [hy]
  dsimp only
  rw [hpath, hgated, hdue]
  rfl

/-- A slot off the main path, or behind a HOLD that waits, is UNSCHEDULED. -/
theorem State.deadline_off {s : State} {t : TrackId} {k : Nat} {y : Slot} (hy : (s.track t).ring[k]? = some y)
    (h : y.path ≠ .main ∨ y.gated = true) : s.deadline t k = none := by
  unfold State.deadline
  rw [hy]
  dsimp only
  refine if_neg fun hmain => ?_
  rw [Bool.and_eq_true, decide_eq_true_eq, Bool.not_eq_true'] at hmain
  obtain hpath | hgated := h
  · exact hpath hmain.1
  · exact Bool.false_ne_true (hmain.2.symm.trans hgated)

theorem State.deadline_none {s : State} {t : TrackId} (k : Nat) (hdue : s.frontDue t = none) : s.deadline t k = none := by
  unfold State.deadline
  rw [hdue]
  split
  · rfl
  · split <;> rfl

section FrontDue

variable {s : State} {t : TrackId}

/-- A track that does not play and does not start has no deadlines. -/
theorem State.frontDue_still (h : (s.track t).state ≠ .playing) (hstop : (s.track t).state ≠ .stopping)
    (hstart : (s.track t).state ≠ .starting) : s.frontDue t = none := by
  unfold State.frontDue
  dsimp only
  split
  next _ hstate => exact absurd hstate h
  next _ hstate => exact absurd hstate hstop
  next hstate _ => exact absurd hstate hstart
  next hstate _ => exact absurd hstate hstart
  · rfl

/-- A track that waits for an edge or a flag has none either. -/
theorem State.frontDue_waiting (hstate : (s.track t).state = .starting) (hnext : (s.track t).start ≠ .next)
    (hat : ∀ time, (s.track t).start ≠ .atTime time) : s.frontDue t = none := by
  unfold State.frontDue
  dsimp only
  rw [hstate]
  cases hstart : (s.track t).start with
  | none => rfl
  | next => exact absurd hstart hnext
  | atTime time => exact absurd hstart (hat time)
  | trigger n => rfl
  | flag f c => rfl

theorem State.frontDue_plays (h : (s.track t).state = .playing ∨ (s.track t).state = .stopping ∨
    ((s.track t).state = .starting ∧ (s.track t).start = .next)) : s.frontDue t = some (s.nextTick t) := by
  unfold State.frontDue
  dsimp only
  obtain hstate | hstate | ⟨hstate, hstart⟩ := h
  · rw [hstate]
  · rw [hstate]
  · rw [hstate, hstart]

theorem State.frontDue_atTime {time : Count} (hstate : (s.track t).state = .starting)
    (hstart : (s.track t).start = .atTime time) : s.frontDue t =
      if (s.track t).startDue then some (s.nextTick t)
      else if ahead time s.timeline.count || time = s.nextTick t then some time else some (s.timeline.count + 1) := by
  unfold State.frontDue
  dsimp only
  rw [hstate, hstart]

end FrontDue

/-! ### Urgency (R61, R141) -/

/-- How far ahead a deadline is, with UNSCHEDULED behind every known one. -/
def distanceAhead (now : Count) (due : Option Count) : Nat := (due.map fun d => (d - now).toNat).getD 4294967296

theorem distanceAhead_some_lt (now d : Count) : distanceAhead now (some d) < distanceAhead now none := by
  unfold distanceAhead
  rw [Option.map_some, Option.getD_some, Option.map_none, Option.getD_none]
  exact (d - now).isLt

theorem State.urgency_eq {s : State} {r : FetchRequest} {i : Nat} (hplace : (s.track r.track).slotPlace r.slot = some i) :
    s.urgency r = (distanceAhead s.timeline.count (s.deadline r.track i) * 48 + r.track.1) * 8 + i := by
  unfold State.urgency distanceAhead
  rw [hplace]
  dsimp only [Option.getD_some]
  cases s.deadline r.track i <;> rfl

/-- Distance first, then the track, then the place. -/
theorem State.urgency_lt {s : State} {q r : FetchRequest} {i j : Nat}
    (hq : (s.track q.track).slotPlace q.slot = some i) (hr : (s.track r.track).slotPlace r.slot = some j) (hi : i < 8)
    (hj : j < 8) :
    let d := distanceAhead s.timeline.count (s.deadline q.track i)
    let e := distanceAhead s.timeline.count (s.deadline r.track j)
    d < e ∨ (d = e ∧ (q.track < r.track ∨ (q.track = r.track ∧ i < j))) → s.urgency q < s.urgency r := by
  intro d e h
  rw [State.urgency_eq hq, State.urgency_eq hr]
  have hqt : q.track.1 < 48 := q.track.2
  have hrt : r.track.1 < 48 := r.track.2
  obtain h | ⟨h, h' | ⟨h', hij⟩⟩ := h
  · omega
  · have hlt : q.track.1 < r.track.1 := h'
    omega
  · have heq : q.track.1 = r.track.1 := congrArg Fin.val h'
    omega

/-! ### The reads of a bank (R61, R141, R142) -/

/-- The requests in the queue stay where a place is offered. -/
theorem offerPlaces_fetch (b : BankId) (n : Nat) (s : State) :
    ∃ joined, ((offerPlaces b n s).bank b).fetch = (s.bank b).fetch ++ joined := by
  induction n generalizing s with
  | zero => exact ⟨[], (List.append_nil _).symm⟩
  | succ n ih =>
    rw [offerPlaces]
    split
    · split
      · exact ⟨[], (List.append_nil _).symm⟩
      next r hr =>
        obtain ⟨joined, h⟩ := ih (joinFetch b r s)
        exact ⟨r :: joined, by rw [h, joinFetch_fetch, List.append_assoc, List.singleton_append]⟩
    · exact ⟨[], (List.append_nil _).symm⟩

/-- The read of `r` has begun at bank `b`; the freed place is still to be offered. -/
def State.reading (s : State) (b : BankId) (r : FetchRequest) : State :=
  (s.modBank b fun k => { k with fetch := k.fetch.erase r, inFlight := some r }).modTrack r.track fun tr =>
    tr.modSlot r.slot fun x => { x with state := .reading }

theorem startRead_of_least {s : State} {b : BankId} {r : FetchRequest} (h : leastBy s.urgency (s.bank b).fetch = some r) :
    startRead b s = offerPlaces b 64 (s.reading b r) := by
  unfold startRead
  rw [h]
  rfl

theorem State.reading_bank (s : State) (b : BankId) (r : FetchRequest) :
    (s.reading b r).bank b = { s.bank b with fetch := (s.bank b).fetch.erase r, inFlight := some r } :=
  (State.modTrack_bank ..).trans (State.setBank_bank_same ..)

/-- What a read that begins leaves. -/
theorem startRead_begins {s : State} {b : BankId} {r : FetchRequest} (h : leastBy s.urgency (s.bank b).fetch = some r) :
    BankWork (s.setBank b { s.bank b with inFlight := some r }) (startRead b s) ∧
      ((startRead b s).bank b).inFlight = some r ∧
      (∃ joined, ((startRead b s).bank b).fetch = (s.bank b).fetch.erase r ++ joined) ∧
      (((s.track r.track).ring.map Slot.id).Nodup → ∀ y ∈ (s.track r.track).ring, y.id = r.slot →
        { y with state := .reading } ∈ ((startRead b s).track r.track).ring) := by
  rw [startRead_of_least h]
  have hwork := offerPlaces_work b 64 (s.reading b r)
  refine ⟨?_, ?_, ?_, fun hnodup y hy hid => ?_⟩
  · refine hwork.after ((BankWork.modSlot _ r.track r.slot .reading).after ?_)
    have hmod := BankWork.modFetch (s.setBank b { s.bank b with inFlight := some r }) b (·.erase r)
    have hbank : (s.setBank b { s.bank b with inFlight := some r }).modBank b (fun k => { k with fetch := k.fetch.erase r }) =
        s.modBank b fun k => { k with fetch := k.fetch.erase r, inFlight := some r } :=
      State.modBank_modBank s b (fun k => { k with inFlight := some r }) fun k => { k with fetch := k.fetch.erase r }
    rwa [hbank] at hmod
  · exact (hwork.banks b).flight r (by rw [State.reading_bank])
  · obtain ⟨joined, hjoined⟩ := offerPlaces_fetch b 64 (s.reading b r)
    exact ⟨joined, by rw [hjoined, State.reading_bank]⟩
  · have hring : ((s.reading b r).track r.track).ring = (s.track r.track).ring.map fun x =>
        if x.id = r.slot then { x with state := .reading } else x := by
      rw [State.reading, State.modTrack_track_same]
      rfl
    have hslot : (s.reading b r).hasSlot r.track { y with state := .reading } := by
      refine ⟨hring ▸ List.mem_map.mpr ⟨y, hy, if_pos hid⟩, ?_⟩
      have hids := slotsServed_ids (Track.modSlot_served (s.track r.track) r.slot (st := .reading) (.inr rfl))
      rw [State.reading, State.modTrack_track_same]
      exact hids ▸ hnodup
    exact (hslot.offer (by simp) 64).mem

theorem offerPlaces_next {s : State} {b : BankId} {r : FetchRequest} (hroom : (s.bank b).fetch.length < 64)
    (h : leastBy s.urgency (s.wanting b) = some r) (n : Nat) :
    offerPlaces b (n + 1) s = offerPlaces b n (joinFetch b r s) := by
  rw [offerPlaces]
  refine (if_pos hroom).trans ?_
  rw [h]

/-! ### The losing path of a split (R70) -/

/-- The losing path of a split has gone: its copies and its slots. -/
def State.splitLost (s : State) (t : TrackId) (chosen : PathTag) : State :=
  dropSlots t (((s.track t).ring.filter fun x => x.path ≠ chosen && x.path ≠ .main).map Slot.id)
    (s.modTrack t fun tr => { tr with queue := tr.queue.filter fun c => c.path = chosen || c.path = .main })

theorem splitLost_work (s : State) (t : TrackId) (chosen : PathTag) : LookaheadWork t s (s.splitLost t chosen) :=
  (dropSlots_lookahead t _ _).after (.modTrack t s _ fun _ => rfl)

theorem splitLost_queue (s : State) (t : TrackId) (chosen : PathTag) :
    ((s.splitLost t chosen).track t).queue = (s.track t).queue.filter fun c => c.path = chosen || c.path = .main := by
  rw [State.splitLost, dropSlots_own, State.modTrack_track_same]

/-- The slots of the losing path are those whose numbers are dropped, and with them at most others of those numbers. -/
theorem splitLost_slots (s : State) (t : TrackId) (chosen : PathTag) :
    List.Forall₂ Slot.Served ((s.track t).ring.filter fun x =>
      !(((s.track t).ring.filter fun x => x.path ≠ chosen && x.path ≠ .main).map Slot.id).contains x.id)
      ((s.splitLost t chosen).track t).ring := by
  have hslots := (dropSlots_serving t (((s.track t).ring.filter fun x => x.path ≠ chosen && x.path ≠ .main).map Slot.id)
    (s.modTrack t fun tr => { tr with queue := tr.queue.filter fun c => c.path = chosen || c.path = .main })).slots t
  rwa [State.modTrack_track_same, State.modTrack_track_same] at hslots

/-- Slots alone with their numbers: dropping by number drops exactly those. -/
theorem filter_notContains {xs : List Slot} (hnodup : (xs.map Slot.id).Nodup) (p : Slot → Bool) :
    (xs.filter fun x => !((xs.filter p).map Slot.id).contains x.id) = xs.filter fun x => !p x := by
  refine List.filter_congr fun x hx => ?_
  rw [Bool.not_inj_iff, Bool.eq_iff_iff, List.contains_iff_mem, List.mem_map]
  constructor
  · rintro ⟨y, hy, hid⟩
    obtain ⟨hmem, hpy⟩ := List.mem_filter.mp hy
    rwa [← List.inj_on_of_nodup_map hnodup hmem hx hid]
  · exact fun hpx => ⟨x, List.mem_filter.mpr ⟨hx, hpx⟩, rfl⟩

/-- A served slot was there before. -/
theorem served_from {xs ys : List Slot} (h : List.Forall₂ Slot.Served xs ys) {y : Slot} (hy : y ∈ ys) :
    ∃ x ∈ xs, Slot.Served x y := by
  induction h with
  | nil => cases hy
  | cons hfirst _ ih =>
    obtain rfl | hy := List.mem_cons.mp hy
    · exact ⟨_, List.mem_cons_self, hfirst⟩
    · obtain ⟨x, hx, hxy⟩ := ih hy
      exact ⟨x, List.mem_cons_of_mem _ hx, hxy⟩

/-- No slot of the losing path is left. -/
theorem splitLost_kept (s : State) (t : TrackId) (chosen : PathTag) :
    ∀ y ∈ ((s.splitLost t chosen).track t).ring, ¬ (y.path ≠ chosen ∧ y.path ≠ .main) := by
  intro y hy hlost
  obtain ⟨x, hx, hxy⟩ := served_from (splitLost_slots s t chosen) hy
  obtain ⟨st, rfl, -⟩ := hxy
  obtain ⟨hmem, hkept⟩ := List.mem_filter.mp hx
  have hdead : x.id ∈ ((s.track t).ring.filter fun x => x.path ≠ chosen && x.path ≠ .main).map Slot.id :=
    List.mem_map.mpr ⟨x, List.mem_filter.mpr ⟨hmem, by simpa using hlost⟩, rfl⟩
  rw [List.contains_iff_mem.mpr hdead] at hkept
  exact Bool.false_ne_true hkept

/-- The chosen path becomes the main one. -/
theorem resolveSplit_eq (s : State) (t : TrackId) (chosen : PathTag) :
    let v := s.splitLost t chosen
    resolveSplit t chosen s = v.setTrack t
      { v.track t with
        queue := (v.track t).queue.map fun c => { c with path := .main }
        ring := (v.track t).ring.map fun y => { y with path := .main }
        walk := { (v.track t).walk with phase := .slots ((v.track t).ring.countP fun y => y.path = chosen) } } := by
  intro v
  have hring : ((v.track t).ring.map fun x => if x.path = chosen then { x with path := PathTag.main } else x) =
      (v.track t).ring.map fun y => { y with path := .main } := by
    refine List.map_congr_left fun y hy => ?_
    split
    · rfl
    next hchosen =>
      have hmain : y.path = .main := by_contra fun h => splitLost_kept s t chosen y hy ⟨hchosen, h⟩
      rw [← hmain]
  have hresolve : resolveSplit t chosen s = v.setTrack t ((v.track t).adoptPath chosen) := rfl
  rw [hresolve, Track.adoptPath, hring, Track.madeOn]

end Sys2Proof.Machine

namespace Sys2Proof.Proofs.DeadlinesAndReads

open Sys2Proof Sys2Proof.Machine

/-- Settles O48. -/
theorem deadlinesOrderTheReads : Obligations.DeadlinesOrderTheReads := by
  unfold Obligations.DeadlinesOrderTheReads
  refine ⟨fun s t k y => ?_, fun s q r i j hq hr hi hj => ?_, fun s b hfetch => ?_, fun s b n hroom hwanting => ?_,
    fun s t chosen _ => ?_⟩
  · intro x next hy
    have hnext : s.nextTick t = next := s.nextTick_eq t
    refine ⟨State.deadline_off hy, fun hstate => ?_, fun hstate hstart => ?_, fun hpath hgated =>
      ⟨fun hplays => ?_, fun time hstate hstart => ?_⟩⟩
    · refine State.deadline_none k (State.frontDue_still ?_ ?_ ?_) <;>
        (intro hother; rw [hother] at hstate; simp at hstate)
    · refine State.deadline_none k (State.frontDue_waiting hstate ?_ fun time => ?_) <;>
        (intro hother; rw [hother] at hstart; simp at hstart)
    · exact State.deadline_of_due hy hpath hgated ((State.frontDue_plays hplays).trans (congrArg some hnext))
    · have hdue := State.frontDue_atTime hstate hstart
      rw [hnext] at hdue
      refine ⟨fun h => ?_, fun h hahead => ?_, fun h hlate hother => ?_⟩
      · exact State.deadline_of_due hy hpath hgated (hdue.trans (if_pos h))
      · have hknown : (ahead time s.timeline.count || decide (time = next)) = true := by
          simpa using hahead
        exact State.deadline_of_due hy hpath hgated
          ((hdue.trans (if_neg (Bool.eq_false_iff.mp h))).trans (if_pos hknown))
      · have hknown : ¬ (ahead time s.timeline.count || decide (time = next)) = true := by
          simp [hlate, hother]
        exact State.deadline_of_due hy hpath hgated
          ((hdue.trans (if_neg (Bool.eq_false_iff.mp h))).trans (if_neg hknown))
  · intro known other
    have hlt := State.urgency_lt hq hr hi hj
    refine ⟨fun d e hd he hde => hlt (.inl ?_), fun hknown hother => hlt (.inl ?_), fun heq horder =>
      hlt (.inr ⟨congrArg _ heq, horder⟩)⟩
    · change distanceAhead _ known < distanceAhead _ other
      rw [hd, he]
      exact hde
    · obtain ⟨d, hd⟩ := Option.isSome_iff_exists.mp hknown
      change distanceAhead _ known < distanceAhead _ other
      rw [hd, hother]
      exact distanceAhead_some_lt ..
  · cases hleast : leastBy s.urgency (s.bank b).fetch with
    | none => exact absurd ((leastBy_none _ _).mp hleast) hfetch
    | some r => exact ⟨r, leastBy_mem _ _ _ hleast, leastBy_le _ _ _ hleast, startRead_begins hleast⟩
  · cases hleast : leastBy s.urgency (s.wanting b) with
    | none => exact absurd ((leastBy_none _ _).mp hleast) hwanting
    | some r => exact ⟨r, leastBy_mem _ _ _ hleast, leastBy_le _ _ _ hleast, offerPlaces_next hroom hleast n⟩
  · intro x lost
    refine ⟨s.splitLost t chosen, splitLost_work s t chosen, fun c hc => ?_, splitLost_kept s t chosen,
      fun hnodup => ?_, resolveSplit_eq s t chosen⟩
    · rw [splitLost_queue] at hc
      have hpath := (List.mem_filter.mp hc).2
      rintro ⟨hchosen, hmain⟩
      simp [hchosen, hmain] at hpath
    · have hslots := slotsServed_sameBut (splitLost_slots s t chosen)
      rw [filter_notContains hnodup] at hslots
      simpa using hslots

end Sys2Proof.Proofs.DeadlinesAndReads
end

section
/-! PROOFS. Fades and gain (chapter 04, R55, R81 to R86): O34. -/

namespace Sys2Proof.Machine

/-! ### The three ramps (R82 to R84) -/

theorem fadeInAtt_of_lt {f k : Nat} (h : k < f) : fadeInAtt f k = (f - k) * 180 / f := if_pos h

theorem fadeInAtt_of_ge {f k : Nat} (h : f ≤ k) : fadeInAtt f k = 0 := if_neg (by omega)

theorem fadeInAtt_le (f k : Nat) : fadeInAtt f k ≤ 180 := by
  unfold fadeInAtt
  split
  · exact Nat.div_le_of_le_mul (Nat.mul_le_mul_right _ (Nat.sub_le f k))
  · exact Nat.zero_le _

theorem fadeInAtt_zero {f : Nat} (h : 1 ≤ f) : fadeInAtt f 0 = 180 := by
  rw [fadeInAtt_of_lt h, Nat.sub_zero, Nat.mul_div_cancel_left _ h]

theorem fadeInAtt_succ_le (f k : Nat) : fadeInAtt f (k + 1) ≤ fadeInAtt f k := by
  by_cases h : k + 1 < f
  · rw [fadeInAtt_of_lt h, fadeInAtt_of_lt (Nat.lt_of_succ_lt h)]
    exact Nat.div_le_div_right (Nat.mul_le_mul_right _ (by omega))
  · rw [fadeInAtt_of_ge (Nat.le_of_not_lt h)]
    exact Nat.zero_le _

theorem fadeOutAtt_of_le {g m : Nat} (hm : 1 ≤ m) (h : m ≤ g) : fadeOutAtt g m = (g - m + 1) * 180 / g :=
  if_pos ⟨by omega, h⟩

theorem fadeOutAtt_of_gt {g m : Nat} (h : g < m) : fadeOutAtt g m = 0 := if_neg (by omega)

theorem fadeOutAtt_le {g m : Nat} (hm : 1 ≤ m) : fadeOutAtt g m ≤ 180 := by
  by_cases h : m ≤ g
  · rw [fadeOutAtt_of_le hm h]
    exact Nat.div_le_of_le_mul (Nat.mul_le_mul_right _ (by omega))
  · rw [fadeOutAtt_of_gt (by omega)]
    exact Nat.zero_le _

theorem fadeOutAtt_one {g : Nat} (h : 1 ≤ g) : fadeOutAtt g 1 = 180 := by
  rw [fadeOutAtt_of_le (Nat.le_refl 1) h, Nat.sub_add_cancel h, Nat.mul_div_cancel_left _ h]

theorem fadeOutAtt_succ_le {g m : Nat} (hm : 1 ≤ m) : fadeOutAtt g (m + 1) ≤ fadeOutAtt g m := by
  by_cases h : m + 1 ≤ g
  · rw [fadeOutAtt_of_le (by omega) h, fadeOutAtt_of_le hm (by omega)]
    exact Nat.div_le_div_right (Nat.mul_le_mul_right _ (by omega))
  · rw [fadeOutAtt_of_gt (by omega)]
    exact Nat.zero_le _

theorem stopFadeAtt_le {h j : Nat} (hj : j ≤ h) : stopFadeAtt h j ≤ 180 :=
  Nat.div_le_of_le_mul (Nat.mul_le_mul_right _ hj)

theorem stopFadeAtt_end {h : Nat} (hh : 1 ≤ h) : stopFadeAtt h h = 180 := Nat.mul_div_cancel_left _ hh

theorem stopFadeAtt_le_succ (h j : Nat) : stopFadeAtt h j ≤ stopFadeAtt h (j + 1) :=
  Nat.div_le_div_right (Nat.mul_le_mul_right _ (Nat.le_succ j))

/-! ### The fade of a tick -/

/-- The play in progress is the entry's last: after a BREAK, in a trailing entry, or at its last number (R4, R83). -/
def Track.inLastPlay (x : Track) (c : Copy) : Bool :=
  x.lastPlay || c.trailing || (c.entry.plays ≠ 0 && x.playNumber = c.entry.plays.toNat)

theorem Track.inLastPlay_iff (x : Track) (c : Copy) : x.inLastPlay c = true ↔
    x.lastPlay = true ∨ c.trailing = true ∨ (c.entry.plays ≠ 0 ∧ x.playNumber = c.entry.plays.toNat) := by
  simp only [Track.inLastPlay, Bool.or_eq_true, Bool.and_eq_true, decide_eq_true_eq, or_assoc]

/-- The ramp of a stop fade, 0 without one (R84). -/
def Track.stopRamp (x : Track) : Nat :=
  match x.state, x.stop with
  | .stopping, .fade h => stopFadeAtt h x.stopFade
  | _, _ => 0

theorem Track.stopRamp_fades {x : Track} {h : Nat} (hstate : x.state = .stopping) (hstop : x.stop = .fade h) :
    x.stopRamp = stopFadeAtt h x.stopFade := by
  unfold Track.stopRamp
  rw [hstate, hstop]

theorem Track.stopRamp_cases (x : Track) :
    x.stopRamp = 0 ∨ ∃ h, x.state = .stopping ∧ x.stop = .fade h ∧ x.stopRamp = stopFadeAtt h x.stopFade := by
  by_cases hfades : x.state = .stopping ∧ ∃ h, x.stop = .fade h
  · obtain ⟨hstate, h, hstop⟩ := hfades
    exact .inr ⟨h, hstate, hstop, x.stopRamp_fades hstate hstop⟩
  · refine .inl ?_
    unfold Track.stopRamp
    split
    next h hstate hstop => exact absurd ⟨hstate, h, hstop⟩ hfades
    · rfl

/-- The fade is the largest of the three ramps, each where it applies. -/
theorem Track.fade_eq (x : Track) (c : Copy) : x.fade c =
    max (if x.playNumber = 1 then fadeInAtt c.entry.fadeIn.toNat x.block else 0)
      (max (if x.inLastPlay c then fadeOutAtt c.entry.fadeOut.toNat (c.length - x.block) else 0) x.stopRamp) := rfl

/-! ### Gain (R85, R86) -/

theorem gainOf_of_le {a : Nat} (h : a ≤ 180) : gainOf a = gainTable.getD (a % 12) 0 / 2 ^ (a / 12) := if_pos h

theorem gainOf_of_gt {a : Nat} (h : 180 < a) : gainOf a = 0 := if_neg (by omega)

theorem gainOf_octave {r s : Nat} (hr : r < 12) (h : 12 * s + r ≤ 180) : gainOf (12 * s + r) = gainOf r / 2 ^ s := by
  have hmod : (12 * s + r) % 12 = r := by omega
  have hdiv : (12 * s + r) / 12 = s := by omega
  rw [gainOf_of_le h, gainOf_of_le (by omega : r ≤ 180), hmod, hdiv, Nat.mod_eq_of_lt hr, Nat.div_eq_of_lt hr, Nat.pow_zero,
    Nat.div_one]

/-- One hd more never gains: the table falls within an octave, and its last entry is above half the first. -/
theorem gainOf_succ_le (a : Nat) : gainOf (a + 1) ≤ gainOf a := by
  by_cases h : a < 180
  · have htable : ∀ r < 11, gainOf (r + 1) ≤ gainOf r := by decide
    have hhalf : gainOf 0 / 2 ≤ gainOf 11 := by decide
    obtain ⟨s, r, hr, rfl⟩ : ∃ s r, r < 12 ∧ a = 12 * s + r := ⟨a / 12, a % 12, by omega, by omega⟩
    rw [gainOf_octave hr (by omega)]
    by_cases hlast : r < 11
    · rw [Nat.add_assoc, gainOf_octave (by omega) (by omega)]
      exact Nat.div_le_div_right (htable r hlast)
    · obtain rfl : r = 11 := by omega
      have hnext : 12 * s + 11 + 1 = 12 * (s + 1) + 0 := by omega
      rw [hnext, gainOf_octave (by omega) (by omega), Nat.pow_succ', ← Nat.div_div_eq_div_mul]
      exact Nat.div_le_div_right hhalf
  · rw [gainOf_of_gt (by omega)]
    exact Nat.zero_le _

theorem gainOf_antitone : Antitone gainOf := antitone_nat_of_succ_le gainOf_succ_le

theorem gainOf_eq_zero_iff (a : Nat) : gainOf a = 0 ↔ 180 < a := by
  refine ⟨fun hzero => Nat.lt_of_not_le fun hle => ?_, gainOf_of_gt⟩
  have hleast : gainOf 180 ≤ gainOf a := gainOf_antitone hle
  have hone : gainOf 180 = 1 := by decide
  omega

end Sys2Proof.Machine

namespace Sys2Proof.Proofs.FadesAndGain

open Sys2Proof Sys2Proof.Machine

/-- The fade's bounds and the ramp it takes. -/
theorem fade_follows {x : Track} {c : Copy} (hblock : x.block < c.length) (hstop : ∀ h, x.stop = .fade h → x.stopFade ≤ h) :
    x.fade c ≤ 180 ∧ (x.playNumber = 1 → fadeInAtt c.entry.fadeIn.toNat x.block ≤ x.fade c) ∧
      (x.inLastPlay c = true → fadeOutAtt c.entry.fadeOut.toNat (c.length - x.block) ≤ x.fade c) ∧
      (∀ h, x.state = .stopping → x.stop = .fade h → stopFadeAtt h x.stopFade ≤ x.fade c) ∧
      (x.fade c = 0 ∨ (x.playNumber = 1 ∧ x.fade c = fadeInAtt c.entry.fadeIn.toNat x.block) ∨
        (x.inLastPlay c = true ∧ x.fade c = fadeOutAtt c.entry.fadeOut.toNat (c.length - x.block)) ∨
        ∃ h, x.state = .stopping ∧ x.stop = .fade h ∧ x.fade c = stopFadeAtt h x.stopFade) := by
  have hin := fadeInAtt_le c.entry.fadeIn.toNat x.block
  have hout : fadeOutAtt c.entry.fadeOut.toNat (c.length - x.block) ≤ 180 := fadeOutAtt_le (by omega)
  have hramp : x.stopRamp ≤ 180 := by
    obtain h | ⟨h, -, hfade, heq⟩ := x.stopRamp_cases
    · omega
    · rw [heq]
      exact stopFadeAtt_le (hstop h hfade)
  have hramps := x.fade_eq c
  generalize fadeInAtt c.entry.fadeIn.toNat x.block = fin at *
  generalize fadeOutAtt c.entry.fadeOut.toNat (c.length - x.block) = fout at *
  refine ⟨?_, fun hfirst => ?_, fun hlast => ?_, fun h hstate hfade => ?_, ?_⟩
  · rw [hramps]
    split_ifs <;> omega
  · rw [hramps, if_pos hfirst]
    exact Nat.le_max_left _ _
  · rw [hramps, if_pos hlast]
    omega
  · rw [hramps, x.stopRamp_fades hstate hfade]
    omega
  · have hstopped : x.fade c = x.stopRamp → x.fade c = 0 ∨
        ∃ h, x.state = .stopping ∧ x.stop = .fade h ∧ x.fade c = stopFadeAtt h x.stopFade := fun heq =>
      x.stopRamp_cases.imp (heq.trans ·) fun ⟨h, hstate, hfade, hramp⟩ => ⟨h, hstate, hfade, heq.trans hramp⟩
    obtain hmax | hmax := max_choice (if x.playNumber = 1 then fin else 0)
      (max (if x.inLastPlay c then fout else 0) x.stopRamp)
    · rw [hmax] at hramps
      split at hramps
      next hfirst => exact .inr (.inl ⟨hfirst, hramps⟩)
      · exact .inl hramps
    · rw [hmax] at hramps
      obtain hmax | hmax := max_choice (if x.inLastPlay c then fout else 0) x.stopRamp
      · rw [hmax] at hramps
        split at hramps
        next hlast => exact .inr (.inr (.inl ⟨hlast, hramps⟩))
        · exact .inl hramps
      · obtain hzero | hfades := hstopped (hramps.trans hmax)
        · exact .inl hzero
        · exact .inr (.inr (.inr hfades))

/-- Settles O34. -/
theorem fadesAndGainFollowTheirRamps : Obligations.FadesAndGainFollowTheirRamps := by
  unfold Obligations.FadesAndGainFollowTheirRamps
  refine ⟨fun f k => ⟨fadeInAtt_of_lt, fadeInAtt_of_ge, fadeInAtt_zero, fadeInAtt_succ_le f k⟩,
    fun g m hm => ⟨fadeOutAtt_of_le hm, fadeOutAtt_of_gt, fadeOutAtt_one, fadeOutAtt_succ_le hm⟩,
    fun h j hh => ⟨fun _ _ => rfl, stopFadeAtt_end hh, stopFadeAtt_le_succ h j⟩, fun x c hblock hstop => ?_,
    fun s x c f => ⟨fun hclip => ?_, fun i hclip => ?_⟩, fun r s => gainOf_octave, by decide,
    fun a b h => gainOf_antitone h, gainOf_eq_zero_iff⟩
  · intro last fadeIn fadeOut
    have hfollows := fade_follows hblock hstop
    rwa [Track.inLastPlay_iff] at hfollows
  · unfold State.feedGain State.feedShort State.feedBase
    rw [hclip]
    exact ⟨rfl, rfl⟩
  · intro sum total heard
    have hbase : s.feedBase x c.entry f = some sum := by
      rw [State.feedBase, hclip]
      rfl
    have hheard : x.heard = true ↔ heard := by
      simp only [Track.heard, heard, Bool.and_eq_true, Bool.or_eq_true, decide_eq_true_eq]
    have htotal : levelBase sum + x.fade c + (s.port f.port).backoff = total := by
      have hbase : sum.toNat = (max sum 0).toNat := by omega
      rw [levelBase, hbase]
    unfold State.feedGain State.feedShort
    rw [hbase]
    dsimp only
    refine ⟨decide_eq_true_iff, ?_⟩
    rw [htotal]
    by_cases hsounds : heard
    · rw [if_pos (hheard.mpr hsounds)]
      by_cases hle : total ≤ 180
      · rw [if_pos ⟨hsounds, hle⟩]
      · rw [if_neg fun h => hle h.2, gainOf_of_gt (by omega)]
    · rw [if_neg (fun h => hsounds (hheard.mp h)), if_neg fun h => hsounds h.1]

end Sys2Proof.Proofs.FadesAndGain
end

section
/-! PROOFS. Scaling, interpolation, clamp, NCO word and rotation (chapter 04, R87 to R94): O35. -/

namespace Sys2Proof

/-- A sample within 16 bits. -/
def Sample.stored (z : Sample) : Prop := -32768 ≤ z.i ∧ z.i ≤ 32767 ∧ -32768 ≤ z.q ∧ z.q ≤ 32767

end Sys2Proof

namespace Sys2Proof.Machine

/-! ### Scaling (R87) -/

theorem scaleComponent_nearest (g : Nat) (x : Int) :
    32768 * scaleComponent g x ≤ x * g + 16384 ∧ x * g + 16384 < 32768 * scaleComponent g x + 32768 := by
  unfold scaleComponent
  generalize x * (g : Int) = p
  omega

theorem scaleComponent_range {g : Nat} {x : Int} (hg : g ≤ 32768) (hlo : -32768 ≤ x) (hhi : x ≤ 32767) :
    -32768 ≤ scaleComponent g x ∧ scaleComponent g x ≤ 32767 := by
  have hlower : -32768 * 32768 ≤ x * g := by nlinarith
  have hupper : x * g ≤ 32767 * 32768 := by nlinarith
  have hnear := scaleComponent_nearest g x
  generalize x * (g : Int) = p at *
  omega

theorem scaleComponent_unit (x : Int) : scaleComponent 32768 x = x := by
  unfold scaleComponent
  omega

theorem scaleComponent_mute (x : Int) : scaleComponent 0 x = 0 := by
  unfold scaleComponent
  omega

theorem scaleComponent_zero (g : Nat) : scaleComponent g 0 = 0 := by
  unfold scaleComponent
  omega

/-! ### Interpolation (R88) -/

theorem allZero_iff (xs : List Sample) : allZero xs = true ↔ ∀ z ∈ xs, z = ⟨0, 0⟩ := by
  unfold allZero
  simp only [List.all_eq_true, decide_eq_true_eq]
  rfl

/-- The samples held shape nothing any more. -/
def heldSpent (hd : Nat) (held : List Sample) (n : Nat) : Bool := delayOf hd ≤ n || allZero held

theorem heldSpent_iff (hd : Nat) (held : List Sample) (n : Nat) :
    heldSpent hd held n = true ↔ delayOf hd ≤ n ∨ ∀ z ∈ held, z = ⟨0, 0⟩ := by
  rw [heldSpent, Bool.or_eq_true, decide_eq_true_eq, allZero_iff]

/-- What the interpolator makes freely, within 16 bits (log entry 13). -/
def interpolatedFree (hd : Nat) (held : List Sample) (td : Nat) (taken : List Sample) (n : Nat) : Sample :=
  let y := Config.interpolate hd held td taken n
  ⟨clampTo (-32768) 32767 y.i, clampTo (-32768) 32767 y.q⟩

theorem clampTo_range (v : Int) : -32768 ≤ clampTo (-32768) 32767 v ∧ clampTo (-32768) 32767 v ≤ 32767 := by
  obtain ⟨habove, hbelow, hwithin⟩ := clampTo_spec v
  by_cases hhi : 32767 < v
  · rw [habove hhi]
    decide
  · by_cases hlo : v < -32768
    · rw [hbelow hlo]
      decide
    · rw [hwithin (by omega)]
      omega

theorem interpolatedFree_stored (hd : Nat) (held : List Sample) (td : Nat) (taken : List Sample) (n : Nat) :
    (interpolatedFree hd held td taken n).stored :=
  ⟨(clampTo_range _).1, (clampTo_range _).2, clampTo_range _⟩

theorem interpolated_eq (hd : Nat) (held : List Sample) (td : Nat) (taken : List Sample) (n : Nat) :
    interpolated hd held td taken n =
      if heldSpent hd held n && td = 1 then taken.getD n ⟨0, 0⟩
      else if heldSpent hd held n && (n < delayOf td || allZero taken) then ⟨0, 0⟩
      else interpolatedFree (if heldSpent hd held n then td else hd) (if heldSpent hd held n then [] else held) td
        (if n < delayOf td then [] else taken) n := rfl

section Interpolated

variable {hd td n : Nat} {held taken : List Sample}

/-- At D = 1 the samples that nothing else shapes pass. -/
theorem interpolated_passes (hspent : heldSpent hd held n = true) (htd : td = 1) :
    interpolated hd held td taken n = taken.getD n ⟨0, 0⟩ := by
  rw [interpolated_eq, hspent]
  exact if_pos (decide_eq_true htd)

/-- A sample that only zeros shape is zero. -/
theorem interpolated_zero (hspent : heldSpent hd held n = true) (h : n < delayOf td ∨ ∀ z ∈ taken, z = ⟨0, 0⟩) :
    interpolated hd held td taken n = ⟨0, 0⟩ := by
  by_cases htd : td = 1
  · rw [interpolated_passes hspent htd]
    obtain hdelay | hzeros := h
    · rw [htd] at hdelay
      exact absurd hdelay (Nat.not_lt_zero n)
    · rw [List.getD_eq_getElem?_getD]
      cases hn : taken[n]? with
      | none => rfl
      | some z => exact hzeros z (List.mem_of_getElem? hn)
  · have hshapes : (n < delayOf td || allZero taken) = true := by
      rwa [Bool.or_eq_true, decide_eq_true_eq, allZero_iff]
    rw [interpolated_eq, hspent, if_neg (by simpa using htd), Bool.true_and]
    exact if_pos hshapes

theorem interpolated_stored (htaken : ∀ z ∈ taken, z.stored) : (interpolated hd held td taken n).stored := by
  have hzero : Sample.stored ⟨0, 0⟩ := by
    unfold Sample.stored
    decide
  rw [interpolated_eq]
  split
  · rw [List.getD_eq_getElem?_getD]
    cases hn : taken[n]? with
    | none => exact hzero
    | some z => exact htaken z (List.mem_of_getElem? hn)
  · split
    · exact hzero
    · exact interpolatedFree_stored ..

/-- Before its delay the block taken shapes nothing. -/
theorem interpolated_delayed (h : n < delayOf td) (other : List Sample) :
    interpolated hd held td other n = interpolated hd held td taken n := by
  have htd : td ≠ 1 := by
    rintro rfl
    exact Nat.not_lt_zero n h
  rw [interpolated_eq, interpolated_eq, if_pos h, if_pos h, decide_eq_true h, decide_eq_false htd, Bool.and_false,
    Bool.true_or, Bool.true_or]
  rfl

/-- From their delay on the samples held and their D shape nothing. -/
theorem interpolated_spent (h : delayOf hd ≤ n) {hd' : Nat} {held' : List Sample} (h' : delayOf hd' ≤ n) :
    interpolated hd' held' td taken n = interpolated hd held td taken n := by
  rw [interpolated_eq, interpolated_eq, (heldSpent_iff ..).mpr (.inl h), (heldSpent_iff ..).mpr (.inl h')]
  rfl

end Interpolated

/-! ### NCO word and angle (R92 to R94) -/

theorem ncoWord_toNat {f : Nat} (h : f ≤ 15875000) : (ncoWord f).toNat = (f * 131072 + 625) / 1250 := by
  have hword : ncoWord f = BitVec.ofNat 32 (wordMagnitude f) := if_pos (Int.natCast_nonneg f)
  have hmagnitude : wordMagnitude f = (f * 131072 + 625) / 1250 := by
    unfold wordMagnitude
    rw [Nat.mul_assoc]
  rw [hword, BitVec.toNat_ofNat, hmagnitude, Nat.mod_eq_of_lt (by omega)]

theorem ncoWord_neg (f : Nat) : ncoWord (-(f : Int)) = -ncoWord f := by
  by_cases hzero : f = 0
  · subst hzero
    decide
  · have hneg : ¬ 0 ≤ -(f : Int) := by omega
    rw [ncoWord, if_neg hneg, ncoWord, if_pos (Int.natCast_nonneg f), Int.natAbs_neg]

theorem turnAt_zero (acc word : BitVec 32) (phase : BitVec 16) : turnAt acc word phase 0 = acc + (phase ++ 0#16) := by
  have hphase : BitVec.ofNat 32 (phase.toNat * 65536) = phase ++ 0#16 := by
    refine BitVec.eq_of_toNat_eq ?_
    rw [BitVec.toNat_append, BitVec.toNat_ofNat, Nat.mod_eq_of_lt (by omega), BitVec.toNat_ofNat, Nat.zero_mod, Nat.or_zero,
      Nat.shiftLeft_eq]
  rw [turnAt, hphase]
  simp

theorem turnAt_succ (acc word : BitVec 32) (phase : BitVec 16) (n : Nat) :
    turnAt acc word phase (n + 1) = turnAt acc word phase n + word := by
  unfold turnAt
  rw [BitVec.ofNat_add, BitVec.add_mul, BitVec.one_mul]
  ac_rfl

/-! ### Rotation (R94) -/

theorem rotated_kept {y : Sample} (h : y.stored) (turn : BitVec 32) :
    keepsMagnitude y (rotated y turn) = true ∧ rotatedInRange (rotated y turn) = true := by
  unfold rotated
  dsimp only
  split
  next hkept =>
    rw [Bool.and_eq_true, Bool.and_eq_true] at hkept
    exact hkept.1
  · exact idealRotation_kept y turn h

/-- No distance, or the distance log entry 14 leaves. -/
theorem rotated_follows (y : Sample) (turn : BitVec 32) (hpower : 0 ≤ samplePower y) :
    followsRotation y (rotated y turn) turn = true := by
  unfold rotated
  dsimp only
  split
  next hkept =>
    rw [Bool.and_eq_true, Bool.and_eq_true] at hkept
    exact hkept.2
  · unfold followsRotation
    simp only [sub_self, samplePower, mul_zero, add_zero, zero_mul, decide_eq_true_eq]
    unfold samplePower at hpower
    omega

/-- At quarter turns the formula of R94 turns exactly. -/
theorem formulaOf_quarters (y : Sample) {turn : BitVec 32} (hturn : beyondQuarters turn = 0) :
    formulaOf y turn = quarterTurns (quartersOf turn) y := by
  have hcos : cosine (radians 0) = unity := by decide +kernel
  have hsin : sine (radians 0) = 0 := by decide +kernel
  have hwhole (v : Int) : nearestWhole (v * unity) = v := by
    unfold nearestWhole unity
    omega
  unfold formulaOf exactRotation
  dsimp only
  rw [hturn, hcos, hsin, mul_zero, mul_zero, sub_zero, zero_add, hwhole, hwhole]

theorem idealRotation_quarters {y : Sample} (h : y.stored) {turn : BitVec 32} (hturn : beyondQuarters turn = 0) :
    idealRotation y turn = quarterTurns (quartersOf turn) y := by
  have hkept := quarterTurns_kept (quartersOf turn) y h
  unfold idealRotation
  rw [formulaOf_quarters y hturn]
  generalize quarterTurns (quartersOf turn) y = w at hkept ⊢
  have hwindow : keptAround y w 0 = [w] := by
    have hone : window w 0 = [w] := by
      simp [window]
    rw [keptAround, hone, List.filter_singleton]
    simp [hkept]
  have hfound : keptWindow y w = some 0 := by
    unfold keptWindow
    rw [List.find?_cons, hwindow]
    rfl
  dsimp only
  rw [hfound]
  dsimp only
  rw [Nat.mul_zero, hwindow]
  rfl

theorem quarters_of_turns {q : Nat} (h : q < 4) :
    quartersOf (BitVec.ofNat 32 (q * 2 ^ 30)) = q ∧ beyondQuarters (BitVec.ofNat 32 (q * 2 ^ 30)) = 0 := by
  unfold quartersOf beyondQuarters
  rw [BitVec.toNat_ofNat]
  omega

end Sys2Proof.Machine

namespace Sys2Proof.Proofs.ScalingAndRotation

open Sys2Proof Sys2Proof.Machine

theorem interpolation (hd td n : Nat) (held taken : List Sample) (htaken : ∀ z ∈ taken, z.stored) :
    let spent := delayOf hd ≤ n ∨ ∀ z ∈ held, z = ⟨0, 0⟩
    (interpolated hd held td taken n).stored ∧
      (spent → td = 1 → interpolated hd held td taken n = taken.getD n ⟨0, 0⟩) ∧
      (spent → n < delayOf td ∨ (∀ z ∈ taken, z = ⟨0, 0⟩) → interpolated hd held td taken n = ⟨0, 0⟩) ∧
      (n < delayOf td → ∀ other, interpolated hd held td other n = interpolated hd held td taken n) ∧
      (delayOf hd ≤ n → ∀ hd' held', delayOf hd' ≤ n →
        interpolated hd' held' td taken n = interpolated hd held td taken n) :=
  ⟨interpolated_stored htaken, fun h => interpolated_passes ((heldSpent_iff ..).mpr h),
    fun h => interpolated_zero ((heldSpent_iff ..).mpr h), interpolated_delayed,
    fun h _ _ h' => interpolated_spent h h'⟩

theorem clamp {limit : Int} (offset detune : Int) (hlimit : 0 ≤ limit) :
    (limit < offset + detune → offset + clampDetune limit offset detune = limit) ∧
      (offset + detune < -limit → offset + clampDetune limit offset detune = -limit) ∧
      (-limit ≤ offset + detune → offset + detune ≤ limit → clampDetune limit offset detune = detune) ∧
      (clampActs limit offset detune = true ↔ limit < offset + detune ∨ offset + detune < -limit) := by
  unfold clampDetune
  refine ⟨fun habove => ?_, fun hbelow => ?_, fun hlo hhi => ?_, ?_⟩
  · rw [if_pos habove]
    omega
  · rw [if_neg (by omega), if_pos hbelow]
    omega
  · rw [if_neg (by omega), if_neg (by omega)]
  · rw [clampActs, Bool.or_eq_true, decide_eq_true_eq, decide_eq_true_eq]

theorem word {f : Nat} (h : f ≤ 15875000) :
    2 * (f * 65536 - 625 * (ncoWord f).toNat : Int).natAbs < 625 ∧ (ncoWord f).toNat ≤ 1664614400 ∧
      ncoWord (-(f : Int)) = -ncoWord f := by
  rw [ncoWord_toNat h]
  exact ⟨by omega, by omega, ncoWord_neg f⟩

theorem rotation {y : Sample} (turn : BitVec 32) (h : y.stored) :
    let z := rotated y turn
    (-46341 ≤ z.i ∧ z.i ≤ 46341 ∧ -46341 ≤ z.q ∧ z.q ≤ 46341) ∧
      samplePower y * 997700063823 ≤ samplePower z * 1000000000000 ∧
      samplePower z * 1000000000000 ≤ samplePower y * 1002305238077 := by
  intro z
  obtain ⟨hmagnitude, hrange⟩ := rotated_kept h turn
  rw [keepsMagnitude, Bool.and_eq_true, decide_eq_true_eq, decide_eq_true_eq] at hmagnitude
  rw [rotatedInRange, Bool.and_eq_true, inRange_iff, inRange_iff, and_assoc] at hrange
  exact ⟨hrange, hmagnitude⟩

/-- A quarter-turn rotation lies by the sample turned exactly. -/
theorem quarterRotation {y : Sample} {q : Nat} (h : y.stored) (hq : q < 4) :
    let z := rotated y (BitVec.ofNat 32 (q * 2 ^ 30))
    let w := quarterTurns q y
    samplePower ⟨z.i - w.i, z.q - w.q⟩ * 1000000 ≤ samplePower y * 6 + 8000000 := by
  intro z w
  obtain ⟨hquarters, hbeyond⟩ := quarters_of_turns hq
  have hfollows := rotated_follows y (BitVec.ofNat 32 (q * 2 ^ 30))
    (add_nonneg (mul_self_nonneg y.i) (mul_self_nonneg y.q))
  unfold followsRotation at hfollows
  rw [idealRotation_quarters h hbeyond, hquarters] at hfollows
  exact of_decide_eq_true hfollows

theorem quarterTurns_eq {q : Nat} (hq : q < 4) (y : Sample) : quarterTurns q y =
    if q = 0 then y else if q = 1 then ⟨-y.q, y.i⟩ else if q = 2 then ⟨-y.i, -y.q⟩ else ⟨y.q, -y.i⟩ := by
  have hcases : q = 0 ∨ q = 1 ∨ q = 2 ∨ q = 3 := by omega
  obtain rfl | rfl | rfl | rfl := hcases <;> simp [quarterTurns]

/-- Settles O35. -/
theorem scalingClampAndWord : Obligations.ScalingClampAndWord := by
  unfold Obligations.ScalingClampAndWord
  intro within stored power
  refine ⟨fun g x hg hlo hhi => ?_, interpolation, by decide, by decide, fun limit offset detune => clamp offset detune,
    fun f => word, fun acc w phase n => ⟨turnAt_zero acc w phase, turnAt_succ acc w phase n⟩, fun y turn => rotation turn,
    fun y q h hq => ?_⟩
  · obtain ⟨hfloor, hceil⟩ := scaleComponent_nearest g x
    obtain ⟨hmin, hmax⟩ := scaleComponent_range hg hlo hhi
    exact ⟨hfloor, hceil, hmin, hmax, fun h => h ▸ scaleComponent_unit x, fun h => h ▸ scaleComponent_mute x,
      fun h => h ▸ scaleComponent_zero g⟩
  · intro z w
    have hw : w = quarterTurns q y := (quarterTurns_eq hq y).symm
    rw [hw]
    exact quarterRotation h hq

end Sys2Proof.Proofs.ScalingAndRotation
end

section
/-! PROOFS. The level unit computes its feeds (chapter 04, R79, R87, R88, R94, R99): O36. Each feed acts on its own port
and its own interpolator, and the feeds of a list name different ports. -/

namespace Sys2Proof.Machine

/-! ### One feed -/

/-- The decimation at which a feed takes its block: that of the entry's clip, or of what its interpolator holds. -/
def State.feedD (s : State) (tr : Track) (c : Copy) (f : Feed) : Nat := (s.entryD c.entry).getD (tr.interp f.port).inUse

/-- The block a feed takes, scaled (R79, R87). -/
def State.feedTaken (s : State) (tr : Track) (c : Copy) (data : Option (List Byte)) (f : Feed) : List Sample :=
  (blockSamples (s.feedD tr c f) data).map (scaleSample (s.feedGain tr c f))

/-- Port sample `n` of a feed (R88, R94). -/
def State.feedSample (s : State) (tr : Track) (c : Copy) (word : BitVec 32) (data : Option (List Byte)) (f : Feed)
    (n : Nat) : Sample :=
  rotated (interpolated (tr.interp f.port).inUse (tr.interp f.port).held (s.feedD tr c f) (s.feedTaken tr c data f) n)
    (turnAt tr.nco word f.phase n)

/-- A port that has taken a feed's samples. -/
def Port.fed (p : Port) (out : Nat → Sample) : Port :=
  { p with feeds := p.feeds + 1, sum := addSamples p.sum ((List.range 4096).map out) }

section Feeds

variable {t : TrackId} {tr : Track} {c : Copy} {word : BitVec 32} {data : Option (List Byte)}

theorem computeFeed_port (s : State) (f : Feed) (p : PortId) :
    (computeFeed t tr c word data s f).port p =
      if f.port = p then (s.port f.port).fed (s.feedSample tr c word data f) else s.port p := by
  unfold computeFeed
  dsimp only
  rw [State.modTrack_port]
  exact State.modPort_port s f.port p fun x => x.fed (s.feedSample tr c word data f)

theorem computeFeed_interps (s : State) (f : Feed) (p : PortId) :
    ((computeFeed t tr c word data s f).track t).interps[p] =
      if f.port = p then some { held := s.feedTaken tr c data f, inUse := s.feedD tr c f }
      else (s.track t).interps[p] := by
  unfold computeFeed
  dsimp only
  rw [State.modTrack_track_same]
  by_cases h : f.port = p
  · subst h
    rw [if_pos rfl]
    exact Vector.getElem_set_self _
  · rw [if_neg h]
    exact Vector.getElem_set_ne f.port.2 p.2 fun heq => h (Fin.ext heq)

theorem computeFeed_store (s : State) (f : Feed) : (computeFeed t tr c word data s f).store = s.store := rfl

/-- A feed is computed from the store and its own port. -/
theorem feedTaken_congr {s u : State} {f : Feed} (hstore : u.store = s.store) (hport : u.port f.port = s.port f.port) :
    u.feedD tr c f = s.feedD tr c f ∧ u.feedTaken tr c data f = s.feedTaken tr c data f ∧
      u.feedSample tr c word data f = s.feedSample tr c word data f := by
  have hclip (i : ClipId) : u.clip i = s.clip i := by rw [State.clip, hstore, State.clip]
  have hd : u.feedD tr c f = s.feedD tr c f := by simp only [State.feedD, State.entryD, hclip]
  have hgain : u.feedGain tr c f = s.feedGain tr c f := by
    unfold State.feedGain State.feedBase
    simp only [hclip, hport]
  have htaken : u.feedTaken tr c data f = s.feedTaken tr c data f := by rw [State.feedTaken, hd, hgain, State.feedTaken]
  exact ⟨hd, htaken, by funext n; rw [State.feedSample, hd, htaken, State.feedSample]⟩

/-- A port no feed names. -/
theorem computeFeeds_unfed (fs : List Feed) (s : State) {p : PortId} (hp : p ∉ fs.map Feed.port) :
    (forEach fs (computeFeed t tr c word data) s).port p = s.port p ∧
      ((forEach fs (computeFeed t tr c word data) s).track t).interps[p] = (s.track t).interps[p] := by
  induction fs generalizing s with
  | nil => exact ⟨rfl, rfl⟩
  | cons f r ih =>
    obtain ⟨hf, hr⟩ := List.ne_and_not_mem_of_not_mem_cons hp
    obtain ⟨hport, hinterps⟩ := ih (computeFeed t tr c word data s f) hr
    rw [computeFeed_port, if_neg (Ne.symm hf)] at hport
    rw [computeFeed_interps, if_neg (Ne.symm hf)] at hinterps
    exact ⟨hport, hinterps⟩

/-- The port and the interpolator of each feed. -/
theorem computeFeeds_fed {fs : List Feed} (s : State) (hnodup : (fs.map Feed.port).Nodup) {f : Feed} (hf : f ∈ fs) :
    (forEach fs (computeFeed t tr c word data) s).port f.port = (s.port f.port).fed (s.feedSample tr c word data f) ∧
      ((forEach fs (computeFeed t tr c word data) s).track t).interps[f.port] =
        some { held := s.feedTaken tr c data f, inUse := s.feedD tr c f } := by
  induction fs generalizing s with
  | nil => cases hf
  | cons g r ih =>
    obtain ⟨hg, hr⟩ := List.nodup_cons.mp hnodup
    have hstep (p : PortId) := computeFeed_port (t := t) (tr := tr) (c := c) (word := word) (data := data) s g p
    obtain rfl | hfr := List.mem_cons.mp hf
    · obtain ⟨hport, hinterps⟩ := computeFeeds_unfed (t := t) (tr := tr) (c := c) (word := word) (data := data) r
        (computeFeed t tr c word data s f) hg
      rw [computeFeed_port, if_pos rfl] at hport
      rw [computeFeed_interps, if_pos rfl] at hinterps
      exact ⟨hport, hinterps⟩
    · have hother : g.port ≠ f.port := fun h => hg (h ▸ List.mem_map_of_mem hfr)
      obtain ⟨hport, hinterps⟩ := ih (computeFeed t tr c word data s g) hr hfr
      have hown := hstep f.port
      rw [if_neg hother] at hown
      obtain ⟨hd, htaken, hsample⟩ := feedTaken_congr (tr := tr) (c := c) (word := word) (data := data)
        (computeFeed_store (t := t) (tr := tr) (c := c) (word := word) (data := data) s g) hown
      rw [hown, hsample] at hport
      rw [hd, htaken] at hinterps
      exact ⟨hport, hinterps⟩

end Feeds

/-! ### Samples added -/

theorem addSamples_getD (xs ys : List Sample) (n : Nat) (h : n < ys.length) :
    (addSamples xs ys).getD n ⟨0, 0⟩ =
      ⟨(xs.getD n ⟨0, 0⟩).i + (ys.getD n ⟨0, 0⟩).i, (xs.getD n ⟨0, 0⟩).q + (ys.getD n ⟨0, 0⟩).q⟩ := by
  induction xs generalizing ys n with
  | nil => simp [addSamples]
  | cons x xs ih =>
    cases ys with
    | nil => cases h
    | cons y ys =>
      cases n with
      | zero => rfl
      | succ n => exact ih ys n (Nat.lt_of_succ_lt_succ h)

theorem Port.fed_sumAt (p : Port) (out : Nat → Sample) {n : Nat} (h : n < 4096) :
    ((p.fed out).sumAt n).i = (p.sumAt n).i + (out n).i ∧ ((p.fed out).sumAt n).q = (p.sumAt n).q + (out n).q := by
  have hadd := addSamples_getD p.sum ((List.range 4096).map out) n (by simpa using h)
  have hout : ((List.range 4096).map out).getD n ⟨0, 0⟩ = out n := by
    rw [List.getD_eq_getElem?_getD, List.getElem?_map, List.getElem?_range h]
    rfl
  rw [hout] at hadd
  exact ⟨(congrArg Sample.i hadd :), (congrArg Sample.q hadd :)⟩

/-! ### Causes in a notice record -/

/-- The record of source `n` carries cause `c`. -/
def State.shows (s : State) (n : SourceId) (c : Cause) : Bool :=
  ((s.notice n).map fun r => r.causes.getLsbD c.bit).getD false

theorem State.shows_raise_same (s : State) (n : SourceId) (c : Cause) : (s.raise n c).shows n c = true := by
  have hbit : c.bit < 16 := by cases c <;> decide
  unfold State.shows
  rw [State.raise_notice, if_pos rfl]
  cases s.notice n <;> simp [mergeCause, hbit]

theorem State.shows_raise_other (s : State) (n : SourceId) {c d : Cause} (h : c.bit ≠ d.bit) :
    (s.raise n d).shows n c = s.shows n c := by
  unfold State.shows
  rw [State.raise_notice, if_pos rfl]
  cases s.notice n <;> simp [mergeCause, BitVec.getLsbD_twoPow, Ne.symm h]

/-! ### The level unit's tick -/

theorem clampTrack_fed (t : TrackId) (e : CueEntry) (s : State) (p : PortId) :
    (clampTrack t e s).port p = s.port p ∧ ((clampTrack t e s).track t).interps = (s.track t).interps ∧
      (clampTrack t e s).shows (trackSource t) .short = s.shows (trackSource t) .short := by
  refine ⟨?_, by rw [clampTrack_own], ?_⟩
  · unfold clampTrack
    dsimp only
    split <;> rfl
  · unfold clampTrack
    dsimp only
    split
    · exact State.shows_raise_other _ _ (by decide)
    · rfl

/-- What the feeds of a tick leave of ports and interpolators. -/
def State.feedsComputed (s : State) (t : TrackId) (c : Copy) (data : Option (List Byte)) : State :=
  forEach (s.liveFeeds (s.track t)) (computeFeed t (s.track t) c ((s.track t).tickWord c) data)
    (s.setTrack t (s.track t).silent)

/-- The feeds are computed, and SHORT, the accumulator and the sweep have taken the tick's step; the clamp and the gate
have not. -/
def State.feedsSwept (s : State) (t : TrackId) (c : Copy) (data : Option (List Byte)) : State :=
  ((s.feedsComputed t c data).modTrack t fun x => { x with
    short := x.short || s.short (s.track t) c
    nco := x.nco + 4096 * (s.track t).tickWord c
    active := { x.active with detune := x.active.detune + x.active.sweep } }).raiseIf
      (s.short (s.track t) c) (trackSource t) .short

theorem levelTick_eq (t : TrackId) (c : Copy) (data : Option (List Byte)) (s : State) :
    levelTick t c data s = (clampTrack t c.entry (s.feedsSwept t c data)).modTrack t Track.advanceGate := rfl

theorem feedsSwept_fed (s : State) (t : TrackId) (c : Copy) (data : Option (List Byte)) (p : PortId) :
    (s.feedsSwept t c data).port p = (s.feedsComputed t c data).port p ∧
      ((s.feedsSwept t c data).track t).interps = ((s.feedsComputed t c data).track t).interps := by
  rw [State.feedsSwept, State.raiseIf_track, State.modTrack_track_same]
  exact ⟨raiseIf_field (fun u => u.port p) (fun _ _ => rfl) _ _ _ _, rfl⟩

theorem levelTick_fed (t : TrackId) (c : Copy) (data : Option (List Byte)) (s : State) (p : PortId) :
    (levelTick t c data s).port p = (s.feedsComputed t c data).port p ∧
      ((levelTick t c data s).track t).interps = ((s.feedsComputed t c data).track t).interps := by
  obtain ⟨hport, hinterps, -⟩ := clampTrack_fed t c.entry (s.feedsSwept t c data) p
  obtain ⟨hfed, hheld⟩ := feedsSwept_fed s t c data p
  rw [levelTick_eq, State.modTrack_port, State.modTrack_track_same, Track.advanceGate_eq]
  exact ⟨hport.trans hfed, hinterps.trans hheld⟩

theorem State.shows_raiseIf (s : State) (b : Bool) (n : SourceId) (c : Cause) :
    (s.raiseIf b n c).shows n c = (s.shows n c || b) := by
  unfold State.raiseIf
  cases b with
  | false => exact (Bool.or_false _).symm
  | true =>
    rw [if_pos rfl, State.shows_raise_same, Bool.or_true]

theorem levelTick_shows (t : TrackId) (c : Copy) (data : Option (List Byte)) (s : State) :
    (levelTick t c data s).shows (trackSource t) .short =
      (s.shows (trackSource t) .short || s.short (s.track t) c) := by
  have hstand : (s.feedsComputed t c data).notices = s.notices := forEach_keeps (s.liveFeeds (s.track t))
    (computeFeed t (s.track t) c ((s.track t).tickWord c) data) State.notices (fun _ _ => rfl) _
  have hshows : (s.feedsComputed t c data).shows (trackSource t) .short = s.shows (trackSource t) .short := by
    rw [State.shows, State.notice, hstand, State.shows, State.notice]
  rw [levelTick_eq]
  refine ((clampTrack_fed t c.entry (s.feedsSwept t c data) 0).2.2).trans ?_
  rw [State.feedsSwept, State.shows_raiseIf]
  exact congrArg (· || _) hshows

theorem liveFeeds_nodup {s : State} {tr : Track} (h : (tr.active.feeds.map Feed.port).Nodup) :
    ((s.liveFeeds tr).map Feed.port).Nodup :=
  h.sublist (List.filter_sublist.map _)

theorem mem_liveFeeds {s : State} {tr : Track} {f : Feed} :
    f ∈ s.liveFeeds tr ↔ f ∈ tr.active.feeds ∧ (s.port f.port).state ≠ .off := by
  rw [State.liveFeeds, List.mem_filter, decide_eq_true_eq]

theorem liveFeeds_any (s : State) (tr : Track) (p : Feed → Bool) :
    (s.liveFeeds tr).any p = tr.active.feeds.any fun f => (s.port f.port).state ≠ .off && p f :=
  List.any_filter

end Sys2Proof.Machine

namespace Sys2Proof.Proofs.LevelUnit

open Sys2Proof Sys2Proof.Machine

/-- Settles O36. -/
theorem levelUnitComputesFeeds : Obligations.LevelUnitComputesFeeds := by
  unfold Obligations.LevelUnitComputesFeeds
  intro s t c data x u word short bit hnodup
  obtain ⟨interps, hown⟩ := levelTick_own t c data s
  have hshort : s.short x c = short := liveFeeds_any s x _
  have hlive := liveFeeds_nodup (s := s) hnodup
  have hports (p : PortId) : (s.setTrack t x.silent).port p = s.port p := rfl
  refine ⟨levelTick_work t c data s, ?_, ?_, ?_, fun f hf hoff => ?_, fun p hp => ?_⟩
  · rw [hown]
    rfl
  · rw [hown, ← hshort]
  · rw [← hshort]
    exact levelTick_shows t c data s
  · intro old d block g scaled
    obtain ⟨hport, hinterps⟩ := levelTick_fed t c data s f.port
    obtain ⟨hfed, hheld⟩ := computeFeeds_fed (t := t) (tr := x) (c := c) (word := x.tickWord c) (data := data)
      (s.setTrack t x.silent) hlive (mem_liveFeeds.mpr ⟨hf, hoff⟩)
    obtain ⟨hd, htaken, hsample⟩ := feedTaken_congr (tr := x) (c := c) (word := x.tickWord c) (data := data) (f := f)
      (s := s) (u := s.setTrack t x.silent) rfl rfl
    have hdecimation : d = s.feedD x c f := by
      rw [State.feedD, State.entryD]
      dsimp only [d]
      cases c.entry.clip with
      | none => exact rfl
      | some i => exact rfl
    have hblock : block = blockSamples d data := by
      cases data with
      | none => exact rfl
      | some bytes => exact rfl
    have hscaled : scaled = s.feedTaken x c data f := by
      rw [State.feedTaken, ← hdecimation, ← hblock]
      rfl
    rw [hports, hsample] at hfed
    rw [hd, htaken] at hheld
    refine ⟨?_, ?_, fun n hn => ?_⟩
    · rw [hscaled, hdecimation]
      exact (congrArg (fun v : Vector (Option Interp) 4 => v[f.port]) hinterps).trans hheld
    · exact (congrArg Port.feeds (hport.trans hfed) :)
    · have hsum := (s.port f.port).fed_sumAt (s.feedSample x c (x.tickWord c) data f) hn
      have hu : u.port f.port = (s.port f.port).fed (s.feedSample x c (x.tickWord c) data f) := hport.trans hfed
      intro z
      have hz : z = s.feedSample x c (x.tickWord c) data f n := by
        rw [State.feedSample, ← hdecimation, ← hscaled]
        rfl
      rw [hu, hz]
      exact hsum
  · obtain ⟨hport, hinterps⟩ := levelTick_fed t c data s p
    have hunfed : p ∉ (s.liveFeeds x).map Feed.port := fun hmem => by
      obtain ⟨f, hf, rfl⟩ := List.mem_map.mp hmem
      obtain ⟨hfeed, hoff⟩ := mem_liveFeeds.mp hf
      exact hp ⟨hoff, f, hfeed, rfl⟩
    obtain ⟨hstand, hnone⟩ := computeFeeds_unfed (t := t) (tr := x) (c := c) (word := x.tickWord c) (data := data)
      (s.liveFeeds x) (s.setTrack t x.silent) hunfed
    refine ⟨hport.trans hstand, ?_⟩
    refine ((congrArg (fun v : Vector (Option Interp) 4 => v[p]) hinterps).trans hnone).trans ?_
    rw [State.setTrack_track_same]
    exact Vector.getElem_replicate _

end Sys2Proof.Proofs.LevelUnit
end

section
/-! PROOFS. The status requests (R56, R112, R134, R135, R158, sections 11.6 and 11.7): O54. `Shows a o xs` says that the
bytes `xs` stand in `a` from offset `o`; an appended record shows each of its fields at the field's offset. -/

namespace Sys2Proof.Machine

/-! ### Bytes at an offset -/

/-- The bytes `xs` stand in `a` from offset `o`. -/
structure Shows (a : List Byte) (o : Nat) (xs : List Byte) : Prop where
  at_offset : ∀ i < xs.length, a.getD (o + i) 0 = xs.getD i 0

theorem shows_self (a : List Byte) : Shows a 0 a := ⟨fun i _ => by rw [Nat.zero_add]⟩

theorem shows_append {a xs ys : List Byte} {o : Nat} :
    Shows a o (xs ++ ys) ↔ Shows a o xs ∧ Shows a (o + xs.length) ys := by
  have hleft {i : Nat} (hi : i < xs.length) : (xs ++ ys).getD i 0 = xs.getD i 0 := List.getD_append _ _ _ _ hi
  have hright (i : Nat) : (xs ++ ys).getD (xs.length + i) 0 = ys.getD i 0 := by
    rw [List.getD_append_right _ _ _ _ (Nat.le_add_right _ _), Nat.add_sub_cancel_left]
  constructor
  · rintro ⟨h⟩
    rw [List.length_append] at h
    refine ⟨⟨fun i hi => (h i (by omega)).trans (hleft hi)⟩, ⟨fun i hi => ?_⟩⟩
    rw [Nat.add_assoc, h _ (by omega), hright]
  · rintro ⟨⟨hx⟩, ⟨hy⟩⟩
    refine ⟨fun i hi => ?_⟩
    rw [List.length_append] at hi
    by_cases hin : i < xs.length
    · rw [hleft hin, hx i hin]
    · obtain ⟨j, rfl⟩ := Nat.exists_eq_add_of_le (Nat.le_of_not_lt hin)
      rw [hright, ← Nat.add_assoc, hy j (by omega)]

section Shows

variable {a xs : List Byte} {o : Nat}

theorem Shows.moved (h : Shows a o xs) {k : Nat} (hk : k = o) : Shows a k xs := hk ▸ h

theorem Shows.drop (h : Shows a o xs) : Shows (a.drop o) 0 xs := by
  refine ⟨fun i hi => ?_⟩
  rw [List.getD_eq_getElem?_getD, List.getElem?_drop, Nat.zero_add, ← List.getD_eq_getElem?_getD]
  exact h.at_offset i hi

/-- The bytes shown are a part of the list. -/
theorem Shows.take (h : Shows a o xs) (hlen : o + xs.length ≤ a.length) : (a.drop o).take xs.length = xs := by
  refine List.ext_getElem? fun i => ?_
  by_cases hi : i < xs.length
  · have hbyte := h.at_offset i hi
    rw [List.getD_eq_getElem?_getD, List.getD_eq_getElem?_getD, List.getElem?_eq_getElem (by omega),
      List.getElem?_eq_getElem hi] at hbyte
    rw [List.getElem?_take, if_pos hi, List.getElem?_drop, List.getElem?_eq_getElem (by omega),
      List.getElem?_eq_getElem hi]
    exact congrArg some hbyte
  · rw [List.getElem?_take, if_neg hi, List.getElem?_eq_none (Nat.le_of_not_lt hi)]

theorem Shows.one {n : Nat} (h : Shows a o (le8 n)) : a.getD o 0 = BitVec.ofNat 8 n := h.at_offset 0 (by simp [le8])

theorem Shows.bit {b : Bool} (h : Shows a o (bit8 b)) : a.getD o 0 = if b then 1 else 0 := h.at_offset 0 (by simp [bit8])

theorem Shows.byte {x : Byte} (h : Shows a o [x]) : a.getD o 0 = x := h.at_offset 0 (by simp)

theorem Shows.code {n : Nat} (h : Shows a o (le8 n)) (hn : n < 256) : (a.getD o 0).toNat = n := by
  rw [h.one, BitVec.toNat_ofNat, Nat.mod_eq_of_lt hn]

theorem Shows.two {n : Nat} (h : Shows a o (le16 n)) : a.getD (o + 1) 0 ++ a.getD o 0 = BitVec.ofNat 16 n := by
  have hlow : a.getD o 0 = BitVec.ofNat 8 n := h.at_offset 0 (by simp [le16])
  have hhigh : a.getD (o + 1) 0 = BitVec.ofNat 8 (n / 256) := h.at_offset 1 (by simp [le16])
  rw [← ofNat_word16, word16, byteAt, byteAt, hlow, hhigh]
  refine BitVec.eq_of_toNat_eq ?_
  simp only [BitVec.toNat_ofNat]
  omega

theorem Shows.four {n : Nat} (h : Shows a o (le32 n)) :
    a.getD (o + 3) 0 ++ a.getD (o + 2) 0 ++ a.getD (o + 1) 0 ++ a.getD o 0 = BitVec.ofNat 32 n := by
  obtain ⟨hlow, hhigh⟩ := shows_append.mp h
  have hlow := (ofNat_word16 a o).trans hlow.two
  have hhigh := (ofNat_word16 a (o + 2)).trans (hhigh.moved rfl).two
  rw [← ofNat_word32, word32]
  have hlow := congrArg BitVec.toNat hlow
  have hhigh := congrArg BitVec.toNat hhigh
  have hlowlt := word16_lt a o
  have hhighlt := word16_lt a (o + 2)
  refine BitVec.eq_of_toNat_eq ?_
  simp only [BitVec.toNat_ofNat] at hlow hhigh ⊢
  omega

/-- A four-byte field taken as two of two bytes. -/
theorem Shows.twoTwos {n : Nat} (h : Shows a o (le32 n)) :
    ((a.getD (o + 2 + 1) 0 ++ a.getD (o + 2) 0 : BitVec 16) ++ (a.getD (o + 1) 0 ++ a.getD o 0 : BitVec 16) : BitVec 32) =
      BitVec.ofNat 32 n := by
  obtain ⟨hlow, hhigh⟩ := shows_append.mp h
  rw [hlow.two, (hhigh.moved rfl : Shows a (o + 2) _).two]
  have hlt : (BitVec.ofNat 16 n).toNat < 2 ^ 16 := (BitVec.ofNat 16 n).isLt
  refine BitVec.eq_of_toNat_eq ?_
  rw [BitVec.toNat_append, ← Nat.shiftLeft_add_eq_or_of_lt hlt, Nat.shiftLeft_eq]
  simp only [BitVec.toNat_ofNat]
  omega

theorem ofNat_emod (w : Nat) (z : Int) : BitVec.ofNat w (z % (2 ^ w : Nat)).toNat = BitVec.ofInt w z := by
  refine BitVec.eq_of_toNat_eq ?_
  rw [BitVec.toNat_ofNat, BitVec.toNat_ofInt]
  exact Nat.mod_eq_of_lt (by have := Int.emod_lt_of_pos z (b := (2 ^ w : Nat)) (by positivity); omega)

theorem Shows.signedTwo {z : Int} (h : Shows a o (leSigned16 z)) :
    a.getD (o + 1) 0 ++ a.getD o 0 = BitVec.ofInt 16 z := (Shows.two h).trans (ofNat_emod 16 z)

theorem Shows.signedFour {z : Int} (h : Shows a o (leSigned32 z)) :
    ((a.getD (o + 2 + 1) 0 ++ a.getD (o + 2) 0 : BitVec 16) ++ (a.getD (o + 1) 0 ++ a.getD o 0 : BitVec 16) : BitVec 32) =
      BitVec.ofInt 32 z := (Shows.twoTwos h).trans (ofNat_emod 32 z)

/-- The padding is zeros. -/
theorem Shows.padding {n : Nat} (h : Shows a o (padTo n xs)) {i : Nat} (hlo : xs.length ≤ i) (hhi : i < n) :
    a.getD (o + i) 0 = 0 := by
  obtain ⟨-, h⟩ := shows_append.mp h
  have hzero := h.at_offset (i - xs.length) (by rw [zeros, List.length_replicate]; omega)
  rw [Nat.add_assoc, Nat.add_sub_cancel' hlo, zeros, List.getD_replicate _ (by omega)] at hzero
  exact hzero

theorem Shows.padded {n : Nat} (h : Shows a o (padTo n xs)) : Shows a o xs := (shows_append.mp h).1

/-- Records of one size, one after another. -/
theorem Shows.record {β : Type} {k : Nat} {f : β → List Byte} (hlen : ∀ c, (f c).length = k) {cs : List β}
    (h : Shows a o (cs.flatMap f)) {i : Nat} {c : β} (hc : cs[i]? = some c) : Shows a (o + k * i) (f c) := by
  induction cs generalizing o i with
  | nil => simp at hc
  | cons d r ih =>
    rw [List.flatMap_cons, shows_append, hlen] at h
    cases i with
    | zero =>
      rw [List.getElem?_cons_zero, Option.some.injEq] at hc
      subst hc
      exact h.1
    | succ i =>
      rw [List.getElem?_cons_succ] at hc
      exact (ih h.2 hc).moved (by rw [Nat.mul_succ]; omega)

end Shows

theorem flatMap_length {β : Type} {k : Nat} {f : β → List Byte} (hlen : ∀ c, (f c).length = k) (cs : List β) :
    (cs.flatMap f).length = k * cs.length := by
  rw [List.length_flatMap, funext hlen, List.map_const', List.sum_replicate, smul_eq_mul, Nat.mul_comm]

theorem padTo_length {n : Nat} {p : List Byte} (h : p.length ≤ n) : (padTo n p).length = n := by
  rw [padTo, zeros, List.length_append, List.length_replicate]
  omega

@[simp] theorem le8_length (n : Nat) : (le8 n).length = 1 := rfl
@[simp] theorem le16_length (n : Nat) : (le16 n).length = 2 := rfl
@[simp] theorem le32_length (n : Nat) : (le32 n).length = 4 := rfl
@[simp] theorem leSigned16_length (z : Int) : (leSigned16 z).length = 2 := rfl
@[simp] theorem leSigned32_length (z : Int) : (leSigned32 z).length = 4 := rfl
@[simp] theorem bit8_length (b : Bool) : (bit8 b).length = 1 := rfl
@[simp] theorem zeros_length (n : Nat) : (zeros n).length = n := List.length_replicate

/-! ### PORT STATUS (R112) -/

theorem pendingBytes_length (v : Option PortSet) : (pendingBytes v).length = 9 := by
  cases v <;> rfl

theorem Port.status_length (x : Port) : x.status.length = 24 := by
  simp [Port.status, pendingBytes_length]

theorem PortState.code_lt (x : PortState) : x.code < 256 := by cases x <;> decide
theorem GuardMode.code_lt (x : GuardMode) : x.code < 256 := by cases x <;> decide

theorem Port.status_shows {a : List Byte} {x : Port} (h : Shows a 0 x.status) :
    (a.getD 0 0).toNat = x.state.code ∧ a.getD 2 0 ++ a.getD 1 0 = BitVec.ofInt 16 x.fs ∧
      a.getD 4 0 ++ a.getD 3 0 = BitVec.ofNat 16 x.x ∧ (a.getD 5 0).toNat = x.guard.code ∧
      a.getD 7 0 ++ a.getD 6 0 = BitVec.ofNat 16 x.limit ∧ a.getD 8 0 = BitVec.ofNat 8 x.backoff ∧
      a.getD 10 0 ++ a.getD 9 0 = BitVec.ofNat 16 x.lastClips ∧ a.getD 11 0 = BitVec.ofNat 8 x.lastFeeds ∧
      a.getD 13 0 ++ a.getD 12 0 = BitVec.ofNat 16 x.overloads ∧
      a.getD 14 0 = (if x.pending.isSome then 1 else 0) ∧ Shows a 15 (pendingBytes x.pending) := by
  simp only [Port.status, shows_append, List.length_append, le8_length, le16_length, leSigned16_length, bit8_length,
    Nat.zero_add, Nat.reduceAdd, and_assoc] at h
  obtain ⟨hstate, hfs, hx, hguard, hlimit, hbackoff, hclips, hfeeds, hoverloads, hpending, hset⟩ := h
  exact ⟨hstate.code x.state.code_lt, hfs.signedTwo, hx.two, hguard.code x.guard.code_lt, hlimit.two, hbackoff.one,
    hclips.two, hfeeds.one, hoverloads.two, hpending.bit, hset⟩

theorem PortSet.pending_shows {a : List Byte} {v : PortSet} (h : Shows a 15 (pendingBytes (some v))) :
    (a.getD 15 0).toNat = v.state.code ∧ a.getD 17 0 ++ a.getD 16 0 = BitVec.ofInt 16 v.fs ∧
      a.getD 19 0 ++ a.getD 18 0 = BitVec.ofNat 16 v.x ∧ (a.getD 20 0).toNat = v.guard.code ∧
      a.getD 22 0 ++ a.getD 21 0 = BitVec.ofNat 16 v.limit ∧ a.getD 23 0 = (if v.restore then 1 else 0) := by
  simp only [pendingBytes, shows_append, List.length_append, le8_length, le16_length, leSigned16_length, Nat.reduceAdd,
    and_assoc] at h
  obtain ⟨hstate, hfs, hx, hguard, hlimit, hrestore⟩ := h
  exact ⟨hstate.code v.state.code_lt, hfs.signedTwo, hx.two, hguard.code v.guard.code_lt, hlimit.two, hrestore.bit⟩

/-! ### CLOCK STATUS (R158) -/

theorem Role.code_lt (x : Role) : x.code < 256 := by cases x <;> decide
theorem FollowState.code_lt (x : FollowState) : x.code < 256 := by cases x <;> decide

theorem Timeline.status_length (x : Timeline) : x.status.length = 16 := rfl

theorem Timeline.status_shows {a : List Byte} {x : Timeline} (h : Shows a 0 x.status) :
    a.getD 3 0 ++ a.getD 2 0 ++ a.getD 1 0 ++ a.getD 0 0 = x.count ∧
      a.getD 7 0 ++ a.getD 6 0 ++ a.getD 5 0 ++ a.getD 4 0 = x.pendingSet.getD 0 ∧
      a.getD 8 0 = (if x.pendingSet.isSome then 1 else 0) ∧ (a.getD 9 0).toNat = x.role.code ∧
      a.getD 10 0 = x.unitId.setWidth 8 ∧ (a.getD 11 0).toNat = x.reportedFollow.code ∧
      a.getD 12 0 = (x.leaderSeen.map (BitVec.setWidth 8)).getD 0xFF ∧
      (a.getD 13 0).getLsbD 0 = x.age.isSome ∧ (a.getD 13 0).getLsbD 1 = x.pendingMarker.isSome ∧
      (a.getD 13 0).getLsbD 2 = x.contention ∧ a.getD 15 0 ++ a.getD 14 0 = BitVec.ofNat 16 (x.age.getD 0) := by
  simp only [Timeline.status, shows_append, List.length_append, le8_length, le32_length, bit8_length,
    Nat.zero_add, Nat.reduceAdd, and_assoc] at h
  obtain ⟨hcount, hset, hheld, hrole, hid, hfollow, hleader, hmarks, hage⟩ := h
  have hbits (p q r : Bool) : (BitVec.ofNat 8 (p.toNat + 2 * q.toNat + 4 * r.toNat)).getLsbD 0 = p ∧
      (BitVec.ofNat 8 (p.toNat + 2 * q.toNat + 4 * r.toNat)).getLsbD 1 = q ∧
      (BitVec.ofNat 8 (p.toNat + 2 * q.toNat + 4 * r.toNat)).getLsbD 2 = r := by
    revert p q r
    decide
  obtain ⟨hfirst, hsecond, hthird⟩ := hbits x.age.isSome x.pendingMarker.isSome x.contention
  refine ⟨hcount.four.trans (BitVec.ofNat_toNat ..), hset.four.trans ?_, hheld.bit, hrole.code x.role.code_lt,
    hid.one.trans (BitVec.ofNat_toNat ..), hfollow.code x.reportedFollow.code_lt, hleader.one.trans ?_, ?_, ?_, ?_, hage.two⟩
  · cases x.pendingSet with
    | none => rfl
    | some v => exact (BitVec.ofNat_toNat ..).trans (BitVec.setWidth_eq v)
  · cases x.leaderSeen with
    | none => rfl
    | some l => exact BitVec.ofNat_toNat ..
  · rw [hmarks.one, hfirst]
  · rw [hmarks.one, hsecond]
  · rw [hmarks.one, hthird]

/-! ### CLIP INFO (R134) -/

theorem ClipState.code_lt (x : ClipState) : x.code < 256 := by cases x <;> decide

/-- A two-byte field holds the two bytes it was read from. -/
theorem le16_append (i0 i1 : Byte) : le16 (i1 ++ i0).toNat = [i0, i1] := by
  have h0 := i0.isLt
  have h1 := i1.isLt
  have hsum : (i1 ++ i0).toNat = i1.toNat * 2 ^ 8 + i0.toNat := by
    rw [BitVec.toNat_append, ← Nat.shiftLeft_add_eq_or_of_lt h0, Nat.shiftLeft_eq]
  have hlow : BitVec.ofNat 8 (i1 ++ i0).toNat = i0 := by
    refine BitVec.eq_of_toNat_eq ?_
    rw [BitVec.toNat_ofNat, hsum]
    omega
  have hhigh : BitVec.ofNat 8 ((i1 ++ i0).toNat / 256) = i1 := by
    refine BitVec.eq_of_toNat_eq ?_
    rw [BitVec.toNat_ofNat, hsum]
    omega
  rw [le16, hlow, hhigh]

theorem clipInfo_length (c : ClipId) (s : State) :
    (clipInfo c s).length = 24 + (s.clip c).label.length + (24 - (s.clip c).label.length) := by
  simp only [clipInfo, padTo, List.length_append, le8_length, le16_length, le32_length, leSigned16_length, bit8_length,
    zeros_length]
  omega

theorem clipInfo_shows {s : State} {c : ClipId} {a : List Byte} (h : Shows a 0 (clipInfo c s)) :
    let r := s.clip c
    Shows a 0 (le16 c.1) ∧ (a.getD 2 0).toNat = r.state.code ∧ (a.getD 3 0).toNat = r.bank.1 ∧
      a.getD 5 0 ++ a.getD 4 0 = BitVec.ofNat 16 r.first ∧ a.getD 7 0 ++ a.getD 6 0 = BitVec.ofNat 16 r.sectors ∧
      a.getD 8 0 = BitVec.ofNat 8 r.decimation ∧ a.getD 9 0 = (if r.ended then 1 else 0) ∧
      a.getD 11 0 ++ a.getD 10 0 = BitVec.ofInt 16 r.ref ∧
      a.getD 15 0 ++ a.getD 14 0 ++ a.getD 13 0 ++ a.getD 12 0 = BitVec.ofNat 32 r.blocks ∧
      a.getD 19 0 ++ a.getD 18 0 ++ a.getD 17 0 ++ a.getD 16 0 = BitVec.ofNat 32 r.nextPage ∧
      a.getD 20 0 = BitVec.ofNat 8 (s.pagesInQueue c) ∧ a.getD 21 0 = BitVec.ofNat 8 r.label.length ∧
      a.getD 23 0 ++ a.getD 22 0 = BitVec.ofNat 16 (s.useCount c) ∧ Shows a 24 r.label := by
  intro r
  simp only [clipInfo, shows_append, List.length_append, le8_length, le16_length, le32_length, leSigned16_length,
    bit8_length, Nat.zero_add, Nat.reduceAdd, and_assoc] at h
  obtain ⟨hclip, hstate, hbank, hfirst, hsectors, hd, hended, href, hblocks, hpage, hqueue, hlen, huse, hlabel⟩ := h
  exact ⟨hclip, hstate.code r.state.code_lt, hbank.code (by omega), hfirst.two, hsectors.two, hd.one, hended.bit,
    href.signedTwo, hblocks.four, hpage.four, hqueue.one, hlen.one, huse.two, hlabel.padded⟩

/-! ### STORE STATUS (R135) -/

theorem bankStatus_length (s : State) (b : BankId) : (bankStatus s b).length = 28 := by
  simp [bankStatus]

theorem Policy.code_lt (x : Policy) : x.code < 256 := by cases x <;> decide

theorem opCode_lt (op : Option Operation) : opCode op < 256 := by
  unfold opCode
  split
  · decide
  · split <;> decide

theorem subCode_lt (op : Option Operation) : subCode op < 256 := by
  unfold subCode
  split
  · decide
  · split <;> decide

/-- Every sector is in one state. -/
theorem countP_states (f : Nat → SectorState) (ms : List Nat) :
    ms.countP (fun m => f m = .free) + (ms.countP (fun m => f m = .allocated) + ms.countP (fun m => f m = .dirty) +
      ms.countP (fun m => f m = .erasing) + ms.countP (fun m => f m = .unsettled) +
      ms.countP (fun m => f m = .retired)) = ms.length := by
  induction ms with
  | nil => rfl
  | cons m r ih =>
    simp only [List.countP_cons, List.length_cons]
    cases f m <;> simp <;> omega

theorem listedSectors_eq {s : State} (hw : tableWf SectorState.free s.store.sectors = true) (b : BankId) {x : SectorState}
    (hx : x ≠ .free) : s.listedSectors b x = (List.range 8192).countP fun m => s.sector b m = x :=
  State.sectors_countP hw b (p := fun y => y = x) (decide_eq_false (Ne.symm hx)) 8192

theorem sectorCount_eq {s : State} (hw : tableWf SectorState.free s.store.sectors = true) (b : BankId) (x : SectorState) :
    s.sectorCount b x = (List.range 8192).countP fun m => s.sector b m = x := by
  cases x with
  | free =>
    have hall := countP_states (s.sector b) (List.range 8192)
    rw [List.length_range] at hall
    unfold State.sectorCount
    dsimp only
    rw [listedSectors_eq hw b (by decide), listedSectors_eq hw b (by decide), listedSectors_eq hw b (by decide),
      listedSectors_eq hw b (by decide), listedSectors_eq hw b (by decide)]
    omega
  | allocated => exact listedSectors_eq hw b (by decide)
  | dirty => exact listedSectors_eq hw b (by decide)
  | erasing => exact listedSectors_eq hw b (by decide)
  | unsettled => exact listedSectors_eq hw b (by decide)
  | retired => exact listedSectors_eq hw b (by decide)

theorem bankStatus_shows {s : State} {b : BankId} {a : List Byte} (h : Shows a 0 (bankStatus s b)) :
    let k := s.bank b
    (a.getD 1 0 ++ a.getD 0 0 = BitVec.ofNat 16 (s.sectorCount b .free) ∧
      a.getD 3 0 ++ a.getD 2 0 = BitVec.ofNat 16 (s.sectorCount b .allocated) ∧
      a.getD 5 0 ++ a.getD 4 0 = BitVec.ofNat 16 (s.sectorCount b .dirty) ∧
      a.getD 7 0 ++ a.getD 6 0 = BitVec.ofNat 16 (s.sectorCount b .erasing) ∧
      a.getD 9 0 ++ a.getD 8 0 = BitVec.ofNat 16 (s.sectorCount b .unsettled) ∧
      a.getD 11 0 ++ a.getD 10 0 = BitVec.ofNat 16 (s.sectorCount b .retired)) ∧
    (a.getD 15 0 ++ a.getD 14 0 = BitVec.ofNat 16 (opFields k.op).1 ∧
      a.getD 19 0 ++ a.getD 18 0 ++ a.getD 17 0 ++ a.getD 16 0 = BitVec.ofNat 32 (opFields k.op).2) ∧
    (a.getD 12 0).toNat = opCode k.op ∧ (a.getD 13 0).toNat = subCode k.op ∧
    a.getD 20 0 = BitVec.ofNat 8 k.programQueue.length ∧ a.getD 21 0 = BitVec.ofNat 8 k.fetch.length ∧
    a.getD 22 0 = (if k.sweep then 1 else 0) ∧ a.getD 23 0 = (if k.eraseHold then 1 else 0) ∧
    (a.getD 24 0).toNat = k.policy.code ∧ a.getD 25 0 = (if k.autoSweep then 1 else 0) ∧
    a.getD 26 0 = BitVec.ofNat 8 ((k.op.map Operation.count).getD 0) := by
  intro k
  simp only [bankStatus, shows_append, List.length_append, le8_length, le16_length, le32_length, bit8_length,
    Nat.zero_add, Nat.reduceAdd, and_assoc] at h
  obtain ⟨hfree, hallocated, hdirty, herasing, hunsettled, hretired, hop, hsub, hnumber, hpage, hqueue, hfetch, hsweep,
    hhold, hpolicy, hauto, hcount, -⟩ := h
  exact ⟨⟨hfree.two, hallocated.two, hdirty.two, herasing.two, hunsettled.two, hretired.two⟩, ⟨hnumber.two, hpage.four⟩,
    hop.code (opCode_lt _), hsub.code (subCode_lt _), hqueue.one, hfetch.one, hsweep.bit, hhold.bit,
    hpolicy.code k.policy.code_lt, hauto.bit, hcount.one⟩

/-- The four banks' records stand one after another. -/
theorem storeStatus_shows (s : State) (b : BankId) :
    Shows ((allFour.flatMap (bankStatus s)).drop (28 * b.1)) 0 (bankStatus s b) := by
  refine Shows.drop (((shows_self _).record (bankStatus_length s) (i := b.1) (c := b) ?_).moved (Nat.zero_add _).symm)
  rw [allFour, List.getElem?_eq_getElem (by simp), List.getElem_finRange]
  rfl

theorem storeStatus_length (s : State) : (allFour.flatMap (bankStatus s)).length = 112 := by
  rw [flatMap_length (bankStatus_length s), allFour, List.length_finRange]

/-! ### TRACK STATUS (R56, section 11.6) -/

theorem Feed.bytes_length (f : Feed) : f.bytes.length = 4 := rfl

theorem LiveParams.bytes_length {l : LiveParams} (h : l.feeds.length ≤ 4) : l.bytes.length = 32 := by
  have hfeeds : (padTo 16 (l.feeds.flatMap Feed.bytes)).length = 16 :=
    padTo_length (by rw [flatMap_length Feed.bytes_length]; omega)
  simp [LiveParams.bytes, hfeeds]

theorem Copy.bytes_length (c : Copy) : c.bytes.length = 4 := rfl

theorem Slot.bytes_length (x : Slot) (d : Option Count) : (x.bytes d).length = 12 := rfl

theorem currentBytes_length (c : Option Copy) : (currentBytes c).length = 32 := by
  cases c with
  | none => exact zeros_length 32
  | some c => rw [currentBytes, List.length_append, CueEntry.bytes_length, le32_length]

theorem TransferMode.code_lt (x : TransferMode) : x.code < 256 := by cases x <;> decide
theorem TrackState.code_lt (x : TrackState) : x.code < 256 := by cases x <;> decide
theorem StartCond.code_lt (x : StartCond) : x.code < 256 := by cases x <;> simp [StartCond.code]
theorem StopMode.code_lt (x : StopMode) : x.code < 256 := by cases x <;> simp [StopMode.code]
theorem GatePhase.code_lt (x : GatePhase) : x.code < 256 := by cases x <;> decide
theorem FaultReason.code_lt (x : FaultReason) : x.code < 256 := by cases x <;> decide
theorem PathTag.code_lt (x : PathTag) : x.code < 256 := by cases x <;> decide
theorem CopyStatus.code_lt (x : CopyStatus) : x.code < 8 := by cases x <;> decide
theorem SlotState.code_lt (x : SlotState) : x.code < 8 := by cases x <;> decide

/-- A live parameter set in TRACK STATUS. -/
theorem LiveParams.bytes_shows {a : List Byte} {o : Nat} {l : LiveParams} (h : Shows a o l.bytes) :
    let two (o : Nat) : BitVec 16 := a.getD (o + 1) 0 ++ a.getD o 0
    let four (o : Nat) : BitVec 32 := two (o + 2) ++ two o
    four o = BitVec.ofInt 32 l.detune ∧ four (o + 4) = BitVec.ofInt 32 l.sweep ∧
      a.getD (o + 8) 0 = BitVec.ofNat 8 l.trim ∧ (a.getD (o + 9) 0).toNat = l.mode.code ∧
      two (o + 10) = BitVec.ofNat 16 l.gateOn ∧ two (o + 12) = BitVec.ofNat 16 l.gateOff ∧
      a.getD (o + 14) 0 = BitVec.ofNat 8 l.feeds.length ∧ a.getD (o + 15) 0 = 0 ∧
      (∀ i f, l.feeds[i]? = some f → (a.getD (o + 16 + 4 * i) 0).toNat = f.port.1 ∧
        a.getD (o + 17 + 4 * i) 0 = BitVec.ofNat 8 f.offset ∧ two (o + 18 + 4 * i) = f.phase) ∧
      ∀ i, 4 * l.feeds.length ≤ i → i < 16 → a.getD (o + 16 + i) 0 = 0 := by
  simp only [LiveParams.bytes, shows_append, List.length_append, List.length_singleton, le8_length, le16_length,
    leSigned32_length, Nat.reduceAdd, and_assoc] at h
  obtain ⟨hdetune, hsweep, htrim, hmode, hon, hoff, hcount, hzero, hfeeds⟩ := h
  refine ⟨hdetune.signedFour, hsweep.signedFour, htrim.one, hmode.code l.mode.code_lt, hon.two, hoff.two, hcount.one,
    hzero.byte, fun i f hf => ?_, fun i hlo hhi => ?_⟩
  · have hfeed := hfeeds.padded.record Feed.bytes_length hf
    simp only [Feed.bytes, shows_append, List.length_append, le8_length, Nat.reduceAdd, and_assoc] at hfeed
    obtain ⟨hport, hoffset, hphase⟩ := hfeed
    exact ⟨hport.code (by omega), (hoffset.moved (by omega)).one,
      ((hphase.moved (k := o + 18 + 4 * i) (by omega)).two).trans (BitVec.ofNat_toNat ..)⟩
  · exact hfeeds.padding (by rw [flatMap_length Feed.bytes_length]; exact hlo) hhi

/-- A value below 8 with a mark in bit 7. -/
theorem marked_byte {n : Nat} (hn : n < 8) (b : Bool) :
    ((BitVec.ofNat 8 (n + 128 * b.toNat)).setWidth 7).toNat = n ∧ (BitVec.ofNat 8 (n + 128 * b.toNat)).getLsbD 7 = b := by
  have hall : ∀ n < 8, ∀ b : Bool, ((BitVec.ofNat 8 (n + 128 * b.toNat)).setWidth 7).toNat = n ∧
      (BitVec.ofNat 8 (n + 128 * b.toNat)).getLsbD 7 = b := by decide
  exact hall n hn b

/-- A queue copy in TRACK STATUS. -/
theorem Copy.bytes_shows {a : List Byte} {o : Nat} {c : Copy} (h : Shows a o c.bytes) :
    a.getD (o + 1) 0 ++ a.getD o 0 = c.index.setWidth 16 ∧
      ((a.getD (o + 2) 0).setWidth 7).toNat = c.status.code ∧ (a.getD (o + 2) 0).getLsbD 7 = c.trailing ∧
      (a.getD (o + 3) 0).toNat = c.path.code := by
  simp only [Copy.bytes, shows_append, List.length_append, le8_length, le16_length, Nat.reduceAdd, and_assoc] at h
  obtain ⟨hindex, hstatus, hpath⟩ := h
  obtain ⟨hcode, htrailing⟩ := marked_byte c.status.code_lt c.trailing
  exact ⟨hindex.two.trans (BitVec.ofNat_toNat ..), by rw [hstatus.one, hcode], by rw [hstatus.one, htrailing],
    hpath.code c.path.code_lt⟩

/-- A ring slot in TRACK STATUS. -/
theorem Slot.bytes_shows {a : List Byte} {o : Nat} {y : Slot} {d : Option Count} (h : Shows a o (y.bytes d)) :
    let two (o : Nat) : BitVec 16 := a.getD (o + 1) 0 ++ a.getD o 0
    let four (o : Nat) : BitVec 32 := two (o + 2) ++ two o
    two o = BitVec.ofNat 16 (clipField y.clip) ∧ four (o + 2) = BitVec.ofNat 32 y.block ∧ four (o + 6) = d.getD 0 ∧
      (a.getD (o + 10) 0).toNat = y.path.code ∧ ((a.getD (o + 11) 0).setWidth 7).toNat = y.state.code ∧
      (a.getD (o + 11) 0).getLsbD 7 = d.isSome := by
  simp only [Slot.bytes, shows_append, List.length_append, le8_length, le16_length, le32_length, Nat.reduceAdd,
    and_assoc] at h
  obtain ⟨hclip, hblock, hdue, hpath, hstate⟩ := h
  obtain ⟨hcode, hknown⟩ := marked_byte y.state.code_lt d.isSome
  refine ⟨hclip.two, hblock.twoTwos, hdue.twoTwos.trans ?_, hpath.code y.path.code_lt, by rw [hstate.one, hcode],
    by rw [hstate.one, hknown]⟩
  cases d with
  | none => rfl
  | some v => exact (BitVec.ofNat_toNat ..).trans (BitVec.setWidth_eq v)

/-- The marks of a track in a byte. -/
theorem marks_byte (b0 b1 b2 b3 b4 b5 b6 b7 : Bool) :
    let m := BitVec.ofNat 8 (b0.toNat + 2 * b1.toNat + 4 * b2.toNat + 8 * b3.toNat + 16 * b4.toNat + 32 * b5.toNat +
      64 * b6.toNat + 128 * b7.toNat)
    m.getLsbD 0 = b0 ∧ m.getLsbD 1 = b1 ∧ m.getLsbD 2 = b2 ∧ m.getLsbD 3 = b3 ∧ m.getLsbD 4 = b4 ∧ m.getLsbD 5 = b5 ∧
      m.getLsbD 6 = b6 ∧ m.getLsbD 7 = b7 := by
  revert b0 b1 b2 b3 b4 b5 b6 b7
  decide

/-- The track has a current entry in PLAYING, HOLDING and STOPPING: the front copy. -/
theorem Track.current_cases (x : Track) :
    (x.current = none ∧ ∀ c r, x.state = .playing ∨ x.state = .holding ∨ x.state = .stopping → x.queue ≠ c :: r) ∨
      ∃ c r, x.current = some c ∧ x.queue = c :: r ∧ (x.state = .playing ∨ x.state = .holding ∨ x.state = .stopping) := by
  by_cases hstate : x.state = .playing ∨ x.state = .holding ∨ x.state = .stopping
  · have hcurrent : x.current = x.queue.head? := by
      unfold Track.current
      obtain h | h | h := hstate <;> rw [h]
    cases hqueue : x.queue with
    | nil => exact .inl ⟨by rw [hcurrent, hqueue]; rfl, by simp⟩
    | cons c r => exact .inr ⟨c, r, by rw [hcurrent, hqueue]; rfl, rfl, hstate⟩
  · refine .inl ⟨?_, fun c r h => absurd h hstate⟩
    unfold Track.current
    split
    next h => exact absurd (.inl h) hstate
    next h => exact absurd (.inr (.inr h)) hstate
    next h => exact absurd (.inr (.inl h)) hstate
    · rfl

/-- The first 36 bytes of TRACK STATUS. -/
def Track.head (tr : Track) (t : TrackId) : List Byte :=
  le8 t.1 ++ le8 tr.state.code ++ le16 tr.home.toNat ++ le16 tr.currentIndex.toNat ++ le8 tr.playNumber ++
  le8 tr.marksByte ++ le32 tr.block ++ le16 (linkField tr.link) ++ le8 tr.start.code ++ le8 tr.start.fields.1 ++
  bit8 tr.start.fields.2.1 ++ le8 tr.stop.code ++ le8 tr.stop.fadeLength ++ le8 tr.stopFade ++ le32 tr.start.fields.2.2 ++
  le32 tr.nco.toNat ++ le8 tr.gatePhase.code ++ le8 tr.faultReason.code ++ le16 tr.gateCounter ++ le16 tr.underruns ++
  le16 tr.readFaults

/-- The bytes behind them: the parameters, the current copy, the queue and the ring. -/
def State.trackBody (s : State) (t : TrackId) : List Byte :=
  let tr := s.track t
  tr.active.bytes ++ tr.staged.bytes ++ bit8 tr.current.isSome ++ le8 tr.queue.length ++ le8 tr.ring.length ++ [0] ++
  currentBytes tr.current ++ padTo 16 (tr.queue.flatMap Copy.bytes) ++
  padTo 96 (tr.ring.zipIdx.flatMap fun x => x.1.bytes (s.deadline t x.2))

theorem trackStatus_eq (t : TrackId) (s : State) : trackStatus t s = (s.track t).head t ++ s.trackBody t := by
  unfold trackStatus Track.head State.trackBody
  dsimp only
  generalize s.track t = x
  simp only [List.append_assoc]

theorem Track.head_length (tr : Track) (t : TrackId) : (tr.head t).length = 36 := by
  unfold Track.head
  simp only [List.length_append, le8_length, le16_length, le32_length, bit8_length]

theorem Track.head_shows {a : List Byte} {x : Track} {t : TrackId} (h : Shows a 0 (x.head t)) :
    a.getD 0 0 = BitVec.ofNat 8 t.1 ∧ (a.getD 1 0).toNat = x.state.code ∧
      a.getD 3 0 ++ a.getD 2 0 = x.home.setWidth 16 ∧ a.getD 5 0 ++ a.getD 4 0 = x.currentIndex.setWidth 16 ∧
      a.getD 6 0 = BitVec.ofNat 8 x.playNumber ∧ a.getD 7 0 = BitVec.ofNat 8 x.marksByte ∧
      a.getD 11 0 ++ a.getD 10 0 ++ a.getD 9 0 ++ a.getD 8 0 = BitVec.ofNat 32 x.block ∧
      a.getD 13 0 ++ a.getD 12 0 = BitVec.ofNat 16 (linkField x.link) ∧ (a.getD 14 0).toNat = x.start.code ∧
      a.getD 15 0 = BitVec.ofNat 8 x.start.fields.1 ∧ a.getD 16 0 = (if x.start.fields.2.1 then 1 else 0) ∧
      (a.getD 17 0).toNat = x.stop.code ∧ a.getD 18 0 = BitVec.ofNat 8 x.stop.fadeLength ∧
      a.getD 19 0 = BitVec.ofNat 8 x.stopFade ∧ Shows a 20 (le32 x.start.fields.2.2) ∧
      a.getD 27 0 ++ a.getD 26 0 ++ a.getD 25 0 ++ a.getD 24 0 = x.nco ∧ (a.getD 28 0).toNat = x.gatePhase.code ∧
      (a.getD 29 0).toNat = x.faultReason.code ∧ a.getD 31 0 ++ a.getD 30 0 = BitVec.ofNat 16 x.gateCounter ∧
      a.getD 33 0 ++ a.getD 32 0 = BitVec.ofNat 16 x.underruns ∧
      a.getD 35 0 ++ a.getD 34 0 = BitVec.ofNat 16 x.readFaults := by
  unfold Track.head at h
  simp only [shows_append, List.length_append, le8_length, le16_length, le32_length, bit8_length,
    Nat.zero_add, Nat.reduceAdd, and_assoc] at h
  obtain ⟨hnumber, hstate, hhome, hindex, hplay, hmarks, hblock, hlink, hstart, hline, hconsume, hstop, hfade, hposition,
    htime, hnco, hphase, hreason, hcounter, hunderruns, hfaults⟩ := h
  exact ⟨hnumber.one, hstate.code x.state.code_lt, hhome.two.trans (BitVec.ofNat_toNat ..),
    hindex.two.trans (BitVec.ofNat_toNat ..), hplay.one, hmarks.one, hblock.four, hlink.two,
    hstart.code x.start.code_lt, hline.one, hconsume.bit, hstop.code x.stop.code_lt, hfade.one, hposition.one, htime,
    hnco.four.trans ((BitVec.ofNat_toNat ..).trans (BitVec.setWidth_eq _)), hphase.code x.gatePhase.code_lt,
    hreason.code x.faultReason.code_lt, hcounter.two, hunderruns.two, hfaults.two⟩

section TrackBody

variable {s : State} {t : TrackId} (hqueue : (s.track t).queue.length ≤ 4) (hring : (s.track t).ring.length ≤ 8)
  (hactive : (s.track t).active.feeds.length ≤ 4) (hstaged : (s.track t).staged.feeds.length ≤ 4)

include hqueue hactive hstaged

theorem trackBody_shows {a : List Byte} (h : Shows a 36 (s.trackBody t)) :
    let x := s.track t
    Shows a 36 x.active.bytes ∧ Shows a 68 x.staged.bytes ∧ a.getD 100 0 = (if x.current.isSome then 1 else 0) ∧
      a.getD 101 0 = BitVec.ofNat 8 x.queue.length ∧ a.getD 102 0 = BitVec.ofNat 8 x.ring.length ∧ a.getD 103 0 = 0 ∧
      Shows a 104 (currentBytes x.current) ∧ Shows a 136 (padTo 16 (x.queue.flatMap Copy.bytes)) ∧
      Shows a 152 (padTo 96 (x.ring.zipIdx.flatMap fun y => y.1.bytes (s.deadline t y.2))) := by
  intro x
  have hcopies : (padTo 16 ((s.track t).queue.flatMap Copy.bytes)).length = 16 :=
    padTo_length (by rw [flatMap_length Copy.bytes_length]; omega)
  simp only [State.trackBody, shows_append, List.length_append, List.length_singleton, le8_length, bit8_length,
    LiveParams.bytes_length hactive, LiveParams.bytes_length hstaged, currentBytes_length, hcopies, Nat.reduceAdd,
    and_assoc] at h
  obtain ⟨hfirst, hsecond, hcurrent, hcopied, hslots, hzero, hcopy, hcopylist, hslotlist⟩ := h
  exact ⟨hfirst, hsecond, hcurrent.bit, hcopied.one, hslots.one, hzero.byte, hcopy, hcopylist, hslotlist⟩

include hring in
theorem trackStatus_length : (trackStatus t s).length = 248 := by
  have hcopies : (padTo 16 ((s.track t).queue.flatMap Copy.bytes)).length = 16 :=
    padTo_length (by rw [flatMap_length Copy.bytes_length]; omega)
  have hslots : (padTo 96 ((s.track t).ring.zipIdx.flatMap fun y => y.1.bytes (s.deadline t y.2))).length = 96 :=
    padTo_length (by
      rw [flatMap_length (k := 12) (fun y : Slot × Nat => y.1.bytes_length (s.deadline t y.2)), List.length_zipIdx]
      omega)
  rw [trackStatus_eq, List.length_append, Track.head_length, State.trackBody]
  simp only [List.length_append, List.length_singleton, le8_length, bit8_length, LiveParams.bytes_length hactive,
    LiveParams.bytes_length hstaged, currentBytes_length, hcopies, hslots]

end TrackBody

/-! ### The requests -/

theorem exec_portStatus (tag : Byte) (p : List Byte) (s : State) :
    exec (.portStatus tag p) s = .next (s.event (serve handlePortStatus { tag := tag, code := 0x21, payload := p })) := rfl

theorem exec_clockStatus (tag : Byte) (p : List Byte) (s : State) :
    exec (.clockStatus tag p) s =
      .next (s.event (serve handleClockStatus { tag := tag, code := 0x11, payload := p })) := rfl

theorem exec_trackStatus (tag : Byte) (p : List Byte) (s : State) :
    exec (.trackStatus tag p) s =
      .next (s.event (serve handleTrackStatus { tag := tag, code := 0x46, payload := p })) := rfl

theorem exec_clipInfo (tag : Byte) (p : List Byte) (s : State) :
    exec (.clipInfo tag p) s = .next (s.event (serve handleClipInfo { tag := tag, code := 0x54, payload := p })) := rfl

theorem exec_storeStatus (tag : Byte) (p : List Byte) (s : State) :
    exec (.storeStatus tag p) s =
      .next (s.event (serve handleStoreStatus { tag := tag, code := 0x55, payload := p })) := rfl

/-- A request that is answered and changes nothing. -/
theorem completes_reading {c : Instr} {s : State} {r : Request} {handler : List Byte → State → Reply}
    {payload : List Byte} (he : exec c s = .next (s.event (serve handler r))) (h : s.serves r)
    (hreply : ∀ l, handler r.payload { s with link := l } = .done payload { s with link := l }) :
    Completes c s r.tag payload s :=
  completes_of_blind (f := fun u => u) he h hreply fun _ => rfl

end Sys2Proof.Machine

namespace Sys2Proof.Proofs.StatusRequests

open Sys2Proof Sys2Proof.Machine

section Requests

variable {s : State} {tag : Byte}

theorem portStatus_refuses {n : Byte} (hserves : s.serves { tag := tag, code := 0x21, payload := [n] })
    (hn : 4 ≤ n.toNat) : Refuses (.portStatus tag [n]) s tag .range := by
  refine refuses_of_blind (exec_portStatus tag [n] s) hserves fun l => ?_
  have hread : readFour (byteAt [n] 0) = none := readFour_of_ge (Nat.not_lt.mpr hn)
  unfold handlePortStatus
  rw [hread]
  rfl

theorem portStatus_completes {n : Byte} (hserves : s.serves { tag := tag, code := 0x21, payload := [n] }) {p : PortId}
    (hp : n.toNat = p.1) : Completes (.portStatus tag [n]) s tag (s.port p).status s := by
  refine completes_reading (exec_portStatus tag [n] s) hserves fun l => ?_
  have hread : readFour (byteAt [n] 0) = some p := by
    have hbyte : byteAt [n] 0 = p.1 := hp
    rw [hbyte]
    exact readFour_of_lt p.2
  unfold handlePortStatus
  rw [hread]
  rfl

theorem clockStatus_completes (hserves : s.serves { tag := tag, code := 0x11, payload := [] }) :
    Completes (.clockStatus tag []) s tag s.timeline.status s :=
  completes_reading (exec_clockStatus tag [] s) hserves fun _ => rfl

theorem trackStatus_refuses {n : Byte} (hserves : s.serves { tag := tag, code := 0x46, payload := [n] })
    (hn : 48 ≤ n.toNat) : Refuses (.trackStatus tag [n]) s tag .range := by
  refine refuses_of_blind (exec_trackStatus tag [n] s) hserves fun l => ?_
  have hread : readTrack (byteAt [n] 0) = none := readTrack_of_ge (Nat.not_lt.mpr hn)
  unfold handleTrackStatus
  rw [hread]
  rfl

theorem trackStatus_completes {n : Byte} (hserves : s.serves { tag := tag, code := 0x46, payload := [n] }) {t : TrackId}
    (ht : n.toNat = t.1) : Completes (.trackStatus tag [n]) s tag (trackStatus t s) s := by
  refine completes_reading (exec_trackStatus tag [n] s) hserves fun l => ?_
  have hread : readTrack (byteAt [n] 0) = some t := by
    have hbyte : byteAt [n] 0 = t.1 := ht
    rw [hbyte]
    exact readTrack_of_lt t.2
  unfold handleTrackStatus
  rw [hread]
  rfl

theorem clipInfo_refuses {i0 i1 : Byte} (hserves : s.serves { tag := tag, code := 0x54, payload := [i0, i1] })
    (hn : 1024 ≤ (i1 ++ i0).toNat) : Refuses (.clipInfo tag [i0, i1]) s tag .range := by
  refine refuses_of_blind (exec_clipInfo tag [i0, i1] s) hserves fun l => ?_
  unfold handleClipInfo
  dsimp only
  rw [readClipRequest_of_ge (Nat.not_lt.mpr hn)]

theorem clipInfo_scanning {i0 i1 : Byte} (hserves : s.serves { tag := tag, code := 0x54, payload := [i0, i1] })
    (hn : (i1 ++ i0).toNat < 1024) (hscan : s.store.scanning = true) : Refuses (.clipInfo tag [i0, i1]) s tag .state := by
  refine refuses_of_blind (exec_clipInfo tag [i0, i1] s) hserves fun l => ?_
  unfold handleClipInfo
  dsimp only
  rw [readClipRequest_of_lt hn]
  exact if_pos hscan

theorem clipInfo_completes {i0 i1 : Byte} (hserves : s.serves { tag := tag, code := 0x54, payload := [i0, i1] })
    {c : ClipId} (hc : (i1 ++ i0).toNat = c.1) (hscan : s.store.scanning = false) :
    Completes (.clipInfo tag [i0, i1]) s tag (clipInfo c s) s := by
  refine completes_reading (exec_clipInfo tag [i0, i1] s) hserves fun l => ?_
  have hlt : (i1 ++ i0).toNat < 1024 := hc ▸ c.2
  obtain rfl : c = ⟨(i1 ++ i0).toNat, hlt⟩ := Fin.ext hc.symm
  unfold handleClipInfo
  dsimp only
  rw [readClipRequest_of_lt hlt]
  exact if_neg (Bool.eq_false_iff.mp hscan)

theorem storeStatus_scanning (hserves : s.serves { tag := tag, code := 0x55, payload := [] })
    (hscan : s.store.scanning = true) : Refuses (.storeStatus tag []) s tag .state :=
  refuses_of_blind (exec_storeStatus tag [] s) hserves fun _ => if_pos hscan

theorem storeStatus_completes (hserves : s.serves { tag := tag, code := 0x55, payload := [] })
    (hscan : s.store.scanning = false) : Completes (.storeStatus tag []) s tag (allFour.flatMap (bankStatus s)) s :=
  completes_reading (exec_storeStatus tag [] s) hserves fun _ => if_neg (Bool.eq_false_iff.mp hscan)

end Requests

/-- The current index as TRACK STATUS reports it. -/
theorem currentIndex_eq (x : Track) : x.currentIndex = (match x.state, x.queue with
    | .faulted, _ => x.faultIndex
    | .playing, c :: _ | .stopping, c :: _ | .holding, c :: _ => c.index
    | _, _ => x.home) := by
  obtain ⟨hnone, hstill⟩ | ⟨c, r, hsome, hqueue, hstate⟩ := x.current_cases
  · unfold Track.currentIndex
    rw [hnone]
    cases hstate : x.state with
    | playing =>
      cases hqueue : x.queue with
      | nil => rfl
      | cons c r => exact absurd hqueue (hstill c r (.inl hstate))
    | holding =>
      cases hqueue : x.queue with
      | nil => rfl
      | cons c r => exact absurd hqueue (hstill c r (.inr (.inl hstate)))
    | stopping =>
      cases hqueue : x.queue with
      | nil => rfl
      | cons c r => exact absurd hqueue (hstill c r (.inr (.inr hstate)))
    | idle => rfl
    | priming => rfl
    | ready => rfl
    | starting => rfl
    | faulted => rfl
  · unfold Track.currentIndex
    rw [hsome, hqueue]
    obtain h | h | h := hstate <;> (rewrite [h]; rfl)

/-- What is said of the current copy, or of its absence, by cases on state and queue. -/
theorem current_match {x : Track} {P : Copy → Prop} {Q : Prop} (hsome : ∀ c, x.current = some c → P c)
    (hnone : x.current = none → Q) : match x.state, x.queue with
    | .playing, c :: _ | .stopping, c :: _ | .holding, c :: _ => P c
    | _, _ => Q := by
  obtain ⟨hcurrent, hstill⟩ | ⟨c, r, hcurrent, hqueue, hstate⟩ := x.current_cases
  · split
    next hstate hqueue => exact absurd hqueue (hstill _ _ (.inl hstate))
    next hstate hqueue => exact absurd hqueue (hstill _ _ (.inr (.inr hstate)))
    next hstate hqueue => exact absurd hqueue (hstill _ _ (.inr (.inl hstate)))
    · exact hnone hcurrent
  · have hc := hsome c hcurrent
    rw [hqueue]
    obtain h | h | h := hstate <;> (rewrite [h]; exact hc)

/-- Settles O54. -/
theorem readingChangesNothing : Obligations.ReadingChangesNothing := by
  unfold Obligations.ReadingChangesNothing
  refine ⟨rfl, rfl, fun _ _ _ _ => rfl, fun _ => rfl, rfl, rfl, rfl, rfl, rfl, rfl, rfl, rfl, ⟨rfl, fun o => ?_⟩,
    ⟨rfl, fun o => ?_⟩, rfl, rfl, rfl, rfl, rfl, fun s tag => ⟨fun n hserves => ?_, fun hserves => ?_, fun n hserves => ?_,
      fun i0 i1 hserves => ?_, fun hserves => ?_⟩⟩
  · cases hkind : o.kind <;> simp [opCode, hkind]
  · cases hsub : o.sub <;> simp [subCode, hsub]
  · refine ⟨portStatus_refuses hserves, fun p hp => ?_⟩
    intro x
    obtain ⟨hstate, hfs, hx, hguard, hlimit, hbackoff, hclips, hfeeds, hoverloads, hpending, hset⟩ :=
      Port.status_shows (shows_self x.status)
    refine ⟨x.status, portStatus_completes hserves hp, x.status_length, hstate, hfs, hx, hguard, hlimit, hbackoff, hclips,
      hfeeds, hoverloads, hpending, fun hnone => ?_, fun v hv => ?_⟩
    · rw [hnone] at hset
      have hzeros := hset.take (by rw [x.status_length]; decide)
      rw [pendingBytes_length] at hzeros
      refine Eq.trans ?_ hzeros
      rw [List.take_of_length_le]
      rw [List.length_drop, x.status_length]
    · rw [hv] at hset
      exact PortSet.pending_shows hset
  · intro x
    obtain ⟨hcount, hset, hheld, hrole, hid, hfollow, hleader, hage, hmarker, hcontention, hticks⟩ :=
      Timeline.status_shows (shows_self x.status)
    refine ⟨x.status, clockStatus_completes hserves, x.status_length, hcount, hset, hheld, hrole, hid, hfollow.trans ?_,
      hleader.trans ?_, hage, hmarker, hcontention, hticks⟩
    · unfold Timeline.reportedFollow
      split <;> rfl
    · cases x.leaderSeen with
      | none => exact rfl
      | some l => exact rfl
  · refine ⟨trackStatus_refuses hserves, fun t ht => ?_⟩
    intro x two four params
    have hshows := shows_self (trackStatus t s)
    rw [trackStatus_eq, shows_append, ← trackStatus_eq, Track.head_length, Nat.zero_add] at hshows
    obtain ⟨hhead, hbody⟩ := hshows
    obtain ⟨hnumber, hstate, hhome, hindex, hplay, hmarks, hblock, hlink, hstart, hline, hconsume, hstop, hfade, hposition,
      htime, hnco, hphase, hreason, hcounter, hunderruns, hfaults⟩ := Track.head_shows hhead
    obtain ⟨hlast, hbreak, hstaged, hnow, hgate, hshort, hedge, hlate⟩ := marks_byte x.lastPlay x.breakPending
      x.stagedPending x.nowMark x.gateMark x.short x.edge x.late
    refine ⟨trackStatus t s, trackStatus_completes hserves ht, fun hqueue hring hactive hstaged => ?_, ?_, hstate, hhome,
      hindex.trans ?_, hplay, by rw [hmarks]; exact hlast, by rw [hmarks]; exact hbreak, by rw [hmarks]; exact hstaged,
      by rw [hmarks]; exact hnow, by rw [hmarks]; exact hgate, by rw [hmarks]; exact hshort, by rw [hmarks]; exact hedge,
      by rw [hmarks]; exact hlate, hblock, hlink.trans ?_, hstart, ?_, ?_, ?_, hstop, hfade.trans ?_, htime.twoTwos.trans ?_,
      hposition, hnco, hphase, hreason, hcounter, hunderruns, hfaults⟩
    · obtain ⟨hfirst, hsecond, hcurrent, hcopied, hslots, hzero, hcopy, hcopies, hslotlist⟩ :=
        trackBody_shows hqueue hactive hstaged hbody
      have hlen := trackStatus_length hqueue hring hactive hstaged
      refine ⟨hlen, LiveParams.bytes_shows hfirst, LiveParams.bytes_shows hsecond, hcopied, hslots, hzero, ?_,
        fun i c hc => ?_, fun i hlo hhi => ?_, fun i y hy => ?_, fun i hlo hhi => ?_⟩
      · refine current_match (fun c hc => ?_) fun hnone => ?_
        · have hsome : (s.track t).current = some c := hc
          rw [hsome] at hcurrent hcopy
          obtain ⟨hlength, hentry⟩ := shows_append.mp hcopy
          have htaken := Shows.take (hentry.moved (k := 108) rfl) (by rw [hlen, CueEntry.bytes_length]; decide)
          rw [CueEntry.bytes_length] at htaken
          exact ⟨hcurrent, hlength.twoTwos, htaken⟩
        · have hnone : (s.track t).current = none := hnone
          rw [hnone] at hcurrent hcopy
          have htaken := hcopy.take (by rw [hlen, currentBytes_length]; decide)
          rw [currentBytes_length] at htaken
          exact ⟨hcurrent, htaken⟩
      · obtain ⟨hindex, hcode, htrailing, hpath⟩ := Copy.bytes_shows (hcopies.padded.record Copy.bytes_length hc)
        have hplace (j : Nat) : 136 + 4 * i + j = 136 + j + 4 * i := Nat.add_right_comm ..
        rw [hplace] at hcode htrailing hpath
        exact ⟨hindex, hcode, htrailing, hpath⟩
      · exact hcopies.padding (by rw [flatMap_length Copy.bytes_length]; exact hlo) hhi
      · have hplaced : (s.track t).ring.zipIdx[i]? = some (y, i) := by
          rw [List.getElem?_zipIdx, hy]
          exact congrArg some (congrArg (Prod.mk y) (Nat.zero_add i))
        obtain ⟨hclip, hblock, hdue, hpath, hcode, hknown⟩ := Slot.bytes_shows (hslotlist.padded.record (k := 12)
          (fun z : Slot × Nat => z.1.bytes_length (s.deadline t z.2)) hplaced)
        have hplace (j : Nat) : 152 + j + 12 * i = 152 + 12 * i + j := Nat.add_right_comm ..
        rw [hplace 2, hplace 6, hplace 10, hplace 11]
        refine ⟨?_, hblock, hdue, hpath, hcode, hknown⟩
        refine Eq.trans hclip ?_
        cases y.clip with
        | none => exact rfl
        | some c => exact rfl
      · refine hslotlist.padding ?_ hhi
        rw [flatMap_length (k := 12) (fun z : Slot × Nat => z.1.bytes_length (s.deadline t z.2)), List.length_zipIdx]
        exact hlo
    · rw [hnumber, ← ht]
      exact BitVec.ofNat_toNat ..
    · exact congrArg (BitVec.setWidth 16) (currentIndex_eq x)
    · cases x.link with
      | none => exact rfl
      | some l => exact BitVec.ofNat_toNat ..
    · rw [hline, BitVec.toNat_ofNat]
      cases x.start with
      | none => rfl
      | next => rfl
      | atTime time => rfl
      | trigger n => exact Nat.mod_eq_of_lt (Nat.lt_trans n.isLt (by decide))
      | flag f c => exact Nat.mod_eq_of_lt (Nat.lt_trans f.isLt (by decide))
    · rw [hconsume]
      cases x.start with
      | flag f c => cases c <;> simp [StartCond.fields]
      | none => simp [StartCond.fields]
      | next => simp [StartCond.fields]
      | atTime time => simp [StartCond.fields]
      | trigger n => simp [StartCond.fields]
    · rw [hconsume]
      split <;> decide
    · cases x.stop <;> rfl
    · cases x.start with
      | atTime time => exact (BitVec.ofNat_toNat ..).trans (BitVec.setWidth_eq _)
      | none => rfl
      | next => rfl
      | trigger n => rfl
      | flag f c => rfl
  · refine ⟨clipInfo_refuses hserves, clipInfo_scanning hserves, fun c hc hscan => ?_⟩
    intro r
    obtain ⟨hclip, hstate, hbank, hfirst, hsectors, hd, hended, href, hblocks, hpage, hqueue, hlen, huse, hlabel⟩ :=
      clipInfo_shows (shows_self (clipInfo c s))
    rw [← hc, le16_append] at hclip
    refine ⟨clipInfo c s, clipInfo_completes hserves hc hscan, fun hlabels => ?_, hclip.at_offset 0 (by simp),
      hclip.at_offset 1 (by simp), hstate, hbank, hfirst, hsectors, hd, hended, href, hblocks, hpage, hqueue, hlen, huse,
      hlabel.take ?_⟩
    · have hlen : r.label.length ≤ 24 := hlabels
      rw [clipInfo_length]
      change 24 + r.label.length + (24 - r.label.length) = 48
      omega
    · rw [clipInfo_length]
      exact Nat.le_add_right _ _
  · refine ⟨storeStatus_scanning hserves, fun hscan => ⟨_, storeStatus_completes hserves hscan, storeStatus_length s,
      fun b => ?_⟩⟩
    intro x k count
    obtain ⟨hcounts, ⟨hnumber, hpage⟩, hrest⟩ := bankStatus_shows (storeStatus_shows s b)
    refine ⟨fun hw => ?_, ?_, hrest⟩
    · simp only [sectorCount_eq hw] at hcounts
      exact hcounts
    · cases hop : k.op with
      | none =>
        rw [hop] at hnumber hpage
        exact ⟨hnumber, hpage⟩
      | some o =>
        rw [hop] at hnumber hpage
        unfold opFields at hnumber hpage
        dsimp only [Option.map_some] at hnumber hpage ⊢
        cases hkind : o.kind with
        | program c q =>
          rw [hkind] at hnumber hpage
          exact ⟨hnumber, hpage⟩
        | erase m =>
          rw [hkind] at hnumber hpage
          exact ⟨hnumber, hpage⟩

end Sys2Proof.Proofs.StatusRequests
end

section
/-! PROOFS. A track's turn at a tick start: what each of its operations keeps (`KeptInTurn`), and how the turn of one
track stands among those of the others (`Waiting`, `Beside`). -/

namespace Sys2Proof.Machine

/-! ### What every operation of a turn keeps -/

/-- A property that the smallest operations of the turn of track `t` keep. -/
structure KeptInTurn (t : TrackId) (P : State → Prop) : Prop where
  setTrack : ∀ x s, P s → P (s.setTrack t x)
  raise : ∀ c s, P s → P (s.raise (trackSource t) c)
  lookahead : ∀ {s u}, LookaheadWork t s u → P s → P u
  modPort : ∀ p f s, P s → P (s.modPort p f)
  flagAction : ∀ a f s, P s → P (s.flagAction a f)
  pulse : ∀ m s, P s → P (pulseMarker s m)

namespace KeptInTurn

variable {t : TrackId} {P : State → Prop} (h : KeptInTurn t P)

include h

theorem modTrack (f : Track → Track) (s : State) (hs : P s) : P (s.modTrack t f) := h.setTrack _ s hs

theorem raiseIf (b : Bool) (c : Cause) (s : State) (hs : P s) : P (s.raiseIf b (trackSource t) c) := by
  unfold State.raiseIf
  split
  · exact h.raise c s hs
  · exact hs

theorem dropSlots (dead : List Nat) (s : State) (hs : P s) : P (dropSlots t dead s) :=
  h.lookahead (dropSlots_lookahead t dead s) hs

theorem discardAll (s : State) (hs : P s) : P (discardAll t s) := h.dropSlots _ _ (h.modTrack _ s hs)

theorem walk (s : State) (hs : P s) : P (walk t s) := h.lookahead (walk_work t s) hs

theorem underrun (s : State) (hs : P s) : P (underrun t s) := h.raise _ _ (h.modTrack _ s hs)

theorem readFault (s : State) (hs : P s) : P (readFault t s) := h.raise _ _ (h.modTrack _ s hs)

theorem consume (s : State) (hs : P s) : P (consume t s).2 := by
  have hunderrun := h.underrun
  have hfault := h.readFault
  have hdrop := h.dropSlots
  unfold Machine.consume
  generalize Machine.dropSlots t = drop at hdrop ⊢
  generalize Machine.underrun t = lacks at hunderrun ⊢
  generalize Machine.readFault t = faults at hfault ⊢
  split
  · exact hunderrun _ (h.modTrack _ s hs)
  · split
    · exact hunderrun _ (h.modTrack _ s hs)
    · dsimp only
      split
      · exact hdrop _ s hs
      · exact hfault _ (hdrop _ s hs)
      all_goals exact hunderrun _ (hdrop _ s hs)

theorem clampTrack (e : CueEntry) (s : State) (hs : P s) : P (clampTrack t e s) := by
  unfold Machine.clampTrack
  dsimp only
  split
  · exact h.raise _ _ (h.setTrack _ s hs)
  · exact hs

theorem computeFeeds (tr : Track) (c : Copy) (word : BitVec 32) (data : Option (List Byte)) (fs : List Feed) (s : State)
    (hs : P s) : P (forEach fs (computeFeed t tr c word data) s) := by
  refine forEach_inv fs (computeFeed t tr c word data) P (fun u f hu => ?_) s hs
  unfold computeFeed
  exact h.modTrack _ _ (h.modPort _ _ u hu)

theorem levelTick (c : Copy) (data : Option (List Byte)) (s : State) (hs : P s) : P (levelTick t c data s) := by
  rw [levelTick_eq]
  exact h.modTrack _ _ (h.clampTrack _ _ (h.raiseIf _ _ _ (h.modTrack _ _ (h.computeFeeds _ _ _ _ _ _ (h.setTrack _ s hs)))))

theorem playBlock (c : Copy) (entryStart : Bool) (s : State) (hs : P s) : P (playBlock t c entryStart s) := by
  have hset (b : Bool) : P (if b then (Machine.consume t s).2.setTrack t ((Machine.consume t s).2.track t).transfer
      else (Machine.consume t s).2) := by
    cases b
    · exact h.consume s hs
    · exact h.setTrack _ _ (h.consume s hs)
  unfold Machine.playBlock
  dsimp only
  refine h.walk _ (h.levelTick _ _ _ ?_)
  split
  · exact h.clampTrack _ _ (hset _)
  · exact hset _

theorem pulseMarkers (mask : BitVec 4) (s : State) (hs : P s) : P (pulseMarkers mask s) :=
  forEach_inv _ pulseMarker P (fun u m hu => h.pulse m u hu) s hs

theorem startActions (e : CueEntry) (s : State) (hs : P s) : P (startActions t e s) :=
  h.raiseIf _ _ _ (h.pulseMarkers _ _ (h.flagAction _ _ s hs))

theorem faultTrack (reason : FaultReason) (i : CueIndex) (s : State) (hs : P s) : P (faultTrack t reason i s) := by
  have hdiscarded := h.discardAll s hs
  unfold Machine.faultTrack
  generalize Machine.discardAll t s = u at hdiscarded ⊢
  exact h.raise _ _ (h.modTrack _ u hdiscarded)

theorem completeStop (cause : Cause) (s : State) (hs : P s) : P (completeStop t cause s) := by
  have hdiscarded := h.discardAll s hs
  unfold Machine.completeStop restartWalk
  generalize Machine.discardAll t s = u at hdiscarded ⊢
  exact h.walk _ (h.modTrack _ _ (h.raise _ _ (h.modTrack _ u hdiscarded)))

theorem beginFront (s : State) (hs : P s) : P (beginFront t s) := by
  unfold Machine.beginFront
  split
  · exact hs
  · split
    · exact h.faultTrack _ _ s hs
    · exact h.playBlock _ _ _ (h.startActions _ _ (h.modTrack _ s hs))

theorem beginNext (leave : Track → Track) (s : State) (hs : P s) : P (beginNext t leave s) := by
  unfold Machine.beginNext
  split
  · exact h.beginFront _ (h.modTrack _ s hs)
  · exact hs

theorem resolveSplit (chosen : PathTag) (s : State) (hs : P s) : P (resolveSplit t chosen s) :=
  h.lookahead (resolveSplit_work t chosen s) hs

theorem resolveIf (c : Copy) (s : State) (hs : P s) : P (resolveIf t c s) := by
  unfold Machine.resolveIf
  dsimp only
  refine h.beginNext _ _ ?_
  generalize (if s.branchTaken c.entry = true then PathTag.taken else PathTag.fall) = chosen
  split
  · exact h.resolveSplit _ s hs
  · exact hs

theorem holdBoundary (s : State) (hs : P s) : P (holdBoundary t s) := by
  unfold Machine.holdBoundary
  split
  · exact h.completeStop _ s hs
  · split
    · exact h.beginNext _ s hs
    · exact h.modTrack _ s hs

theorem followEntry (c : Copy) (s : State) (hs : P s) : P (followEntry t c s) := by
  unfold Machine.followEntry
  split
  · unfold Machine.afterTrailing
    split
    · exact h.faultTrack _ _ s hs
    · exact h.beginNext _ s hs
  · split
    · exact h.beginNext _ s hs
    · split
      · exact h.beginNext _ s hs
      · exact h.beginNext _ s hs
      · exact h.beginNext _ s hs
      · split
        · exact h.beginNext _ s hs
        · exact h.faultTrack _ _ s hs
      · exact h.resolveIf c s hs
      · exact h.resolveIf c s hs
      · exact h.holdBoundary s hs
      · exact h.completeStop _ s hs

theorem boundary (c : Copy) (s : State) (hs : P s) : P (boundary t c s) := by
  unfold Machine.boundary
  dsimp only
  split
  · exact h.completeStop _ s hs
  · split
    · exact h.playBlock _ _ _ (h.setTrack _ s hs)
    · exact h.followEntry c s hs

theorem playTick (s : State) (hs : P s) : P (playTick t s) := by
  unfold Machine.playTick
  dsimp only
  split
  · exact h.completeStop _ s hs
  · split
    · exact hs
    · split
      · exact h.boundary _ _ (h.setTrack _ s hs)
      · exact h.playBlock _ _ _ (h.setTrack _ s hs)

theorem startTick (s : State) (hs : P s) : P (startTick t s) := by
  unfold Machine.startTick
  split
  · unfold beginTrack
    split
    · exact hs
    · split
      · exact h.faultTrack _ _ s hs
      · exact h.raise _ _ (h.beginFront _ (h.modTrack _ s hs))
  · split
    · exact h.raise _ _ (h.modTrack _ s hs)
    · exact h.modTrack _ s hs

theorem holdTick (s : State) (hs : P s) : P (holdTick t s) := by
  unfold Machine.holdTick
  dsimp only
  split
  · exact h.completeStop _ s hs
  · split
    · exact h.beginNext _ s hs
    · exact h.setTrack _ s hs

/-- A turn not taken yet. -/
theorem trackTick {s : State} (hdone : s.trackDone t = false) (hs : P (s.markTrack t)) : P (trackTick t s) := by
  unfold Machine.trackTick
  dsimp only
  rw [if_neg (Bool.eq_false_iff.mp hdone)]
  split
  · exact h.startTick _ hs
  · exact h.holdTick _ hs
  · exact h.playTick _ hs
  · exact h.playTick _ hs
  all_goals exact h.modTrack _ _ hs

end KeptInTurn

/-! ### The bookkeeping of a tick start -/

theorem flagAction_frame (s : State) (a : FlagAction) (f : FlagId) : { s.flagAction a f with flags := s.flags } = s := by
  cases a <;> rfl

theorem pulseMarker_frame (s : State) (m : LineId) :
    { pulseMarker s m with lines := { (pulseMarker s m).lines with markers := s.lines.markers } } = s := by
  unfold pulseMarker
  split <;> rfl

/-- Within a turn no part is marked as taken. -/
theorem workStands_turn (t : TrackId) (w : TickWork) : KeptInTurn t fun s => s.work = w where
  setTrack _ _ hs := hs
  raise _ _ hs := hs
  lookahead h hs := h.work.trans hs
  modPort _ _ _ hs := hs
  flagAction a f s hs := by
    rw [← hs]
    exact (congrArg State.work (flagAction_frame s a f) :)
  pulse m s hs := by
    rw [← hs]
    exact (congrArg State.work (pulseMarker_frame s m) :)

theorem trackTick_done {t : TrackId} {s : State} (h : s.trackDone t = true) : trackTick t s = s := if_pos h

theorem trackTick_takes {t : TrackId} {s : State} (h : s.trackDone t = false) :
    (trackTick t s).work = (s.markTrack t).work := (workStands_turn t (s.markTrack t).work).trackTick h rfl

/-- A turn marks its own track and no other. -/
theorem trackTick_trackDone (t k : TrackId) (s : State) :
    (trackTick t s).trackDone k = (decide (t = k) || s.trackDone k) := by
  cases hdone : s.trackDone t with
  | true =>
    rw [trackTick_done hdone]
    by_cases htk : t = k
    · rw [← htk, hdone, Bool.or_true]
    · rw [decide_eq_false htk, Bool.false_or]
  | false =>
    rw [State.trackDone, trackTick_takes hdone]
    exact State.markTrack_trackDone s t k

theorem trackTick_released (t : TrackId) (s : State) : (trackTick t s).work.released = s.work.released := by
  cases hdone : s.trackDone t with
  | true => rw [trackTick_done hdone]
  | false =>
    rw [trackTick_takes hdone]
    rfl

/-! ### A track beside the turns of the others -/

/-- From `s` to `u` track `k` has at most lost and changed its slots' states, and its notice record stands. -/
structure Beside (k : TrackId) (s u : State) : Prop where
  track : (s.track k).SameBut (u.track k)
  notice : u.notice (trackSource k) = s.notice (trackSource k)
  timeline : u.timeline = s.timeline

/-- Track `k` still waits for its turn in `u`, with what its turn looks at as in `s`. -/
structure Waiting (k : TrackId) (s u : State) : Prop extends Beside k s u where
  clips : u.store.clips = s.store.clips
  released : u.work.released = s.work.released
  done : u.trackDone k = s.trackDone k
  markers : ∀ m, (u.marker m).mode = (s.marker m).mode ∧ (u.marker m).width = (s.marker m).width
  stay : s.PulsesStay u

theorem Beside.refl (k : TrackId) (s : State) : Beside k s s := ⟨.refl _, rfl, rfl⟩

theorem Beside.trans {k : TrackId} {s u v : State} (h : Beside k s u) (g : Beside k u v) : Beside k s v :=
  ⟨h.track.trans g.track, g.notice.trans h.notice, g.timeline.trans h.timeline⟩

theorem Waiting.refl (k : TrackId) (s : State) : Waiting k s s :=
  ⟨.refl k s, rfl, rfl, rfl, fun _ => ⟨rfl, rfl⟩, .refl s⟩

theorem Waiting.trans {k : TrackId} {s u v : State} (h : Waiting k s u) (g : Waiting k u v) : Waiting k s v :=
  ⟨h.toBeside.trans g.toBeside, g.clips.trans h.clips, g.released.trans h.released, g.done.trans h.done,
    fun m => ⟨(g.markers m).1.trans (h.markers m).1, (g.markers m).2.trans (h.markers m).2⟩, h.stay.trans g.stay⟩

theorem trackSource_inj {j k : TrackId} (h : trackSource j = trackSource k) : j = k := by
  have := congrArg Fin.val h
  exact Fin.ext (by simpa [trackSource] using this)

theorem TrackWork.beside {t k : TrackId} (htk : k ≠ t) {s u : State} (h : TrackWork t s u) : Beside k s u :=
  ⟨h.others k htk, h.notices _ (.inr (trackSource_range k)) fun heq => htk (trackSource_inj heq), h.timeline⟩

theorem trackTick_waiting {t k : TrackId} (htk : k ≠ t) (s : State) : Waiting k s (trackTick t s) := by
  have hwork := trackTick_work t s
  refine ⟨hwork.beside htk, hwork.clips, trackTick_released t s, ?_, fun m => ⟨?_, ?_⟩, trackTick_stay t s⟩
  · rw [trackTick_trackDone, decide_eq_false (Ne.symm htk), Bool.false_or]
  · exact (congrArg MarkerLine.mode (hwork.markers m) :)
  · exact (congrArg MarkerLine.width (hwork.markers m) :)

/-- The turns of other tracks, and those of a track that has had its turn. -/
theorem forEach_trackTick_waiting {k : TrackId} (ts : List TrackId) (s : State) (h : k ∉ ts ∨ s.trackDone k = true) :
    Waiting k s (forEach ts (fun u t => trackTick t u) s) := by
  induction ts generalizing s with
  | nil => exact .refl k s
  | cons t r ih =>
    by_cases htk : k = t
    · subst htk
      have hdone : s.trackDone k = true := h.resolve_left fun hnot => hnot List.mem_cons_self
      have hstep : trackTick k s = s := trackTick_done hdone
      have hrest := ih s (.inr hdone)
      have heq : forEach (k :: r) (fun u t => trackTick t u) s = forEach r (fun u t => trackTick t u) (trackTick k s) := rfl
      rw [heq, hstep]
      exact hrest
    · have hstep := trackTick_waiting htk s
      refine hstep.trans (ih (trackTick t s) ?_)
      rw [hstep.done]
      exact h.imp_left fun hnot hmem => hnot (List.mem_cons_of_mem t hmem)

/-- Among the turns of the tracks in a list, that of track `k` is taken once. -/
theorem forEach_trackTick_turn {k : TrackId} {ts : List TrackId} (hk : k ∈ ts) (s : State) (h : s.trackDone k = false) :
    ∃ v, Waiting k s v ∧ Waiting k (trackTick k v) (forEach ts (fun u t => trackTick t u) s) := by
  induction ts generalizing s with
  | nil => cases hk
  | cons t r ih =>
    by_cases htk : k = t
    · subst htk
      refine ⟨s, .refl k s, forEach_trackTick_waiting r (trackTick k s) (.inr ?_)⟩
      rw [trackTick_trackDone, decide_eq_true rfl, Bool.true_or]
    · have hstep := trackTick_waiting htk s
      have hr : k ∈ r := (List.mem_cons.mp hk).resolve_left htk
      obtain ⟨v, hbefore, hafter⟩ := ih hr (trackTick t s) (hstep.done.trans h)
      exact ⟨v, hstep.trans hbefore, hafter⟩

/-- The opened tick start once the flag unit has judged. -/
def State.judged (s : State) : State := if s.work.flags then s else judgeFlags s

/-- At a tick start each track has its turn once. -/
theorem tickStart_turn {k : TrackId} {s : State} (h : (openTick s).judged.trackDone k = false) :
    ∃ v, Waiting k (openTick s).judged v ∧ Beside k (trackTick k v) (tickStart s) := by
  have hflags : flagPart (openTick s) = (openTick s).judged ∨
      flagPart (openTick s) = forEach (allTracks.filter (openTick s).judged.isReleased) (fun s t => trackTick t s)
        (openTick s).judged := by
    unfold flagPart State.judged
    split
    · exact .inl rfl
    · exact .inr rfl
  have hall (k : TrackId) : k ∈ allTracks := List.mem_finRange k
  have hend (u : State) : Beside k u { u with work := TickWork.none } := ⟨.refl _, rfl, rfl⟩
  generalize hjudged : (openTick s).judged = o at *
  obtain hpart | hpart := hflags
  · obtain ⟨v, hbefore, hafter⟩ := forEach_trackTick_turn (hall k) o h
    refine ⟨v, hbefore, hafter.toBeside.trans ?_⟩
    rw [← hpart]
    exact hend _
  · by_cases hreleased : k ∈ allTracks.filter o.isReleased
    · obtain ⟨v, hbefore, hafter⟩ := forEach_trackTick_turn hreleased o h
      refine ⟨v, hbefore, hafter.toBeside.trans ?_⟩
      rw [← hpart] at hafter ⊢
      have hdone : (flagPart (openTick s)).trackDone k = true := by
        rw [hafter.done, trackTick_trackDone, decide_eq_true rfl, Bool.true_or]
      exact (forEach_trackTick_waiting allTracks _ (.inr hdone)).toBeside.trans (hend _)
    · have hothers := forEach_trackTick_waiting (allTracks.filter o.isReleased) o (.inl hreleased)
      rw [← hpart] at hothers
      obtain ⟨v, hbefore, hafter⟩ := forEach_trackTick_turn (hall k) (flagPart (openTick s)) (hothers.done.trans h)
      exact ⟨v, hothers.trans hbefore, hafter.toBeside.trans (hend _)⟩

end Sys2Proof.Machine
end

section
/-! PROOFS. What playing a block leaves of its own track (R38, R54, R55, R79, R90, R91, R93), aside from what the
lookahead and the level unit's interpolators hold (`Track.core`). -/

namespace Sys2Proof.Machine

/-! ### A track aside from its lookahead -/

/-- A track aside from its queue, ring and walk, its interpolators, its fault counts and SHORT. -/
def Track.core (x : Track) : Track :=
  { x with
    queue := []
    ring := []
    walk := Walk.stopped
    primed := false
    interps := Vector.replicate 4 none
    underruns := 0
    readFaults := 0
    short := false }

theorem Track.SameBut.core {a b : Track} (h : a.SameBut b) : b.core = a.core :=
  (congrArg Track.core h.1 :)

/-- The lookahead of a track that does not wait for priming. -/
theorem LookaheadWork.core {t : TrackId} {s u : State} (h : LookaheadWork t s u) (hstate : (s.track t).state ≠ .priming) :
    (u.track t).core = (s.track t).core := by
  have hsame : (u.track t).state = (s.track t).state := by
    obtain ⟨h, -, -⟩ | ⟨h, -⟩ := h.primed
    · exact h
    · exact absurd h hstate
  have hcore := congrArg Track.core h.own
  rw [← hcore, Track.core, hsame]
  rfl

theorem LookaheadWork.notice_own {t : TrackId} {s u : State} (h : LookaheadWork t s u)
    (hstate : (s.track t).state ≠ .priming) : u.notice (trackSource t) = s.notice (trackSource t) := by
  obtain ⟨-, h, -⟩ | ⟨h, -⟩ := h.primed
  · exact h
  · exact absurd h hstate

/-! ### The front slot (R38, R74) -/

theorem Track.skipBlock_core (x : Track) : x.skipBlock.core = x.core := by
  unfold Track.skipBlock
  split
  · split <;> rfl
  · rfl

theorem underrun_core (t : TrackId) (s : State) : ((underrun t s).track t).core = (s.track t).core := by
  rw [underrun, State.raise_track, State.modTrack_track_same]
  rfl

theorem readFault_core (t : TrackId) (s : State) : ((readFault t s).track t).core = (s.track t).core := by
  rw [readFault, State.raise_track, State.modTrack_track_same]
  rfl

theorem dropSlots_core (t : TrackId) (dead : List Nat) (s : State) :
    ((dropSlots t dead s).track t).core = (s.track t).core := by
  have hown := dropSlots_own t dead s
  generalize (dropSlots t dead s).track t = v at hown ⊢
  rw [hown]
  rfl

/-- No slot of the block that plays now stands in front. -/
def Track.lacksSlot (x : Track) : Prop := ∀ f q, x.ring = f :: q → f.path ≠ .main

theorem consume_lacks {t : TrackId} {s : State} (h : (s.track t).lacksSlot) :
    consume t s = (none, underrun t (s.modTrack t Track.skipBlock)) := by
  unfold consume
  split
  · rfl
  next f q hring => exact if_pos (h f q hring)

section
variable {t : TrackId} {s : State} {f : Slot} {q : List Slot} (hring : (s.track t).ring = f :: q) (hmain : f.path = .main)
include hring hmain

theorem consume_filled (h : f.state = .filled) :
    consume t s = (if f.clip.isSome then some f.data else none, dropSlots t [f.id] s) := by
  unfold consume
  generalize dropSlots t = drop
  rw [hring]
  dsimp only
  rw [if_neg (not_not_intro hmain), h]

theorem consume_faulty (h : f.state = .faulty) : consume t s = (none, readFault t (dropSlots t [f.id] s)) := by
  unfold consume
  generalize dropSlots t = drop
  rw [hring]
  dsimp only
  rw [if_neg (not_not_intro hmain), h]

theorem consume_unread (h : f.state ≠ .filled) (h' : f.state ≠ .faulty) :
    consume t s = (none, underrun t (dropSlots t [f.id] s)) := by
  unfold consume
  generalize dropSlots t = drop
  rw [hring]
  dsimp only
  rw [if_neg (not_not_intro hmain)]
  cases hstate : f.state with
  | filled => exact absurd hstate h
  | faulty => exact absurd hstate h'
  | wanted | queued | reading => exact rfl

end

/-- What the front slot is at a tick that plays a block. -/
theorem consume_cases (t : TrackId) (s : State) :
    (s.track t).lacksSlot ∨ ∃ f q, (s.track t).ring = f :: q ∧ f.path = .main := by
  cases hring : (s.track t).ring with
  | nil => exact .inl fun f q h => absurd (hring.symm.trans h) (List.cons_ne_nil f q).symm
  | cons f q =>
    by_cases hmain : f.path = .main
    · exact .inr ⟨f, q, rfl, hmain⟩
    · refine .inl fun g p h => ?_
      obtain ⟨rfl, rfl⟩ := List.cons_eq_cons.mp (hring.symm.trans h)
      exact hmain

/-- Consuming leaves the track but for ring, walk and counts. -/
theorem consume_core (t : TrackId) (s : State) : ((consume t s).2.track t).core = (s.track t).core := by
  obtain hlacks | ⟨f, q, hring, hmain⟩ := consume_cases t s
  · rw [consume_lacks hlacks, underrun_core, State.modTrack_track_same, Track.skipBlock_core]
  · by_cases hfilled : f.state = .filled
    · rw [consume_filled hring hmain hfilled, dropSlots_core]
    · by_cases hfaulty : f.state = .faulty
      · rw [consume_faulty hring hmain hfaulty, readFault_core, dropSlots_core]
      · rw [consume_unread hring hmain hfilled hfaulty, underrun_core, dropSlots_core]

/-! ### The block's parameters (R54, R90) -/

/-- The waiting set becomes active before the block is computed. -/
def Track.takesSet (x : Track) (c : Copy) (entryStart : Bool) : Bool :=
  x.transferPoint entryStart c.entry && x.stagedPending

/-- The track with the set that is active while the block plays. -/
def Track.withSet (x : Track) (c : Copy) (entryStart : Bool) : Track :=
  if x.takesSet c entryStart then x.transfer else x

/-- The transfer and the clamp that precede the block. -/
def State.readied (s : State) (t : TrackId) (c : Copy) (entryStart : Bool) : State :=
  let x := s.track t
  let u := if x.takesSet c entryStart then s.setTrack t x.transfer else s
  if x.takesSet c entryStart || entryStart then clampTrack t c.entry u else u

theorem playBlock_eq (t : TrackId) (c : Copy) (entryStart : Bool) (s : State) : playBlock t c entryStart s =
    walk t (levelTick t c (consume t s).1 ((consume t s).2.readied t c entryStart)) := rfl

/-- The detune with which the block is computed. -/
def State.blockDetune (s : State) (x : Track) (c : Copy) (entryStart : Bool) : Int :=
  let p := x.withSet c entryStart
  if x.takesSet c entryStart || entryStart then s.clampedDetune c.entry p.active.detune else p.active.detune

/-- EDGE as the clamp before the block leaves it. -/
def State.blockEdge (s : State) (x : Track) (c : Copy) (entryStart : Bool) : Bool :=
  x.edge || ((x.takesSet c entryStart || entryStart) && s.clampsDetune c.entry (x.withSet c entryStart).active.detune)

/-- What playing a block leaves of a track, aside from what `Track.core` sets aside. -/
def State.blockPlayed (s : State) (x : Track) (c : Copy) (entryStart : Bool) : Track :=
  let p := x.withSet c entryStart
  let d := s.blockDetune x c entryStart
  { p with
    active := { p.active with detune := s.clampedDetune c.entry (d + p.active.sweep) }
    edge := s.blockEdge x c entryStart || s.clampsDetune c.entry (d + p.active.sweep)
    nco := p.nco + 4096 * ncoWord (c.entry.freq + d)
    gatePhase := p.gateNext.1
    gateCounter := p.gateNext.2 }

theorem Track.withSet_edge (x : Track) (c : Copy) (entryStart : Bool) : (x.withSet c entryStart).edge = x.edge := by
  unfold Track.withSet
  split
  · rw [Track.transfer_eq]
  · rfl

theorem Track.withSet_queue (x : Track) (c : Copy) (entryStart : Bool) : (x.withSet c entryStart).queue = x.queue := by
  unfold Track.withSet
  split
  · rw [Track.transfer_eq]
  · rfl

theorem readied_track (s : State) (t : TrackId) (c : Copy) (entryStart : Bool) :
    (s.readied t c entryStart).track t = { (s.track t).withSet c entryStart with
      active := { ((s.track t).withSet c entryStart).active with detune := s.blockDetune (s.track t) c entryStart }
      edge := s.blockEdge (s.track t) c entryStart } := by
  have hset : (if (s.track t).takesSet c entryStart then s.setTrack t (s.track t).transfer else s).track t =
      (s.track t).withSet c entryStart := by
    unfold Track.withSet
    split
    · exact State.setTrack_track_same ..
    · rfl
  have hstore : (if (s.track t).takesSet c entryStart then s.setTrack t (s.track t).transfer else s).store = s.store := by
    split <;> rfl
  unfold State.readied State.blockDetune State.blockEdge
  dsimp only
  generalize (if (s.track t).takesSet c entryStart then s.setTrack t (s.track t).transfer else s) = u at hset hstore ⊢
  have hedge := (s.track t).withSet_edge c entryStart
  cases (s.track t).takesSet c entryStart || entryStart with
  | false =>
    rw [if_neg Bool.false_ne_true, if_neg Bool.false_ne_true, Bool.false_and, Bool.or_false, hset, ← hedge]
  | true =>
    rw [if_pos rfl, if_pos rfl, Bool.true_and, clampTrack_own, clampedDetune_congr hstore, clampsDetune_congr hstore, hset,
      hedge]

theorem readied_store (s : State) (t : TrackId) (c : Copy) (entryStart : Bool) :
    (s.readied t c entryStart).store = s.store := by
  have hclamp (u : State) : (clampTrack t c.entry u).store = u.store := by
    unfold clampTrack
    dsimp only
    split <;> rfl
  unfold State.readied
  dsimp only
  split
  · rw [hclamp]
    split <;> rfl
  · split <;> rfl

/-- A block that plays looks at the parameters of its track and at the clips alone. -/
theorem blockPlayed_core (s : State) (x : Track) (c : Copy) (entryStart : Bool) :
    (s.blockPlayed x.core c entryStart).core = (s.blockPlayed x c entryStart).core := by
  have hset : (x.core.withSet c entryStart) = (x.withSet c entryStart).core := by
    unfold Track.withSet Track.transfer Track.restartGate
    have htakes : x.core.takesSet c entryStart = x.takesSet c entryStart := rfl
    rw [htakes]
    split
    · have hpending : x.core.stagedPending = x.stagedPending := rfl
      have hgate : x.core.gateMark = x.gateMark := rfl
      rw [hpending, hgate]
      split
      · split <;> rfl
      · rfl
    · rfl
  unfold State.blockPlayed State.blockEdge State.blockDetune
  rw [hset]
  rfl

theorem entryD_of_clips {s u : State} (h : u.store.clips = s.store.clips) (e : CueEntry) : u.entryD e = s.entryD e := by
  unfold State.entryD State.clip
  rw [h]

theorem blockPlayed_congr {s u : State} (h : u.store.clips = s.store.clips) (x : Track) (c : Copy) (entryStart : Bool) :
    u.blockPlayed x c entryStart = s.blockPlayed x c entryStart := by
  unfold State.blockPlayed State.blockEdge State.blockDetune State.clampedDetune State.clampsDetune
  rw [entryD_of_clips h]

theorem blockPlayed_of_core {s : State} {x y : Track} (h : y.core = x.core) (c : Copy) (entryStart : Bool) :
    (s.blockPlayed y c entryStart).core = (s.blockPlayed x c entryStart).core := by
  rw [← blockPlayed_core s y, h, blockPlayed_core]

theorem levelTick_core (t : TrackId) (c : Copy) (data : Option (List Byte)) (entryStart : Bool) (s : State) :
    ((levelTick t c data (s.readied t c entryStart)).track t).core = (s.blockPlayed (s.track t) c entryStart).core := by
  obtain ⟨interps, hown⟩ := levelTick_own t c data (s.readied t c entryStart)
  have hstore := readied_store s t c entryStart
  rw [hown]
  unfold State.sweptDetune State.blockPlayed Track.tickWord
  generalize (s.readied t c entryStart).short = short
  rw [clampedDetune_congr hstore, clampsDetune_congr hstore, readied_track]
  rfl

theorem Track.withSet_state (x : Track) (c : Copy) (entryStart : Bool) : (x.withSet c entryStart).state = x.state := by
  unfold Track.withSet
  split
  · rw [Track.transfer_eq]
  · rfl

/-- What playing a block leaves of its track. -/
theorem playBlock_core {t : TrackId} {c : Copy} {entryStart : Bool} {s : State} (hstate : (s.track t).state ≠ .priming) :
    ((playBlock t c entryStart s).track t).core = (s.blockPlayed (s.track t) c entryStart).core := by
  have hcore := consume_core t s
  have hclips : (consume t s).2.store.clips = s.store.clips := (consume_work t s).clips
  rw [playBlock_eq]
  generalize (consume t s).1 = data
  generalize (consume t s).2 = u at hcore hclips ⊢
  have hlevel := levelTick_core t c data entryStart u
  rw [blockPlayed_congr hclips, blockPlayed_of_core hcore] at hlevel
  have hplays : ((levelTick t c data (u.readied t c entryStart)).track t).state ≠ .priming := by
    have hsame : ((levelTick t c data (u.readied t c entryStart)).track t).state = (s.track t).state := by
      exact (congrArg Track.state hlevel :).trans (Track.withSet_state ..)
    rwa [hsame]
  exact ((walk_work t _).core hplays).trans hlevel

/-- The block's entry stays in front. -/
theorem playBlock_front {t : TrackId} {c d : Copy} {r : List Copy} {entryStart : Bool} {s : State}
    (hqueue : (s.track t).queue = d :: r) :
    ∃ e q, ((playBlock t c entryStart s).track t).queue = e :: q ∧ d.Prepared e := by
  have htaken := consume_queue t s
  rw [playBlock_eq]
  generalize (consume t s).1 = data
  generalize (consume t s).2 = u at htaken ⊢
  obtain ⟨kept, new, hwalk, hkept, -⟩ := walk_queue t (levelTick t c data (u.readied t c entryStart))
  have hlevel : ((levelTick t c data (u.readied t c entryStart)).track t).queue = d :: r := by
    obtain ⟨interps, hown⟩ := levelTick_own t c data (u.readied t c entryStart)
    rw [hown, readied_track]
    exact ((u.track t).withSet_queue c entryStart).trans (htaken.trans hqueue)
  rw [hlevel] at hkept
  obtain ⟨e, q, hfront, -, rfl⟩ := List.forall₂_cons_left_iff.mp hkept
  exact ⟨e, q ++ new, hwalk, hfront⟩

/-! ### What the block leaves, field by field -/

/-- The set is taken within a play under the NOW mark alone (R54). -/
theorem Track.takesSet_within (x : Track) (c : Copy) : x.takesSet c false = (x.nowMark && x.stagedPending) := by
  rw [Track.takesSet, Track.transferPoint, Bool.false_and, Bool.or_false]

/-- At an entry start it is taken in mode EVERY and at an entry with apply too (R54). -/
theorem Track.takesSet_start (x : Track) (c : Copy) : x.takesSet c true = true ↔
    x.stagedPending = true ∧ (x.nowMark = true ∨ x.active.mode = .every ∨ c.entry.apply = true) := by
  simp [Track.takesSet, Track.transferPoint, and_comm]

theorem Track.takesSet_waits {x : Track} (c : Copy) (h : x.nowMark = false ∨ x.stagedPending = false) :
    x.takesSet c false = false := by
  rw [Track.takesSet_within]
  obtain h | h := h
  · rw [h, Bool.false_and]
  · rw [h, Bool.and_false]

/-- A transfer as R54 gives it. -/
theorem Track.transfer_pending {x : Track} (h : x.stagedPending = true) : x.transfer =
    { x with
      active := x.staged
      stagedPending := false
      nowMark := false
      gateMark := false
      gatePhase := if x.gateMark then .on else x.gatePhase
      gateCounter := if x.gateMark then 0 else x.gateCounter } := by
  unfold Track.transfer Track.restartGate
  rw [if_pos h]
  cases hgate : x.gateMark <;> rfl

theorem Track.transfer_none {x : Track} (h : x.stagedPending = false) : x.transfer = x :=
  if_neg (Bool.eq_false_iff.mp h)

theorem Track.transfer_active (x : Track) : x.transfer.active = if x.stagedPending then x.staged else x.active := by
  cases h : x.stagedPending with
  | true => rw [x.transfer_pending h, if_pos rfl]
  | false => rw [x.transfer_none h, if_neg Bool.false_ne_true]

theorem Track.transfer_stagedPending (x : Track) : x.transfer.stagedPending = false := by
  cases h : x.stagedPending with
  | true => rw [x.transfer_pending h]
  | false => rw [x.transfer_none h, h]

section
variable {s : State} {x y : Track} {c : Copy} {entryStart : Bool}

/-- What playing a block never touches. -/
theorem blockPlayed_rest (h : y.core = (s.blockPlayed x c entryStart).core) :
    { y.core with
      active := x.active
      stagedPending := x.stagedPending
      nowMark := x.nowMark
      gateMark := x.gateMark
      gatePhase := x.gatePhase
      gateCounter := x.gateCounter
      edge := x.edge
      nco := x.nco } = x.core := by
  rw [h]
  unfold State.blockPlayed
  dsimp only
  unfold Track.withSet
  split
  · rw [Track.transfer_eq]
    rfl
  · rfl

/-- Within a play, where no set is taken (R55, R90, R91, R93). -/
theorem blockPlayed_within (h : y.core = (s.blockPlayed x c false).core) (hset : x.takesSet c false = false) :
    y.active = { x.active with detune := s.clampedDetune c.entry (x.active.detune + x.active.sweep) } ∧
      y.edge = (x.edge || s.clampsDetune c.entry (x.active.detune + x.active.sweep)) ∧
      y.nco = x.nco + 4096 * ncoWord (c.entry.freq + x.active.detune) ∧ y.gatePhase = x.gateNext.1 ∧
      y.gateCounter = x.gateNext.2 ∧ y.stagedPending = x.stagedPending := by
  have hwith : x.withSet c false = x := if_neg (Bool.eq_false_iff.mp hset)
  have hdetune : s.blockDetune x c false = x.active.detune := by
    unfold State.blockDetune
    rw [hset, hwith]
    rfl
  have hedge : s.blockEdge x c false = x.edge := by
    unfold State.blockEdge
    rw [hset]
    exact Bool.or_false _
  have hplayed := h
  unfold State.blockPlayed at hplayed
  rw [hwith, hdetune, hedge] at hplayed
  exact ⟨(congrArg Track.active hplayed :), (congrArg Track.edge hplayed :), (congrArg Track.nco hplayed :),
    (congrArg Track.gatePhase hplayed :), (congrArg Track.gateCounter hplayed :), (congrArg Track.stagedPending hplayed :)⟩

/-- Where a set is taken or an entry starts, the clamp comes before the block (R54, R90). -/
theorem blockPlayed_clamped (h : y.core = (s.blockPlayed x c entryStart).core)
    (hclamps : (x.takesSet c entryStart || entryStart) = true) :
    let p := if x.takesSet c entryStart then x.staged else x.active
    let d := s.clampedDetune c.entry p.detune
    y.active = { p with detune := s.clampedDetune c.entry (d + p.sweep) } ∧
      y.nco = x.nco + 4096 * ncoWord (c.entry.freq + d) := by
  have hactive : (x.withSet c entryStart).active = if x.takesSet c entryStart then x.staged else x.active := by
    unfold Track.withSet
    cases hset : x.takesSet c entryStart with
    | true =>
      have hpending : x.stagedPending = true := (Bool.and_eq_true_iff.mp hset).2
      exact x.transfer_active.trans (if_pos hpending)
    | false => rfl
  have hnco : (x.withSet c entryStart).nco = x.nco := by
    unfold Track.withSet
    split
    · rw [Track.transfer_eq]
    · rfl
  have hplayed := h
  unfold State.blockPlayed State.blockDetune at hplayed
  dsimp only at hplayed
  rw [if_pos hclamps, hactive, hnco] at hplayed
  exact ⟨(congrArg Track.active hplayed :), (congrArg Track.nco hplayed :)⟩

/-- The marks of a set that is taken, and of one that goes on waiting (R54). -/
theorem blockPlayed_marks (h : y.core = (s.blockPlayed x c entryStart).core) :
    (x.takesSet c entryStart = true → y.stagedPending = false ∧ y.nowMark = false ∧ y.gateMark = false) ∧
      (x.takesSet c entryStart = false → y.stagedPending = x.stagedPending ∧ y.nowMark = x.nowMark ∧
        y.gateMark = x.gateMark) := by
  have hmarks : ∀ z : Track, x.withSet c entryStart = z →
      y.stagedPending = z.stagedPending ∧ y.nowMark = z.nowMark ∧ y.gateMark = z.gateMark := by
    intro z hz
    subst hz
    exact ⟨(congrArg Track.stagedPending h :), (congrArg Track.nowMark h :), (congrArg Track.gateMark h :)⟩
  refine ⟨fun hset => ?_, fun hset => hmarks x (if_neg (Bool.eq_false_iff.mp hset))⟩
  have hpending : x.stagedPending = true := (Bool.and_eq_true_iff.mp hset).2
  exact hmarks _ ((if_pos hset).trans (x.transfer_pending hpending))

end

/-- A gate that does not run stands; one that runs changes phase at its length and counts on before it (R55). -/
theorem Track.gateNext_cases (x : Track) :
    (x.active.gateOn = 0 ∨ x.active.gateOff = 0 → x.gateNext = (x.gatePhase, x.gateCounter)) ∧
      (x.active.gateOn ≠ 0 → x.active.gateOff ≠ 0 →
        x.gateNext = if (if x.gatePhase = .on then x.active.gateOn else x.active.gateOff) ≤ x.gateCounter + 1 then
          (x.gatePhase.other, 0) else (x.gatePhase, x.gateCounter + 1)) := by
  have hlength : x.gateLength = if x.gatePhase = .on then x.active.gateOn else x.active.gateOff := by
    unfold Track.gateLength
    cases x.gatePhase <;> rfl
  rw [Track.gateNext_eq, ← hlength]
  unfold Track.gateRuns
  refine ⟨fun h => ?_, fun hon hoff => ?_⟩
  · rw [if_neg]
    obtain h | h := h <;> simp [h]
  · rw [if_pos]
    simp [hon, hoff]

theorem GatePhase.other_ne (g : GatePhase) : g.other ≠ g := by cases g <;> decide

/-! ### Causes raised in a turn (R190) -/

theorem State.shows_raise (s : State) (n : SourceId) {c : Cause} (d : Cause) (h : s.shows n c = true) :
    (s.raise n d).shows n c = true := by
  unfold State.shows at h ⊢
  rw [State.raise_notice, if_pos rfl]
  cases hn : s.notice n with
  | none =>
    rw [hn] at h
    cases h
  | some r =>
    rw [hn] at h
    have hbit : r.causes.getLsbD c.bit = true := h
    exact (BitVec.getLsbD_or ..).trans (by rw [hbit, Bool.true_or])

/-- A cause that stands in the track's record goes on standing there. -/
theorem shows_turn (t : TrackId) (c : Cause) : KeptInTurn t fun s => s.shows (trackSource t) c = true where
  setTrack _ _ hs := hs
  raise d s hs := s.shows_raise _ d hs
  lookahead {s u} h hs := by
    obtain ⟨-, hnotice, -⟩ | ⟨-, -, -, -, hnotice⟩ := h.primed
    · unfold State.shows
      rw [hnotice]
      exact hs
    · have hraised := s.shows_raise (trackSource t) .primed hs
      unfold State.shows at hraised ⊢
      rwa [State.raise_notice, if_pos rfl, ← hnotice] at hraised
  modPort _ _ _ hs := hs
  flagAction a f s hs := by
    have hstand : (s.flagAction a f).notices = s.notices := (congrArg State.notices (flagAction_frame s a f) :)
    unfold State.shows State.notice
    rw [hstand]
    exact hs
  pulse m s hs := by
    have hstand : (pulseMarker s m).notices = s.notices := (congrArg State.notices (pulseMarker_frame s m) :)
    unfold State.shows State.notice
    rw [hstand]
    exact hs

end Sys2Proof.Machine
end

section
/-! PROOFS. How a turn ends play and how it begins an entry: faults (R41), stops and finishes (R49) and entry starts
(R5, R40). -/

namespace Sys2Proof.Machine

/-! ### Faults (R41) -/

theorem discardAll_track (t : TrackId) (s : State) : (discardAll t s).track t = (s.track t).emptied := by
  obtain ⟨hrest, hring⟩ := (discardAll_bankWork t s).tracks t
  rw [State.modTrack_track_same] at hrest hring
  generalize (discardAll t s).track t = v at hrest hring ⊢
  have hempty : v.ring = [] := List.forall₂_nil_left_iff.mp hring
  rw [← hrest, ← v.withRing_self, hempty]
  rfl

/-- The track once it is FAULTED. -/
def Track.faulted (x : Track) (reason : FaultReason) (index : CueIndex) : Track :=
  { x.transfer.emptied.silent with
    state := .faulted
    faultReason := reason
    faultIndex := index
    playNumber := 1
    block := 0
    lastPlay := false
    primed := false
    start := .none
    startDue := false
    stop := .none
    stopFade := 0
    breakPending := false }

/-- Track `t` has been faulted from `s` to `u`. -/
structure Faulted (t : TrackId) (reason : FaultReason) (index : CueIndex) (s u : State) : Prop where
  track : u.track t = (s.track t).faulted reason index
  notice : u.notice (trackSource t) = some (mergeCause s.timeline.count .fault (s.notice (trackSource t)))
  quiet : Quiet s u
  timeline : u.timeline = s.timeline

theorem discardAll_timeline (t : TrackId) (s : State) : (discardAll t s).timeline = s.timeline :=
  (discardAll_bankWork t s).timeline

theorem discardAll_notice (t : TrackId) (s : State) :
    (discardAll t s).notice (trackSource t) = s.notice (trackSource t) :=
  (discardAll_bankWork t s).notices _ (.inr (trackSource_range t))

theorem faultTrack_faulted (t : TrackId) (reason : FaultReason) (index : CueIndex) (s : State) :
    Faulted t reason index s (faultTrack t reason index s) where
  track := by
    have htrack := discardAll_track t s
    unfold faultTrack
    generalize discardAll t s = u at htrack
    rw [State.raise_track, State.modTrack_track_same, htrack, Track.emptied_transfer]
    rfl
  notice := by
    have hnotice := discardAll_notice t s
    have htimeline := discardAll_timeline t s
    unfold faultTrack
    generalize discardAll t s = u at hnotice htimeline
    rw [State.raise_notice, if_pos rfl, State.modTrack_notice, hnotice, State.modTrack_timeline, htimeline]
  quiet := faultTrack_quiet t reason index s
  timeline := (faultTrack_work t reason index s).timeline

/-! ### Stops and finishes (R49) -/

/-- The track once a stop or a finish has taken it home. -/
def Track.ended (x : Track) : Track :=
  { x.transfer.emptied.silent with
    state := .priming
    playNumber := 1
    block := 0
    lastPlay := false
    breakPending := false
    primed := false
    link := none
    start := .none
    startDue := false
    stop := .none
    stopFade := 0 }

/-- The state in which a track that ends begins its walk at home. -/
def State.ended (s : State) (t : TrackId) (cause : Cause) : State :=
  ((discardAll t s).modTrack t fun tr =>
    { tr.transfer.silent with
      state := .priming
      playNumber := 1
      block := 0
      lastPlay := false
      breakPending := false
      primed := false
      link := none
      start := .none
      startDue := false
      stop := .none
      stopFade := 0 }).raise (trackSource t) cause

theorem completeStop_eq (t : TrackId) (cause : Cause) (s : State) :
    completeStop t cause s = walk t ((s.ended t cause).modTrack t Track.restarted) := rfl

theorem State.ended_track (s : State) (t : TrackId) (cause : Cause) : (s.ended t cause).track t = (s.track t).ended := by
  have htrack := discardAll_track t s
  unfold State.ended
  generalize discardAll t s = u at htrack
  rw [State.raise_track, State.modTrack_track_same, htrack, Track.emptied_transfer]
  rfl

theorem State.ended_shows (s : State) (t : TrackId) (cause : Cause) :
    (s.ended t cause).shows (trackSource t) cause = true :=
  State.shows_raise_same ..

theorem State.ended_copyOf (s : State) (t : TrackId) (cause : Cause) (i : CueIndex) (path : PathTag) (trailing : Bool) :
    (s.ended t cause).copyOf i path trailing = s.copyOf i path trailing := by
  have hcue := (discardAll_bankWork t s).cue
  have hclips := (discardAll_bankWork t s).clips
  unfold State.ended
  generalize discardAll t s = u at hcue hclips
  exact copyOf_congr hcue hclips i path trailing

theorem State.ended_slotSeq (s : State) (t : TrackId) (cause : Cause) : (s.ended t cause).slotSeq = s.slotSeq := by
  have hseq := (discardAll_bankWork t s).slotSeq
  unfold State.ended
  generalize discardAll t s = u at hseq
  exact hseq

theorem Track.ended_home (x : Track) : x.ended.home = x.home := by
  unfold Track.ended
  rw [Track.transfer_eq]
  rfl

/-- Track `t` has been taken home from `s` to `u`. -/
structure Ended (t : TrackId) (cause : Cause) (s u : State) : Prop where
  rest : { u.track t with
    queue := []
    ring := []
    walk := Walk.stopped
    state := .priming
    primed := false } = (s.track t).ended
  state : (u.track t).state = .priming ∨ (u.track t).state = .ready
  ready : (u.track t).state = .ready ↔ u.primes t
  front : ∃ c r, (u.track t).queue = c :: r ∧ c.index = (s.track t).home ∧ c.entry = s.cueEntry (s.track t).home
  ring : ∀ z ∈ (u.track t).ring, s.slotSeq ≤ z.id
  shows : u.shows (trackSource t) cause = true
  quiet : Quiet s u

theorem completeStop_ended (t : TrackId) (cause : Cause) (s : State) : Ended t cause s (completeStop t cause s) := by
  have hquiet := completeStop_quiet t cause s
  rw [completeStop_eq] at hquiet ⊢
  have hended := s.ended_track t cause
  have hcopy := s.ended_copyOf t cause (s.track t).home .main false
  have hseq := s.ended_slotSeq t cause
  have hshows := s.ended_shows t cause
  generalize s.ended t cause = v at *
  have htrack : (v.modTrack t Track.restarted).track t = (s.track t).ended.restarted := by
    rw [State.modTrack_track_same, hended]
  have hphase : ((v.modTrack t Track.restarted).track t).walk.phase = .copy (s.track t).home false := by
    rw [htrack, ← (s.track t).ended_home]
    rfl
  obtain ⟨c, r, hqueue, n, hc⟩ := walk_first (t := t) (by rw [htrack]; rfl) hphase
  have hready := (walk_primes (t := t) (s := v.modTrack t Track.restarted) (by rw [htrack]; rfl) (by rw [htrack]; rfl)).2
  have hwork := walk_work t (v.modTrack t Track.restarted)
  have hfetching := (walk_fetching t (v.modTrack t Track.restarted)).own
  have hshown := (shows_turn t cause).lookahead hwork hshows
  generalize walk t = goesOn at *
  refine ⟨?_, ?_, hready, ?_, fun z hz => ?_, hshown, hquiet⟩
  · have hown := hwork.own
    rw [htrack] at hown
    exact (congrArg (fun x : Track => { x with walk := Walk.stopped }) hown :)
  · obtain ⟨hsame, -⟩ | ⟨-, -, hsame, -⟩ := hwork.primed
    · rw [htrack] at hsame
      exact .inl hsame
    · exact .inr hsame
  · have hcopied : c = { s.copyOf (s.track t).home .main false with prepared := n } :=
      hc.trans (congrArg (fun d : Copy => { d with prepared := n }) hcopy)
    rw [hcopied] at hqueue
    exact ⟨_, r, hqueue, rfl, rfl⟩
  · obtain ⟨kept, made, hring, hkept, hmade⟩ := hfetching
    rw [htrack] at hkept
    obtain rfl := List.forall₂_nil_left_iff.mp hkept
    rw [hring] at hz
    exact hseq ▸ hmade z hz

/-! ### The start actions (R5) -/

/-- A marker line whose pulse an entry start requests (R5, R176). -/
def MarkerLine.pulsed (k : MarkerLine) : MarkerLine :=
  if k.mode = .pulse then { k with remaining := max k.remaining k.width } else k

theorem pulseMarker_marker (s : State) (m k : LineId) :
    (pulseMarker s m).marker k = if m = k then (s.marker k).pulsed else s.marker k := by
  unfold pulseMarker MarkerLine.pulsed
  split
  next hpulse =>
    rw [State.setMarker_marker]
    by_cases hmk : m = k
    · subst hmk
      rw [if_pos rfl, if_pos rfl, if_pos hpulse]
    · rw [if_neg hmk, if_neg hmk]
  next hother =>
    by_cases hmk : m = k
    · subst hmk
      rw [if_pos rfl, if_neg hother]
    · rw [if_neg hmk]

theorem pulses_marker {ms : List LineId} (hms : ms.Nodup) (s : State) (k : LineId) :
    (forEach ms pulseMarker s).marker k = if k ∈ ms then (s.marker k).pulsed else s.marker k := by
  induction ms generalizing s with
  | nil => exact (if_neg List.not_mem_nil).symm
  | cons m r ih =>
    obtain ⟨hnot, hr⟩ := List.nodup_cons.mp hms
    have hstep : forEach (m :: r) pulseMarker s = forEach r pulseMarker (pulseMarker s m) := rfl
    rw [hstep, ih hr, pulseMarker_marker]
    by_cases hmk : m = k
    · subst hmk
      rw [if_neg hnot, if_pos rfl, if_pos List.mem_cons_self]
    · rw [if_neg hmk]
      exact if_congr (by rw [List.mem_cons, or_iff_right (Ne.symm hmk)]) rfl rfl

/-- The marker lines as an entry start leaves them (R5). -/
def State.markersPulsed (s : State) (mask : BitVec 4) (m : LineId) : MarkerLine :=
  if mask.getLsbD m.1 then (s.marker m).pulsed else s.marker m

theorem startActions_marker (t : TrackId) (e : CueEntry) (s : State) (m : LineId) :
    (startActions t e s).marker m = s.markersPulsed e.markers m := by
  have hflags (k : LineId) : (s.flagAction e.action e.actionFlag).marker k = s.marker k :=
    (congrArg (fun u : State => u.marker k) (flagAction_frame s e.action e.actionFlag) :)
  have hnodup : (allFour.filter fun m => e.markers.getLsbD m.1).Nodup := (List.nodup_finRange 4).filter _
  unfold startActions
  refine (raiseIf_field (fun u => u.marker m) (fun _ _ => rfl) _ _ _ _).trans ?_
  refine (pulses_marker hnodup _ m).trans ?_
  rw [hflags]
  refine if_congr ?_ rfl rfl
  rw [List.mem_filter]
  exact and_iff_right (List.mem_finRange m)

theorem startActions_flags (t : TrackId) (e : CueEntry) (s : State) :
    (startActions t e s).flags = (s.flagAction e.action e.actionFlag).flags := by
  unfold startActions
  refine (raiseIf_field State.flags (fun _ _ => rfl) _ _ _ _).trans ?_
  exact forEach_keeps _ pulseMarker State.flags (fun u m => (congrArg State.flags (pulseMarker_frame u m) :)) _

theorem startActions_note (t : TrackId) {e : CueEntry} (h : e.note = true) (s : State) :
    (startActions t e s).shows (trackSource t) .cueNote = true := by
  unfold startActions
  rw [State.shows_raiseIf, h, Bool.or_true]

theorem startActions_track (t k : TrackId) (e : CueEntry) (s : State) : (startActions t e s).track k = s.track k :=
  State.core_track (startActions_core t e s) k

/-! ### Entry starts (R5, R40) -/

/-- The position of a track at the first block of an entry. -/
def Track.atStart (x : Track) : Track := { x with playNumber := 1, block := 0, lastPlay := false }

/-- Entry `c` has begun in track `t` from `s` to `u`. -/
structure Begun (t : TrackId) (c : Copy) (s u : State) : Prop where
  core : (u.track t).core = (s.blockPlayed (s.track t).atStart c true).core
  front : ∃ d q, (u.track t).queue = d :: q ∧ c.Prepared d
  flags : u.flags = (s.flagAction c.entry.action c.entry.actionFlag).flags
  markers : ∀ m, u.marker m = s.markersPulsed c.entry.markers m
  note : c.entry.note = true → u.shows (trackSource t) .cueNote = true

theorem beginFront_good {t : TrackId} {s : State} {c : Copy} {r : List Copy} (hqueue : (s.track t).queue = c :: r)
    (hgood : c.status = .good) :
    beginFront t s = playBlock t c true (startActions t c.entry (s.modTrack t Track.atStart)) := by
  unfold beginFront
  rw [hqueue]
  exact if_neg (not_not_intro hgood)

theorem beginFront_bad {t : TrackId} {s : State} {c : Copy} {r : List Copy} (hqueue : (s.track t).queue = c :: r)
    (hbad : c.status ≠ .good) : beginFront t s = faultTrack t c.status.reason c.index s := by
  unfold beginFront
  rw [hqueue]
  exact if_pos hbad

theorem beginFront_begun {t : TrackId} {s : State} {c : Copy} {r : List Copy} (hqueue : (s.track t).queue = c :: r)
    (hgood : c.status = .good) (hstate : (s.track t).state ≠ .priming) : Begun t c s (beginFront t s) := by
  have htrack : (startActions t c.entry (s.modTrack t Track.atStart)).track t = (s.track t).atStart := by
    rw [startActions_track, State.modTrack_track_same]
  have hclips : (startActions t c.entry (s.modTrack t Track.atStart)).store.clips = s.store.clips :=
    (startActions_work t c.entry (s.modTrack t Track.atStart)).clips
  have hflags := startActions_flags t c.entry (s.modTrack t Track.atStart)
  have hmarkers := startActions_marker t c.entry (s.modTrack t Track.atStart)
  have hnote (hn : c.entry.note = true) := startActions_note t hn (s.modTrack t Track.atStart)
  rw [beginFront_good hqueue hgood]
  generalize startActions t c.entry (s.modTrack t Track.atStart) = u at *
  have hquiet := playBlock_quiet t c true u
  refine ⟨?_, ?_, ?_, fun m => ?_, fun hn => (shows_turn t .cueNote).playBlock c true u (hnote hn)⟩
  · have hcore := playBlock_core (c := c) (entryStart := true) (by rw [htrack]; exact hstate : (u.track t).state ≠ .priming)
    rwa [htrack, blockPlayed_congr hclips] at hcore
  · refine playBlock_front (r := r) ?_
    rw [htrack]
    exact hqueue
  · rw [hquiet.flags, hflags]
    cases c.entry.action <;> rfl
  · have hsame : (playBlock t c true u).marker m = u.marker m := by
      unfold State.marker
      rw [hquiet.markers]
    exact hsame.trans (hmarkers m)

/-- A copy behind the front copy begins, or faults the track (R40, R41). -/
theorem beginNext_eq {t : TrackId} {s : State} {c d : Copy} {r : List Copy} (hqueue : (s.track t).queue = c :: d :: r)
    (leave : Track → Track) :
    beginNext t leave s = beginFront t (s.modTrack t fun tr => { leave tr with queue := d :: r }) := by
  unfold beginNext
  rw [hqueue]

end Sys2Proof.Machine
end

section
/-! PROOFS. The part of one track (R17, R27, R38, R39): the state in which its turn begins, and what the turn is in each
state of the track. -/

namespace Sys2Proof.Machine

/-! ### The opened tick start keeps what a turn looks at -/

theorem gapTick_turns (s : State) : ((gapTick s).work.tracks, (gapTick s).work.flags, (gapTick s).work.released) =
    (s.work.tracks, s.work.flags, s.work.released) := by
  unfold gapTick
  dsimp only
  split
  · rfl
  · split
    · split <;> rfl
    · rfl

theorem openTick_turns (s : State) : (openTick s).work.tracks = s.work.tracks ∧ (openTick s).work.flags = s.work.flags ∧
    (openTick s).work.released = s.work.released := by
  have hkeeps := openTick_keeps (fun u => (u.work.tracks, u.work.flags, u.work.released))
    (fun u => (congrArg (fun w : TickWork => (w.tracks, w.flags, w.released)) (timelineTick_work_rest u) :))
    (fun u p => by rw [portTick_work_eq]) (fun u n => by rw [triggerFall_work_eq])
    (fun u m => by rw [markerFall_work_eq]) gapTick_turns s
  simpa only [Prod.mk.injEq] using hkeeps

theorem openTick_trackDone (s : State) (t : TrackId) : (openTick s).trackDone t = s.trackDone t := by
  rw [State.trackDone, (openTick_turns s).1, State.trackDone]

theorem openTick_isReleased (s : State) (t : TrackId) : (openTick s).isReleased t = s.isReleased t := by
  rw [State.isReleased, (openTick_turns s).2.2, State.isReleased]

theorem openTick_holderOf (s : State) (t : TrackId) : (openTick s).holderOf t = s.holderOf t := by
  unfold State.holderOf
  rw [openTick_trackDone, openTick_track]

theorem openTick_trackNotice (s : State) (t : TrackId) : (openTick s).notice (trackSource t) = s.notice (trackSource t) := by
  have hne : 11 ≤ (trackSource t).1 := Nat.le_add_right 11 t.1
  have hother (n : SourceId) (h : n.1 < 11) : trackSource t ≠ n := fun heq => by
    rw [heq] at hne
    exact absurd hne (Nat.not_le_of_lt h)
  rw [openTick_notice_rest s (hother linkSource (by decide)) fun p => hother (portSource p) (by
    have := p.2
    show 6 + p.1 < 11
    omega)]
  exact timelineTick_notice_other s (hother clockSource (by decide))

theorem openTick_marker_mode (s : State) (m : LineId) : ((openTick s).marker m).mode = (s.marker m).mode ∧
    ((openTick s).marker m).width = (s.marker m).width := by
  rw [openTick_marker]
  unfold State.markerFallen MarkerLine.fallen
  split <;> exact ⟨rfl, rfl⟩

/-! ### The turn of one track -/

/-- The turn of track `t` has begun, and the track is `x`. -/
def State.turned (s : State) (t : TrackId) (x : Track) : State := (s.markTrack t).setTrack t x

theorem State.turned_track (s : State) (t : TrackId) (x : Track) : (s.turned t x).track t = x :=
  State.setTrack_track_same ..

theorem State.turned_modTrack (s : State) (t : TrackId) (x : Track) (f : Track → Track) :
    (s.turned t x).modTrack t f = s.turned t (f x) := by
  unfold State.turned State.modTrack
  rw [State.setTrack_track_same]
  simp only [State.setTrack, Vector.set_set]

theorem State.turned_setTrack (s : State) (t : TrackId) (x y : Track) : (s.turned t x).setTrack t y = s.turned t y := by
  unfold State.turned
  simp only [State.setTrack, Vector.set_set]

theorem State.markTrack_turned (s : State) (t : TrackId) : s.markTrack t = s.turned t (s.track t) :=
  (State.setTrack_self (s.markTrack t) t).symm

section
variable {t : TrackId} {s : State} (hdone : s.trackDone t = false)
include hdone

theorem trackTick_plays (hstate : (s.track t).state = .playing ∨ (s.track t).state = .stopping) :
    trackTick t s = playTick t (s.markTrack t) := by
  unfold trackTick
  rw [if_neg (Bool.eq_false_iff.mp hdone)]
  obtain h | h := hstate <;> rw [h]

theorem trackTick_holds (hstate : (s.track t).state = .holding) : trackTick t s = holdTick t (s.markTrack t) := by
  unfold trackTick
  rw [if_neg (Bool.eq_false_iff.mp hdone), hstate]

theorem trackTick_starts (hstate : (s.track t).state = .starting) : trackTick t s = startTick t (s.markTrack t) := by
  unfold trackTick
  rw [if_neg (Bool.eq_false_iff.mp hdone), hstate]

/-- A NOW stop and a stop fade at its end complete (R45, R46). -/
theorem trackTick_stops (hstate : (s.track t).state = .playing ∨ (s.track t).state = .stopping)
    (hstop : (s.track t).stop = .now ∨ (s.track t).fadeStopEnds = true) :
    trackTick t s = completeStop t .stopped (s.turned t (s.track t)) := by
  rw [trackTick_plays hdone hstate, s.markTrack_turned t]
  have htrack := s.turned_track t (s.track t)
  generalize s.turned t (s.track t) = v at htrack
  unfold playTick
  dsimp only
  rw [htrack]
  refine if_pos ?_
  obtain h | h := hstop <;> simp [h]

/-- Within a play the next block plays (R38). -/
theorem trackTick_within {c : Copy} {r : List Copy} (hstate : (s.track t).state = .playing ∨ (s.track t).state = .stopping)
    (hstop : (s.track t).stop ≠ .now) (hfade : (s.track t).fadeStopEnds = false) (hqueue : (s.track t).queue = c :: r)
    (hwithin : (s.track t).block + 1 < c.length) :
    trackTick t s = playBlock t c false
      (s.turned t { (s.track t).advanceStopFade with block := (s.track t).block + 1 }) := by
  rw [trackTick_plays hdone hstate, s.markTrack_turned t]
  have htrack := s.turned_track t (s.track t)
  have hset := s.turned_setTrack t (s.track t) { (s.track t).advanceStopFade with block := (s.track t).block + 1 }
  generalize hv : s.turned t (s.track t) = v at htrack hset
  have hblock : (s.track t).playEnded c = false := decide_eq_false (Nat.not_le_of_lt hwithin)
  unfold playTick
  dsimp only
  rw [htrack, if_neg (by simp [hstop, hfade]), hqueue]
  dsimp only
  rw [if_neg (Bool.eq_false_iff.mp hblock), hset]

/-- At a boundary the track acts on the end of the play (R39). -/
theorem trackTick_boundary {c : Copy} {r : List Copy}
    (hstate : (s.track t).state = .playing ∨ (s.track t).state = .stopping) (hstop : (s.track t).stop ≠ .now)
    (hfade : (s.track t).fadeStopEnds = false) (hqueue : (s.track t).queue = c :: r)
    (hend : c.length ≤ (s.track t).block + 1) :
    trackTick t s = boundary t c (s.turned t (s.track t).advanceStopFade) := by
  rw [trackTick_plays hdone hstate, s.markTrack_turned t]
  have htrack := s.turned_track t (s.track t)
  have hset := s.turned_setTrack t (s.track t) (s.track t).advanceStopFade
  generalize hv : s.turned t (s.track t) = v at htrack hset
  have hblock : (s.track t).playEnded c = true := decide_eq_true hend
  unfold playTick
  dsimp only
  rw [htrack, if_neg (by simp [hstop, hfade]), hqueue]
  dsimp only
  rw [if_pos hblock, hset]

end

/-! ### The three ways of a boundary (R39) -/

section
variable {t : TrackId} {s : State} {x : Track} {c : Copy}

theorem boundary_stops (hstate : x.state = .stopping) (hstop : x.stop = .atEnd) :
    boundary t c (s.turned t x) = completeStop t .stopped (s.turned t x) := by
  have htrack := s.turned_track t x
  generalize s.turned t x = v at htrack
  unfold boundary
  dsimp only
  rw [htrack]
  exact if_pos (by simp [hstate, hstop])

theorem boundary_remains (hstop : ¬ (x.state = .stopping ∧ x.stop = .atEnd)) (hremains : x.playRemains c = true) :
    boundary t c (s.turned t x) = playBlock t c false
      (s.turned t { x with playNumber := if x.playNumber < 255 then x.playNumber + 1 else 255, block := 0 }) := by
  have htrack := s.turned_track t x
  have hset := s.turned_setTrack t x
  unfold boundary
  dsimp only
  rw [htrack, if_neg (by simpa using hstop), if_pos hremains, hset]

theorem boundary_passes (hstop : ¬ (x.state = .stopping ∧ x.stop = .atEnd)) (hremains : x.playRemains c = false) :
    boundary t c (s.turned t x) = followEntry t c (s.turned t x) := by
  have htrack := s.turned_track t x
  generalize s.turned t x = v at htrack
  unfold boundary
  dsimp only
  rw [htrack, if_neg (by simpa using hstop), if_neg (Bool.eq_false_iff.mp hremains)]

end

/-! ### A track that goes on (R46, R47) -/

theorem Track.advanceStopFade_of_not {x : Track} (h : ∀ n, x.state = .stopping → x.stop ≠ .fade n) :
    x.advanceStopFade = x := by
  unfold Track.advanceStopFade
  split
  next n hstate hstop => exact absurd hstop (h n hstate)
  next => rfl

/-- The stop fade of a track that goes on, or that stops at its entry's end (R46). -/
theorem Track.goesOn_stop {x : Track} (h : x.goesOn ∨ (x.state = .stopping ∧ x.stop = .atEnd)) :
    (x.state = .playing ∨ x.state = .stopping) ∧ x.stop ≠ .now ∧ x.fadeStopEnds = false ∧
      x.advanceStopFade = { x with stopFade := x.nextFade } := by
  obtain (⟨hstate, hstop⟩ | ⟨hstate, n, hstop, hfade⟩) | ⟨hstate, hstop⟩ := h
  · have hfade : x.nextFade = x.stopFade := by rw [Track.nextFade, hstop]
    refine ⟨.inl hstate, by rw [hstop]; decide, by rw [Track.fadeStopEnds, hstate], ?_⟩
    rw [hfade, Track.advanceStopFade_of_not fun n hstops => absurd (hstate.symm.trans hstops) (by decide)]
  · have hnext : x.nextFade = x.stopFade + 1 := by rw [Track.nextFade, hstop]
    refine ⟨.inr hstate, by rw [hstop]; exact StopMode.noConfusion, ?_, ?_⟩
    · rw [Track.fadeStopEnds, hstate, hstop]
      exact decide_eq_false (Nat.not_le_of_lt hfade)
    · rw [hnext]
      unfold Track.advanceStopFade
      split
      · rfl
      next hno => exact absurd hstop (hno n hstate)
  · have hfade : x.nextFade = x.stopFade := by rw [Track.nextFade, hstop]
    refine ⟨.inr hstate, by rw [hstop]; decide, by rw [Track.fadeStopEnds, hstate, hstop], ?_⟩
    rw [hfade, Track.advanceStopFade_of_not fun n _ => by rw [hstop]; exact StopMode.noConfusion]

theorem Track.goesOn_notEnd {x : Track} (h : x.goesOn) : ¬ (x.state = .stopping ∧ x.stop = .atEnd) := by
  rintro ⟨hstate, hstop⟩
  obtain ⟨hplays, -⟩ | ⟨-, n, hfade, -⟩ := h
  · exact absurd (hstate.symm.trans hplays) (by decide)
  · cases hstop.symm.trans hfade

/-- A track that goes on past anything but a HOLD boundary waits for no flag (R17). -/
theorem holderOf_goesOn {s : State} {t : TrackId} {c : Copy} {r : List Copy}
    (hstate : (s.track t).state = .playing ∨ (s.track t).state = .stopping) (hqueue : (s.track t).queue = c :: r)
    (h : (s.track t).state = .playing → (s.track t).stop = .now ∨ c.isHold = false ∨ (s.track t).playEnded c = false ∨
      (s.track t).playRemains c = true) : s.holderOf t = none := by
  unfold State.holderOf
  dsimp only
  split
  · rfl
  · rw [hqueue, List.head?_cons]
    obtain hplays | hstops := hstate
    · rw [hplays]
      dsimp only
      refine if_neg ?_
      obtain h | h | h | h := h hplays <;> simp [h]
    · rw [hstops]

theorem takeTrack_own {s : State} {t : TrackId} (h : s.holderOf t = none) :
    takeTrack t (openTick s) = trackTick t (openTick s) := by
  rw [takeTrack, openTick_holderOf, h]
  rfl

/-- The coming tick start is a boundary of the track. -/
theorem boundaryDue_of {s : State} {t : TrackId} {c : Copy} {r : List Copy} (hdone : s.trackDone t = false)
    (hstate : (s.track t).state = .playing ∨ (s.track t).state = .stopping) (hstop : (s.track t).stop ≠ .now)
    (hfade : (s.track t).fadeStopEnds = false) (hqueue : (s.track t).queue = c :: r)
    (hend : c.length ≤ (s.track t).block + 1) : s.boundaryDue t = true := by
  unfold State.boundaryDue State.playsOn Track.playEnded
  dsimp only
  rw [hdone, hqueue, hfade]
  simp [hstate, hstop, hend]

end Sys2Proof.Machine
end

section
/-! PROOFS. The ends of play (R12, R45 to R49): O42. -/

namespace Sys2Proof.Machine

/-! ### What a turn's state keeps of the state before the tick start -/

/-- The coming tick start has been opened and the turn of track `t` has begun, the track being `x`. -/
def State.begun (s : State) (t : TrackId) (x : Track) : State := (openTick s).turned t x

section
variable (s : State) (t : TrackId) (x : Track)

theorem State.begun_track : (s.begun t x).track t = x := State.turned_track ..

theorem State.begun_flags : (s.begun t x).flags = s.flags := openTick_flags s

theorem State.begun_cue : (s.begun t x).cue = s.cue := openTick_cue s

theorem State.begun_store : (s.begun t x).store = s.store := openTick_store s

theorem State.begun_slotSeq : (s.begun t x).slotSeq = s.slotSeq := openTick_slotSeq s

theorem State.begun_timeline : (s.begun t x).timeline = (openTick s).timeline := rfl

theorem State.begun_marker (m : LineId) : (s.begun t x).marker m = (openTick s).marker m := rfl

theorem State.begun_notice : (s.begun t x).notice (trackSource t) = s.notice (trackSource t) :=
  (openTick_trackNotice s t :)

end

/-- A boundary of a track that waits for no flag (R39). -/
theorem takeTrack_boundary {s : State} {t : TrackId} {c : Copy} {r : List Copy} (hdone : s.trackDone t = false)
    (hstate : (s.track t).state = .playing ∨ (s.track t).state = .stopping) (hstop : (s.track t).stop ≠ .now)
    (hfade : (s.track t).fadeStopEnds = false) (hqueue : (s.track t).queue = c :: r)
    (hend : c.length ≤ (s.track t).block + 1)
    (hhold : (s.track t).state = .playing → c.isHold = false ∨ (s.track t).playRemains c = true) :
    takeTrack t (openTick s) = boundary t c (s.begun t (s.track t).advanceStopFade) := by
  have hnone : s.holderOf t = none := holderOf_goesOn hstate hqueue fun h => .inr ((hhold h).imp_right .inr)
  have htrack := openTick_track s t
  rw [takeTrack_own hnone, trackTick_boundary ((openTick_trackDone s t).trans hdone) (by rwa [htrack]) (by rwa [htrack])
    (by rwa [htrack]) (by rw [htrack]; exact hqueue) (by rwa [htrack]), htrack]
  rfl

theorem takeTrack_work {s : State} {t : TrackId} (h : s.holderOf t = none) :
    TrackWork t (openTick s) (takeTrack t (openTick s)) := by
  rw [takeTrack_own h]
  exact trackTick_work t (openTick s)

/-! ### Stops and finishes (R12, R47, R49) -/

/-- What a transfer leaves (R54). -/
theorem Track.transfer_rest (x : Track) : { x.transfer with
    active := x.active, stagedPending := x.stagedPending, nowMark := x.nowMark
    gateMark := x.gateMark, gatePhase := x.gatePhase, gateCounter := x.gateCounter } = x := by
  rw [Track.transfer_eq]

theorem Track.advanceStopFade_rest (x : Track) : x.advanceStopFade = { x with stopFade := x.advanceStopFade.stopFade } :=
  KeptByPlayback.advanceStopFade_eq x

theorem shows_iff {s : State} {n : SourceId} {c : Cause} :
    s.shows n c = true ↔ ∃ r, s.notice n = some r ∧ r.causes.getLsbD c.bit = true := by
  unfold State.shows
  cases s.notice n <;> simp

/-- A track whose stop is NOW holds no flag (R17, R45). -/
theorem holderOf_stops {s : State} {t : TrackId} (h : (s.track t).stop = .now)
    (hstate : (s.track t).state ≠ .starting) : s.holderOf t = none := by
  unfold State.holderOf
  dsimp only
  split
  · rfl
  · split
    next hstart _ => exact absurd hstart hstate
    all_goals simp [h]

/-- A stop completes the turn (R45, R46). -/
theorem takeTrack_stops {s : State} {t : TrackId} (hdone : s.trackDone t = false) (hnone : s.holderOf t = none)
    (h : ((s.track t).stop = .now ∧ ((s.track t).state = .playing ∨ (s.track t).state = .holding ∨
      (s.track t).state = .stopping)) ∨ (s.track t).fadeStopEnds = true) :
    takeTrack t (openTick s) = completeStop t .stopped (s.begun t (s.track t)) := by
  have htrack := openTick_track s t
  have hdone' := (openTick_trackDone s t).trans hdone
  have hstops (hstate : (s.track t).state = .playing ∨ (s.track t).state = .stopping)
      (hstop : (s.track t).stop = .now ∨ (s.track t).fadeStopEnds = true) :
      takeTrack t (openTick s) = completeStop t .stopped (s.begun t (s.track t)) := by
    rw [takeTrack_own hnone, trackTick_stops hdone' (by rwa [htrack]) (by rwa [htrack]), htrack]
    rfl
  obtain ⟨hstop, hstate | hstate | hstate⟩ | hfade := h
  · exact hstops (.inl hstate) (.inl hstop)
  · have hmark : (openTick s).markTrack t = s.begun t (s.track t) := by
      rw [State.markTrack_turned, htrack]
      rfl
    rw [takeTrack_own hnone, trackTick_holds hdone' (by rwa [htrack]), hmark]
    have hbegun := s.begun_track t (s.track t)
    generalize s.begun t (s.track t) = v at hbegun
    unfold holdTick
    dsimp only
    rw [hbegun]
    exact if_pos hstop
  · exact hstops (.inr hstate) (.inl hstop)
  · have hstate : (s.track t).state = .stopping := by
      unfold Track.fadeStopEnds at hfade
      split at hfade
      next hstate _ => exact hstate
      · cases hfade
    exact hstops (.inr hstate) (.inr hfade)

/-- A stop pending at a HOLD or END boundary completes there, and an END boundary finishes the play (R11, R12, R47). -/
theorem followEntry_ends {s : State} {t : TrackId} {x : Track} {c : Copy} (htrailing : c.trailing = false)
    (hnext : (x.state = .stopping ∧ c.entry.next = .hold) ∨ c.entry.next = .finish) :
    followEntry t c (s.turned t x) =
      completeStop t (if x.state = .stopping then .stopped else .finished) (s.turned t x) := by
  have htrack := s.turned_track t x
  generalize s.turned t x = v at htrack
  have hplain : c.entry.isLateBranch = false := by
    unfold CueEntry.isLateBranch
    obtain ⟨-, h⟩ | h := hnext <;> rw [h] <;> exact Bool.and_false _
  unfold followEntry
  rw [if_neg (Bool.eq_false_iff.mp htrailing), if_neg (Bool.eq_false_iff.mp hplain)]
  obtain ⟨hstate, h⟩ | h := hnext
  · rw [h, if_pos hstate]
    dsimp only
    unfold holdBoundary
    rw [htrack, if_pos hstate]
  · rw [h, htrack]

theorem boundary_ends {s : State} {t : TrackId} {x : Track} {c : Copy} (hremains : x.playRemains c = false)
    (htrailing : c.trailing = false) (hnext : (x.state = .stopping ∧ c.entry.next = .hold) ∨ c.entry.next = .finish) :
    boundary t c (s.turned t x) =
      completeStop t (if x.state = .stopping then .stopped else .finished) (s.turned t x) := by
  by_cases hatEnd : x.state = .stopping ∧ x.stop = .atEnd
  · rw [boundary_stops hatEnd.1 hatEnd.2, if_pos hatEnd.1]
  · rw [boundary_passes hatEnd hremains, followEntry_ends htrailing hnext]

theorem Track.advanceStopFade_state (x : Track) : x.advanceStopFade.state = x.state := by
  rw [x.advanceStopFade_rest]

theorem Track.advanceStopFade_stop (x : Track) : x.advanceStopFade.stop = x.stop := by
  rw [x.advanceStopFade_rest]

theorem Track.advanceStopFade_remains (x : Track) (c : Copy) : x.advanceStopFade.playRemains c = x.playRemains c := by
  rw [x.advanceStopFade_rest]
  rfl

end Sys2Proof.Machine
end

namespace Sys2Proof.Proofs.Stops

open Sys2Proof Sys2Proof.Machine

/-- Settles O42: each end of play is one `completeStop` of the begun turn. -/
theorem stopsTakeTheTrackHome : Obligations.StopsTakeTheTrackHome := by
  unfold Obligations.StopsTakeTheTrackHome
  intro s t x home hheld hdone
  have hhome {n : Nat} {cause : Cause} {u : State} (hwork : TrackWork t (openTick s) u)
      (h : Ended t cause (s.begun t { x with stopFade := n }) u) : home u cause.bit := by
    have hrest := h.rest
    rw [s.begun_track] at hrest
    have hkept := Track.transfer_rest { x with stopFade := n }
    refine ⟨hwork, h.quiet.flags.trans (s.begun_flags ..), h.state, h.ready, (congrArg Track.playNumber hrest :),
      (congrArg Track.block hrest :), (congrArg Track.lastPlay hrest :), (congrArg Track.breakPending hrest :),
      (congrArg Track.link hrest :), (congrArg Track.start hrest :), (congrArg Track.stop hrest :),
      (congrArg Track.stopFade hrest :), (congrArg Track.home hrest :).trans (congrArg Track.home hkept :),
      (congrArg Track.active hrest :).trans (Track.transfer_active _),
      (congrArg Track.staged hrest :).trans (congrArg Track.staged hkept :),
      (congrArg Track.stagedPending hrest :).trans (Track.transfer_stagedPending _),
      (congrArg Track.underruns hrest :).trans (congrArg Track.underruns hkept :),
      (congrArg Track.readFaults hrest :).trans (congrArg Track.readFaults hkept :),
      (congrArg Track.short hrest :).trans (congrArg Track.short hkept :),
      (congrArg Track.edge hrest :).trans (congrArg Track.edge hkept :),
      (congrArg Track.late hrest :).trans (congrArg Track.late hkept :),
      (congrArg Track.nco hrest :).trans (congrArg Track.nco hkept :), ?_, ?_, shows_iff.mp h.shows⟩
    · obtain ⟨c, r, hqueue, hindex, hentry⟩ := h.front
      rw [s.begun_track] at hindex hentry
      refine ⟨c, r, hqueue, hindex, hentry.trans ?_⟩
      unfold State.cueEntry
      rw [s.begun_cue]
    · have hring := h.ring
      rwa [s.begun_slotSeq] at hring
  have hleave (h : x.state = .stopping) : s.holderOf t = none := by
    unfold State.holderOf
    dsimp only
    rw [show (s.track t).state = .stopping from h]
    split <;> rfl
  have hstopped (h : (x.stop = .now ∧ (x.state = .playing ∨ x.state = .holding ∨ x.state = .stopping)) ∨
      x.fadeStopEnds = true) (hnone : s.holderOf t = none) : home (takeTrack t (openTick s)) 4 := by
    have hwork := takeTrack_work hnone
    rw [takeTrack_stops hdone hnone h] at hwork ⊢
    exact hhome (n := x.stopFade) hwork (completeStop_ended ..)
  have hends {c : Copy} {r : List Copy} (hqueue : x.queue = c :: r) (hend : c.length ≤ x.block + 1)
      (hstate : x.state = .playing ∨ x.state = .stopping) (hnow : x.stop ≠ .now) (hfade : x.fadeStopEnds = false)
      (hhold : x.state = .playing → c.isHold = false) (cause : Cause)
      (heq : boundary t c (s.begun t x.advanceStopFade) = completeStop t cause (s.begun t x.advanceStopFade)) :
      Acts (.boundary t) s (takeTrack t (openTick s)) ∧ home (takeTrack t (openTick s)) cause.bit := by
    have hnone := holderOf_goesOn hstate hqueue fun h => .inr (.inl (hhold h))
    have hwork := takeTrack_work hnone
    refine ⟨takePart_acts (f := fun u => takeTrack t (openTick u)) rfl hheld
      (boundaryDue_of hdone hstate hnow hfade hqueue hend), ?_⟩
    rw [takeTrack_boundary hdone hstate hnow hfade hqueue hend fun h => .inl (hhold h), heq] at hwork ⊢
    refine hhome (n := x.advanceStopFade.stopFade) hwork ?_
    rw [← Track.advanceStopFade_rest]
    exact completeStop_ended ..
  have hstopActs (h : s.stopDue t = true) : Acts (.stopCompletion t) s (takeTrack t (openTick s)) :=
    takePart_acts (f := fun u => takeTrack t (openTick u)) rfl hheld h
  refine ⟨fun hstop hstate => ?_, fun n hstate hstop hn => ?_, fun c r hqueue hend => ⟨fun hstate hstop => ?_,
    fun hstate hnow hfade hremains htrailing hnext => ?_, fun hstate hstop hremains htrailing hnext => ?_⟩⟩
  · have hnone : s.holderOf t = none := holderOf_stops hstop fun h => by
      obtain h' | h' | h' := hstate <;> exact absurd (h.symm.trans h') (by decide)
    refine ⟨_, hstopActs ?_, hstopped (.inl ⟨hstop, hstate⟩) hnone⟩
    unfold State.stopDue
    rw [hdone]
    simp [show (s.track t).stop = .now from hstop, show (s.track t).state = .playing ∨ (s.track t).state = .holding ∨
      (s.track t).state = .stopping from hstate, or_assoc]
  · have hfade : (s.track t).fadeStopEnds = true := by
      unfold Track.fadeStopEnds
      rw [show (s.track t).state = .stopping from hstate, show (s.track t).stop = .fade n from hstop]
      exact decide_eq_true hn
    refine ⟨_, hstopActs ?_, takePart_acts (f := fun u => takeTrack t (openTick u)) rfl hheld ?_,
      hstopped (.inr hfade) (hleave hstate)⟩
    · unfold State.stopDue
      dsimp only
      rw [hdone, hfade]
      simp
    · unfold State.fadeEndDue
      rw [hdone, hfade, show (s.track t).stop = .fade n from hstop]
      rfl
  · have hfade := (x.goesOn_stop (.inr ⟨hstate, hstop⟩)).2.2.1
    have hnow : x.stop ≠ .now := by rw [hstop]; decide
    obtain ⟨hacts, hend'⟩ := hends hqueue hend (.inr hstate) hnow hfade
      (fun h => absurd (hstate.symm.trans h) (by decide)) .stopped (boundary_stops
        (x.advanceStopFade_state.trans hstate) (x.advanceStopFade_stop.trans hstop))
    refine ⟨_, hstopActs ?_, hacts, hend'⟩
    unfold State.stopDue
    rw [hdone, boundaryDue_of hdone (.inr hstate) hnow hfade hqueue hend]
    simp [show (s.track t).state = .stopping from hstate, show (s.track t).stop = .atEnd from hstop]
  · have hends' : x.fadeStopEnds = false := by
      unfold Track.fadeStopEnds
      split
      next n _ hstop => exact decide_eq_false (Nat.not_le_of_lt (hfade n hstop))
      · rfl
    obtain ⟨hacts, hend'⟩ := hends hqueue hend (.inr hstate) hnow hends'
      (fun h => absurd (hstate.symm.trans h) (by decide)) .stopped ((boundary_ends (s := openTick s)
        ((x.advanceStopFade_remains c).trans hremains) htrailing
        (hnext.imp_left fun h => ⟨x.advanceStopFade_state.trans hstate, h⟩)).trans (by
          rw [if_pos (x.advanceStopFade_state.trans hstate)]
          rfl))
    refine ⟨_, hstopActs ?_, hacts, hend'⟩
    unfold State.stopDue
    dsimp only
    rw [hdone, boundaryDue_of hdone (.inr hstate) hnow hends' hqueue hend,
      show (s.track t).queue = c :: r from hqueue]
    simp [show (s.track t).state = .stopping from hstate, show (s.track t).playRemains c = false from hremains,
      htrailing, hnext]
  · have hnow : x.stop ≠ .now := by rw [hstop]; decide
    have hplaying : x.state ≠ .stopping := by rw [hstate]; decide
    have hfade := (x.goesOn_stop (.inl (.inl ⟨hstate, hstop⟩))).2.2.1
    obtain ⟨hacts, hend'⟩ := hends hqueue hend (.inl hstate) hnow hfade
      (fun _ => by rw [Copy.isHold, hnext, htrailing]; rfl) .finished ((boundary_ends (s := openTick s)
        ((x.advanceStopFade_remains c).trans hremains) htrailing (.inr hnext)).trans (by
          rw [if_neg fun h => hplaying (x.advanceStopFade_state.symm.trans h)]
          rfl))
    exact ⟨_, hacts, hend'⟩

end Sys2Proof.Proofs.Stops

section
/-! PROOFS. A tick start within a play (R38, R39, R46, R55, R91, R93): O37. -/

namespace Sys2Proof.Machine

/-! ### What the flag unit's judgement leaves of a track's turn -/

theorem judgeFlag_tracks (s : State) (f : FlagId) : (judgeFlag s f).work.tracks = s.work.tracks := by
  have hreleased := forEach_keeps (allTracks.filter (s.holds f false)) State.markReleased (fun u => u.work.tracks)
    (fun _ _ => rfl) s
  unfold judgeFlag
  split
  · dsimp only
    split
    · exact hreleased
    · exact hreleased
  · rfl

theorem judgeFlags_trackDone (s : State) (t : TrackId) : (judgeFlags s).trackDone t = s.trackDone t := by
  unfold State.trackDone judgeFlags
  split
  · rfl
  · rw [forEach_keeps allFlags judgeFlag (fun u => u.work.tracks) judgeFlag_tracks]

theorem State.judged_trackDone (s : State) (t : TrackId) : s.judged.trackDone t = s.trackDone t := by
  unfold State.judged
  split
  · rfl
  · exact judgeFlags_trackDone s t

theorem State.judged_field {β : Type} (f : State → β) (hf : ∀ u v : State, f (u.judgedFrom v) = f u) (s : State) :
    f s.judged = f s := by
  unfold State.judged
  split
  · rfl
  · exact judgeFlags_field f hf s

/-- At a tick start track `k` has its turn in a state that is as the opened tick start, as far as the turn looks. -/
theorem tickStart_ownTurn {k : TrackId} {s : State} (hdone : s.trackDone k = false) :
    ∃ v, Waiting k (openTick s).judged v ∧ Beside k (trackTick k v) (tickStart s) ∧ v.trackDone k = false ∧
      (s.track k).SameBut (v.track k) ∧ v.store.clips = s.store.clips ∧
      v.notice (trackSource k) = s.notice (trackSource k) ∧ v.timeline = (openTick s).timeline := by
  have hopen : (openTick s).judged.trackDone k = false :=
    ((openTick s).judged_trackDone k).trans ((openTick_trackDone s k).trans hdone)
  obtain ⟨v, hwaits, hturn⟩ := tickStart_turn hopen
  have htrack : (openTick s).judged.track k = s.track k :=
    (State.judged_field (fun u => u.track k) (fun _ _ => rfl) (openTick s)).trans (openTick_track s k)
  have hstore : (openTick s).judged.store = s.store :=
    (State.judged_field State.store (fun _ _ => rfl) (openTick s)).trans (openTick_store s)
  have hnotice : (openTick s).judged.notice (trackSource k) = s.notice (trackSource k) :=
    (State.judged_field (fun u => u.notice (trackSource k)) (fun _ _ => rfl) (openTick s)).trans (openTick_trackNotice s k)
  have htimeline : (openTick s).judged.timeline = (openTick s).timeline :=
    State.judged_field State.timeline (fun _ _ => rfl) (openTick s)
  refine ⟨v, hwaits, hturn, hwaits.done.trans hopen, ?_, ?_, hwaits.notice.trans hnotice, hwaits.timeline.trans htimeline⟩
  · rw [← htrack]
    exact hwaits.track
  · rw [hwaits.clips, hstore]

/-! ### The next block of a play (R38) -/

/-- The track at the next block of its play. -/
def Track.atNext (x : Track) : Track := { x with stopFade := x.nextFade, block := x.block + 1 }

/-- The turn of a track within a play: what it leaves of the track, and the front copy. -/
theorem turn_within {s v : State} {k : TrackId} {x : Track} {c : Copy} {r : List Copy} (hx : x.SameBut (v.track k))
    (hclips : v.store.clips = s.store.clips) (hdone : v.trackDone k = false)
    (hgoes : x.goesOn ∨ (x.state = .stopping ∧ x.stop = .atEnd)) (hqueue : x.queue = c :: r)
    (hwithin : x.block + 1 < c.length) :
    ((trackTick k v).track k).core = (s.blockPlayed x.atNext c false).core ∧
      ∃ d q, ((trackTick k v).track k).queue = d :: q ∧ c.Prepared d := by
  obtain ⟨hstate, hstop, hfade, hadvance⟩ := x.goesOn_stop hgoes
  obtain ⟨ring, hv, -⟩ := Track.sameBut_iff.mp hx
  have hring : (x.withRing ring).advanceStopFade = x.advanceStopFade.withRing ring := by
    unfold Track.advanceStopFade Track.withRing
    dsimp only
    split <;> rfl
  rw [trackTick_within hdone (by rw [hv]; exact hstate) (by rw [hv]; exact hstop) (by rw [hv]; exact hfade)
    (by rw [hv]; exact hqueue) (by rw [hv]; exact hwithin), hv, hring, hadvance]
  have htrack := v.turned_track k (x.atNext.withRing ring)
  have hstore : (v.turned k (x.atNext.withRing ring)).store.clips = s.store.clips := hclips
  have hsame : { ({ x with stopFade := x.nextFade } : Track).withRing ring with block := (x.withRing ring).block + 1 } =
      x.atNext.withRing ring := rfl
  rw [hsame]
  generalize v.turned k (x.atNext.withRing ring) = w at htrack hstore
  have hplays : (w.track k).state ≠ .priming := by
    rw [htrack]
    obtain h | h := hstate <;> exact fun h' => absurd (h.symm.trans h') (by decide)
  constructor
  · rw [playBlock_core hplays, htrack, blockPlayed_congr hstore]
    exact blockPlayed_of_core (x := x.atNext) (y := x.atNext.withRing ring) rfl c false
  · exact playBlock_front (by rw [htrack]; exact hqueue)

end Sys2Proof.Machine
end

namespace Sys2Proof.Proofs.Within

open Sys2Proof Sys2Proof.Machine

/-- Settles O37: the track's own turn plays the next block, and no other turn touches it. -/
theorem tickStartPlaysTheNextBlock : Obligations.TickStartPlaysTheNextBlock := by
  unfold Obligations.TickStartPlaysTheNextBlock
  intro s k c r x limit hheld hdone hgoes hqueue hwithin hset
  obtain ⟨v, -, hbeside, hvdone, hvtrack, hvclips, -, -⟩ := tickStart_ownTurn hdone
  obtain ⟨hcore, d, q, hfront, n, hd⟩ := turn_within hvtrack hvclips hvdone hgoes hqueue hwithin
  have hplayed := hbeside.track.core.trans hcore
  have hrest := blockPlayed_rest hplayed
  obtain ⟨hactive, hedge, hnco, hphase, hcounter, hpending⟩ :=
    blockPlayed_within hplayed (Track.takesSet_waits c (x := x.atNext) hset)
  obtain ⟨hstill, hruns⟩ := x.gateNext_cases
  refine ⟨tickStart s, acts_tickStart hheld, ?_⟩
  refine ⟨(congrArg Track.state hrest :), (congrArg Track.block hrest :), (congrArg Track.playNumber hrest :),
    (congrArg Track.lastPlay hrest :), (congrArg Track.link hrest :), (congrArg Track.home hrest :),
    (congrArg Track.stop hrest :), (congrArg Track.stopFade hrest :), (congrArg Track.staged hrest :), hpending, ?_, hnco,
    hactive, hedge, fun h => ?_, fun hon hoff => ⟨fun h => ?_, fun h => ?_⟩⟩
  · have hqueue' : ((tickStart s).track k).queue = d :: q := (congrArg Track.queue hbeside.track.1 :).trans hfront
    subst hd
    exact ⟨_, q, hqueue', rfl, rfl, rfl⟩
  · exact ⟨hphase.trans (congrArg Prod.fst (hstill h)), hcounter.trans (congrArg Prod.snd (hstill h))⟩
  · have hnext := (hruns hon hoff).trans (if_pos h)
    refine ⟨fun hsame => x.gatePhase.other_ne ?_, hcounter.trans (congrArg Prod.snd hnext)⟩
    exact (congrArg Prod.fst hnext).symm.trans (hphase.symm.trans hsame)
  · have hnext := (hruns hon hoff).trans (if_neg h)
    exact ⟨hphase.trans (congrArg Prod.fst hnext), hcounter.trans (congrArg Prod.snd hnext)⟩

end Sys2Proof.Proofs.Within

section
/-! PROOFS. A boundary at which a play remains (R4, R38, R63, R74, R79, R99): O38. What consuming the front slot leaves
of ring, counts and requests is followed through the level unit and the walk. -/

namespace Sys2Proof.Machine

/-! ### What the level unit leaves alone -/

theorem levelTick_frame (t : TrackId) (c : Copy) (data : Option (List Byte)) (s : State) :
    { levelTick t c data s with ports := s.ports, tracks := s.tracks, notices := s.notices } = s := by
  have hclamp (u : State) (e : CueEntry) :
      { clampTrack t e u with ports := s.ports, tracks := s.tracks, notices := s.notices } =
        { u with ports := s.ports, tracks := s.tracks, notices := s.notices } := by
    unfold clampTrack
    dsimp only
    split <;> rfl
  have hfeeds := forEach_keeps (s.liveFeeds (s.track t)) (computeFeed t (s.track t) c ((s.track t).tickWord c) data)
    (fun u => { u with ports := s.ports, tracks := s.tracks, notices := s.notices }) (fun _ _ => rfl)
    (s.setTrack t (s.track t).silent)
  rw [levelTick_eq]
  refine (hclamp (s.feedsSwept t c data) c.entry).trans ?_
  refine Eq.trans ?_ hfeeds
  exact raiseIf_field (fun u => { u with ports := s.ports, tracks := s.tracks, notices := s.notices }) (fun _ _ => rfl)
    ((s.feedsComputed t c data).modTrack t _) _ _ _

/-- The level unit moves no slot, no count of a fault and no walk. -/
theorem levelTick_rings (t : TrackId) (c : Copy) (data : Option (List Byte)) (s : State) (k : TrackId) :
    ((levelTick t c data s).track k).ring = (s.track k).ring ∧
      ((levelTick t c data s).track k).underruns = (s.track k).underruns ∧
      ((levelTick t c data s).track k).readFaults = (s.track k).readFaults := by
  by_cases htk : t = k
  · subst htk
    obtain ⟨interps, hown⟩ := levelTick_own t c data s
    rw [hown]
    exact ⟨rfl, rfl, rfl⟩
  · rw [levelTick_other t k c data s htk]
    exact ⟨rfl, rfl, rfl⟩

/-- Where no set is taken and no entry starts, the level unit meets the track as the consumption leaves it. -/
theorem playBlock_steady {t : TrackId} {c : Copy} {s : State}
    (h : (s.track t).nowMark = false ∨ (s.track t).stagedPending = false) :
    playBlock t c false s = walk t (levelTick t c (consume t s).1 (consume t s).2) := by
  have hcore := consume_core t s
  have hset : ((consume t s).2.track t).takesSet c false = false := by
    refine Track.takesSet_waits c ?_
    have hmark : ((consume t s).2.track t).nowMark = (s.track t).nowMark := (congrArg Track.nowMark hcore :)
    have hpending : ((consume t s).2.track t).stagedPending = (s.track t).stagedPending :=
      (congrArg Track.stagedPending hcore :)
    rwa [hmark, hpending]
  rw [playBlock_eq]
  unfold State.readied
  dsimp only
  rw [hset]
  rfl

/-! ### What consuming the front slot leaves (R38, R63, R74) -/

section
variable (t : TrackId) (s : State)

theorem underrun_rings (k : TrackId) : ((underrun t s).track k).ring = (s.track k).ring := by
  rw [underrun, State.raise_track, State.modTrack_track]
  split
  next h => subst h; rfl
  · rfl

theorem readFault_rings (k : TrackId) : ((readFault t s).track k).ring = (s.track k).ring := by
  rw [readFault, State.raise_track, State.modTrack_track]
  split
  next h => subst h; rfl
  · rfl

end

/-- The front slot has left its ring, and nothing else of ring or banks has moved but what the banks serve (R74). -/
theorem consume_taken {t : TrackId} {s : State} {f : Slot} {q : List Slot} (hring : (s.track t).ring = f :: q)
    (hmain : f.path = .main) : (consume t s).2.banks = (dropSlots t [f.id] s).banks ∧
      ∀ k, ((consume t s).2.track k).ring = ((dropSlots t [f.id] s).track k).ring := by
  by_cases hfilled : f.state = .filled
  · rw [consume_filled hring hmain hfilled]
    generalize dropSlots t = drop
    exact ⟨rfl, fun _ => rfl⟩
  · by_cases hfaulty : f.state = .faulty
    · rw [consume_faulty hring hmain hfaulty]
      generalize dropSlots t = drop
      exact ⟨rfl, readFault_rings t _⟩
    · rw [consume_unread hring hmain hfilled hfaulty]
      generalize dropSlots t = drop
      exact ⟨rfl, underrun_rings t _⟩

/-- The ring behind the front slot stays (R74). -/
theorem consume_ring {t : TrackId} {s : State} {f : Slot} {q : List Slot} (hring : (s.track t).ring = f :: q)
    (hmain : f.path = .main) (hnot : ∀ z ∈ q, z.id ≠ f.id) :
    List.Forall₂ Slot.Served q ((consume t s).2.track t).ring := by
  have hslots := (dropSlots_serving t [f.id] s).slots t
  rw [(consume_taken hring hmain).2]
  generalize dropSlots t [f.id] s = v at hslots ⊢
  rw [State.modTrack_track_same] at hslots
  dsimp only at hslots
  rw [hring] at hslots
  have hfilter : (f :: q).filter (fun x => !([f.id].contains x.id)) = q := by
    rw [List.filter_cons_of_neg (by simp)]
    exact List.filter_eq_self.mpr fun z hz => by simpa using hnot z hz
  rwa [hfilter] at hslots

/-- No slot and no request of the front slot's number is left (R63). -/
theorem consume_gone {t : TrackId} {s : State} {f : Slot} {q : List Slot} (hring : (s.track t).ring = f :: q)
    (hmain : f.path = .main) (hothers : ∀ j, j ≠ t → ∀ z ∈ (s.track j).ring, z.id ≠ f.id) :
    (∀ k, f.id ∉ ((consume t s).2.track k).ring.map Slot.id) ∧
      ∀ b, ∀ g ∈ ((consume t s).2.bank b).fetch, g.slot ≠ f.id := by
  obtain ⟨hbanks, hrings⟩ := consume_taken hring hmain
  have hbefore : ∀ k, f.id ∉ ((s.modTrack t fun tr =>
      { tr with ring := tr.ring.filter fun x => !([f.id].contains x.id) }).track k).ring.map Slot.id := by
    intro k hmem
    by_cases hkt : k = t
    · subst hkt
      rw [State.modTrack_track_same] at hmem
      obtain ⟨z, hz, hid⟩ := List.mem_map.mp hmem
      exact absurd (List.mem_filter.mp hz).2 (by simp [hid])
    · rw [State.modTrack_track_other _ _ _ _ (Ne.symm hkt)] at hmem
      obtain ⟨z, hz, hid⟩ := List.mem_map.mp hmem
      exact hothers k hkt z hz hid
  have hserving := dropSlots_serving t [f.id] s
  unfold State.bank
  rw [hbanks]
  simp only [hrings]
  generalize dropSlots t [f.id] s = v at hserving ⊢
  refine ⟨fun k => ?_, fun b g hg heq => ?_⟩
  · rw [slotsServed_ids (hserving.slots k)]
    exact hbefore k
  · obtain ⟨-, hgone⟩ | hasks := hserving.joins b g hg
    · exact hgone (List.mem_singleton.mpr heq)
    · exact hbefore g.track (heq ▸ hasks)

theorem dropSlots_short (t : TrackId) (dead : List Nat) (s : State) :
    ((dropSlots t dead s).track t).short = (s.track t).short := by
  have hown := dropSlots_own t dead s
  generalize (dropSlots t dead s).track t = v at hown ⊢
  rw [hown]

theorem consume_stands (t : TrackId) (s : State) :
    (consume t s).2.slotSeq = s.slotSeq ∧ (consume t s).2.ports = s.ports ∧
      ((consume t s).2.track t).short = (s.track t).short := by
  have hlack (v : State) : (underrun t v).slotSeq = v.slotSeq ∧ (underrun t v).ports = v.ports ∧
      ((underrun t v).track t).short = (v.track t).short := by
    rw [underrun, State.raise_track, State.modTrack_track_same]
    exact ⟨rfl, rfl, rfl⟩
  have hfault (v : State) : (readFault t v).slotSeq = v.slotSeq ∧ (readFault t v).ports = v.ports ∧
      ((readFault t v).track t).short = (v.track t).short := by
    rw [readFault, State.raise_track, State.modTrack_track_same]
    exact ⟨rfl, rfl, rfl⟩
  obtain hlacks | ⟨f, q, hring, hmain⟩ := consume_cases t s
  · rw [consume_lacks hlacks]
    obtain ⟨hseq, hports, hshort⟩ := hlack (s.modTrack t Track.skipBlock)
    refine ⟨hseq, hports, hshort.trans ?_⟩
    rw [State.modTrack_track_same, Track.skipBlock]
    split
    · split <;> rfl
    · rfl
  · have hwork := dropSlots_work t [f.id] s
    have hdrop : (dropSlots t [f.id] s).slotSeq = s.slotSeq ∧ (dropSlots t [f.id] s).ports = s.ports ∧
        ((dropSlots t [f.id] s).track t).short = (s.track t).short :=
      ⟨hwork.slotSeq, hwork.ports, dropSlots_short t [f.id] s⟩
    by_cases hfilled : f.state = .filled
    · rw [consume_filled hring hmain hfilled]
      generalize dropSlots t = drop at hdrop
      exact hdrop
    · obtain ⟨hseq, hports, hshort⟩ := hdrop
      by_cases hfaulty : f.state = .faulty
      · rw [consume_faulty hring hmain hfaulty]
        obtain ⟨hseq', hports', hshort'⟩ := hfault (dropSlots t [f.id] s)
        exact ⟨hseq'.trans hseq, hports'.trans hports, hshort'.trans hshort⟩
      · rw [consume_unread hring hmain hfilled hfaulty]
        obtain ⟨hseq', hports', hshort'⟩ := hlack (dropSlots t [f.id] s)
        exact ⟨hseq'.trans hseq, hports'.trans hports, hshort'.trans hshort⟩

/-! ### The faults a front slot can be (R38, R74) -/

theorem satSucc_eq (n : Nat) : satSucc n = min (n + 1) 65535 := by
  unfold satSucc
  split <;> omega

theorem dropSlots_counts (t : TrackId) (dead : List Nat) (s : State) :
    ((dropSlots t dead s).track t).underruns = (s.track t).underruns ∧
      ((dropSlots t dead s).track t).readFaults = (s.track t).readFaults := by
  have hown := dropSlots_own t dead s
  generalize (dropSlots t dead s).track t = v at hown ⊢
  rw [hown]
  exact ⟨rfl, rfl⟩

theorem consume_filled_counts {t : TrackId} {s : State} {f : Slot} {q : List Slot} (hring : (s.track t).ring = f :: q)
    (hmain : f.path = .main) (h : f.state = .filled) :
    ((consume t s).2.track t).underruns = (s.track t).underruns ∧
      ((consume t s).2.track t).readFaults = (s.track t).readFaults := by
  have hcounts := dropSlots_counts t [f.id] s
  rw [consume_filled hring hmain h]
  generalize dropSlots t = drop at hcounts
  exact hcounts

theorem consume_faulty_counts {t : TrackId} {s : State} {f : Slot} {q : List Slot} (hring : (s.track t).ring = f :: q)
    (hmain : f.path = .main) (h : f.state = .faulty) :
    ((consume t s).2.track t).underruns = (s.track t).underruns ∧
      ((consume t s).2.track t).readFaults = min ((s.track t).readFaults + 1) 65535 ∧
      (consume t s).2.shows (trackSource t) .readFault = true := by
  obtain ⟨hunder, hread⟩ := dropSlots_counts t [f.id] s
  rw [consume_faulty hring hmain h, ← satSucc_eq]
  generalize dropSlots t [f.id] s = v at hunder hread ⊢
  refine ⟨?_, ?_, State.shows_raise_same ..⟩
  · rw [readFault, State.raise_track, State.modTrack_track_same]
    exact hunder
  · rw [readFault, State.raise_track, State.modTrack_track_same]
    exact congrArg satSucc hread

theorem Track.skipBlock_counts (x : Track) : x.skipBlock.underruns = x.underruns ∧ x.skipBlock.readFaults = x.readFaults := by
  unfold Track.skipBlock
  split
  · split <;> exact ⟨rfl, rfl⟩
  · exact ⟨rfl, rfl⟩

theorem consume_lacking_counts {t : TrackId} {s : State}
    (h : ∀ f q, (s.track t).ring = f :: q → f.path = .main → f.state ≠ .filled ∧ f.state ≠ .faulty) :
    ((consume t s).2.track t).underruns = min ((s.track t).underruns + 1) 65535 ∧
      ((consume t s).2.track t).readFaults = (s.track t).readFaults ∧
      (consume t s).2.shows (trackSource t) .underrun = true := by
  have hlack (v : State) (hunder : (v.track t).underruns = (s.track t).underruns)
      (hread : (v.track t).readFaults = (s.track t).readFaults) :
      ((underrun t v).track t).underruns = min ((s.track t).underruns + 1) 65535 ∧
        ((underrun t v).track t).readFaults = (s.track t).readFaults ∧
        (underrun t v).shows (trackSource t) .underrun = true := by
    rw [← satSucc_eq]
    refine ⟨?_, ?_, State.shows_raise_same ..⟩
    · rw [underrun, State.raise_track, State.modTrack_track_same]
      exact congrArg satSucc hunder
    · rw [underrun, State.raise_track, State.modTrack_track_same]
      exact hread
  obtain hlacks | ⟨f, q, hring, hmain⟩ := consume_cases t s
  · rw [consume_lacks hlacks]
    obtain ⟨hunder, hread⟩ := (s.track t).skipBlock_counts
    exact hlack _ (by rw [State.modTrack_track_same]; exact hunder) (by rw [State.modTrack_track_same]; exact hread)
  · obtain ⟨hfilled, hfaulty⟩ := h f q hring hmain
    obtain ⟨hunder, hread⟩ := dropSlots_counts t [f.id] s
    rw [consume_unread hring hmain hfilled hfaulty]
    exact hlack _ hunder hread

/-! ### The walk after the block (R64) -/

theorem walk_keeps (t : TrackId) (s : State) : ((walk t s).track t).underruns = (s.track t).underruns ∧
    ((walk t s).track t).readFaults = (s.track t).readFaults ∧ ((walk t s).track t).short = (s.track t).short ∧
    ((walk t s).track t).interps = (s.track t).interps ∧ ∀ p, (walk t s).port p = s.port p := by
  have hwork := walk_work t s
  generalize walk t s = u at hwork ⊢
  have hown := hwork.own
  exact ⟨(congrArg Track.underruns hown :), (congrArg Track.readFaults hown :), (congrArg Track.short hown :),
    (congrArg Track.interps hown :), fun p => by rw [State.port, hwork.ports, State.port]⟩

section
variable {t : TrackId} {c : Copy} {s : State} (h : (s.track t).nowMark = false ∨ (s.track t).stagedPending = false)
include h

/-- The counts of a block that plays without a transfer are those its consumption leaves. -/
theorem playBlock_counts : ((playBlock t c false s).track t).underruns = ((consume t s).2.track t).underruns ∧
    ((playBlock t c false s).track t).readFaults = ((consume t s).2.track t).readFaults := by
  rw [playBlock_steady h]
  obtain ⟨-, hunder, hread⟩ := levelTick_rings t c (consume t s).1 (consume t s).2 t
  obtain ⟨hunder', hread', -⟩ := walk_keeps t (levelTick t c (consume t s).1 (consume t s).2)
  exact ⟨hunder'.trans hunder, hread'.trans hread⟩

theorem playBlock_shows {cause : Cause} (hshows : (consume t s).2.shows (trackSource t) cause = true) :
    (playBlock t c false s).shows (trackSource t) cause = true := by
  rw [playBlock_steady h]
  exact (shows_turn t cause).walk _ ((shows_turn t cause).levelTick c _ _ hshows)

/-- The ring behind the front slot stays, and new slots come behind it (R64, R74). -/
theorem playBlock_ring {f : Slot} {q : List Slot} (hring : (s.track t).ring = f :: q) (hmain : f.path = .main)
    (hnot : ∀ z ∈ q, z.id ≠ f.id) :
    ∃ kept made, ((playBlock t c false s).track t).ring = kept ++ made ∧ List.Forall₂ Slot.SameBut q kept := by
  have htaken := consume_ring hring hmain hnot
  rw [playBlock_steady h]
  obtain ⟨hlevel, -⟩ := levelTick_rings t c (consume t s).1 (consume t s).2 t
  obtain ⟨kept, made, hwalk, hkept, -⟩ := (walk_fetching t (levelTick t c (consume t s).1 (consume t s).2)).own
  rw [hlevel] at hkept
  exact ⟨kept, made, hwalk, slotsServed_sameBut (slotsServed_trans htaken hkept)⟩

/-- The request of the front slot is gone (R63). -/
theorem playBlock_gone {f : Slot} {q : List Slot} (hring : (s.track t).ring = f :: q) (hmain : f.path = .main)
    (hid : f.id < s.slotSeq) (hothers : ∀ j, j ≠ t → ∀ z ∈ (s.track j).ring, z.id ≠ f.id) (b : BankId) :
    ∀ g ∈ ((playBlock t c false s).bank b).fetch, g.slot ≠ f.id := by
  obtain ⟨hslots, hrequests⟩ := consume_gone hring hmain hothers
  have hseq : s.slotSeq ≤ (consume t s).2.slotSeq := (consume_stands t s).1.ge
  rw [playBlock_steady h]
  generalize (consume t s).1 = data
  generalize (consume t s).2 = z at hslots hrequests hseq ⊢
  have hframe := levelTick_frame t c data z
  have hbank : (levelTick t c data z).bank b = z.bank b := (congrArg (fun u : State => u.bank b) hframe :)
  have hlevelSeq : (levelTick t c data z).slotSeq = z.slotSeq := (congrArg State.slotSeq hframe :)
  have hrings (k : TrackId) := (levelTick_rings t c data z k).1
  intro g hg heq
  obtain hg | hasks | ⟨-, hnew⟩ := (walk_fetching t (levelTick t c data z)).joins b g hg
  · exact hrequests b g (hbank ▸ hg) heq
  · unfold State.asks at hasks
    rw [hrings, heq] at hasks
    exact hslots g.track hasks
  · omega

/-- The feeds of a block that plays without a transfer, and SHORT (R79, R81, R99). -/
theorem playBlock_feeds (hnodup : ((s.track t).active.feeds.map Feed.port).Nodup) :
    (∀ p, (s.feeds (s.track t) p → ((playBlock t c false s).port p).feeds = (s.port p).feeds + 1 ∧
        (((playBlock t c false s).track t).interps[p]).isSome) ∧
      (¬ s.feeds (s.track t) p → (playBlock t c false s).port p = s.port p ∧
        ((playBlock t c false s).track t).interps[p] = none)) ∧
      ((playBlock t c false s).track t).short = ((s.track t).short ||
        (s.track t).active.feeds.any fun f => (s.port f.port).state ≠ .off && s.feedShort (s.track t) c f) := by
  have hcore := consume_core t s
  obtain ⟨-, hports, hshort⟩ := consume_stands t s
  have hclips : (consume t s).2.store.clips = s.store.clips := (consume_work t s).clips
  rw [playBlock_steady h]
  generalize (consume t s).1 = data
  generalize (consume t s).2 = z at hcore hports hclips hshort ⊢
  have hactive : (z.track t).active = (s.track t).active := (congrArg Track.active hcore :)
  have hport (p : PortId) : z.port p = s.port p := by rw [State.port, hports, State.port]
  have hfeeds (p : PortId) : z.feeds (z.track t) p ↔ s.feeds (s.track t) p := by
    unfold State.feeds
    rw [hactive, hport]
  have hbase (f : Feed) : z.feedShort (z.track t) c f = s.feedShort (s.track t) c f := by
    unfold State.feedShort State.feedBase State.clip
    rw [hactive, hport, hclips]
  obtain ⟨-, -, hlevelShort, -, hfed, hunfed⟩ := Proofs.LevelUnit.levelUnitComputesFeeds z t c data (by rwa [hactive])
  obtain ⟨-, -, hwalkShort, hinterps, hwalkPort⟩ := walk_keeps t (levelTick t c data z)
  generalize levelTick t c data z = v at *
  rw [hwalkShort, hinterps]
  refine ⟨fun p => ⟨fun hp => ?_, fun hp => ?_⟩, ?_⟩
  · obtain ⟨hoff, f, hf, rfl⟩ := (hfeeds p).mpr hp
    obtain ⟨hsome, hcount, -⟩ := hfed f hf hoff
    rw [hwalkPort, hcount, hport]
    exact ⟨rfl, by rw [hsome]; rfl⟩
  · obtain ⟨hstand, hnone⟩ := hunfed p fun hz => hp ((hfeeds p).mp hz)
    rw [hwalkPort, hstand, hport]
    exact ⟨rfl, hnone⟩
  · rw [hlevelShort, hshort, hactive]
    simp only [hport, hbase]

end

end Sys2Proof.Machine
end

namespace Sys2Proof.Proofs.Repeats

open Sys2Proof Sys2Proof.Machine

/-- The next play of the same entry begins. -/
def nextPlay (x : Track) : Track :=
  { x with stopFade := x.nextFade, playNumber := if x.playNumber < 255 then x.playNumber + 1 else 255, block := 0 }

theorem takeTrack_repeats {s : State} {t : TrackId} {c : Copy} {r : List Copy} (hdone : s.trackDone t = false)
    (hgoes : (s.track t).goesOn) (hqueue : (s.track t).queue = c :: r) (hend : c.length ≤ (s.track t).block + 1)
    (hremains : (s.track t).playRemains c = true) :
    s.holderOf t = none ∧ s.boundaryDue t = true ∧
      takeTrack t (openTick s) = playBlock t c false (s.begun t (nextPlay (s.track t))) := by
  obtain ⟨hstate, hstop, hfade, hadvance⟩ := (s.track t).goesOn_stop (.inl hgoes)
  refine ⟨holderOf_goesOn hstate hqueue fun _ => .inr (.inr (.inr hremains)),
    boundaryDue_of hdone hstate hstop hfade hqueue hend, ?_⟩
  rw [takeTrack_boundary hdone hstate hstop hfade hqueue hend fun _ => .inr hremains, hadvance]
  exact boundary_remains (s := openTick s) (x := { s.track t with stopFade := (s.track t).nextFade })
    (fun h => Track.goesOn_notEnd hgoes h) hremains

/-- Settles O38: one block plays from the begun turn, whose track is `nextPlay`. -/
theorem boundaryRepeatsThePlay : Obligations.BoundaryRepeatsThePlay := by
  unfold Obligations.BoundaryRepeatsThePlay
  intro s t c r x o hheld hdone hgoes hqueue hend htrailing hlast hplays hset
  have hremains : x.playRemains c = true := by
    unfold Track.playRemains
    rw [htrailing, hlast]
    simpa using hplays
  obtain ⟨hnone, hdue, htakes⟩ := takeTrack_repeats hdone hgoes hqueue hend hremains
  have hwork := takeTrack_work hnone
  refine ⟨takeTrack t (openTick s), takePart_acts (f := fun u => takeTrack t (openTick u)) rfl hheld hdue, hwork, ?_⟩
  rw [htakes]
  have htrack := s.begun_track t (nextPlay x)
  have hflags := s.begun_flags t (nextPlay x)
  have hseq := s.begun_slotSeq t (nextPlay x)
  have hothers (j : TrackId) (hj : j ≠ t) : (s.begun t (nextPlay x)).track j = s.track j :=
    (State.setTrack_track_other _ t j _ (Ne.symm hj)).trans (openTick_track s j)
  have hmarks : ((s.begun t (nextPlay x)).track t).nowMark = false ∨
      ((s.begun t (nextPlay x)).track t).stagedPending = false := by
    rw [htrack]
    exact hset
  have hfeeds (p : PortId) : (s.begun t (nextPlay x)).feeds (nextPlay x) p ↔ o.feeds x p := Iff.rfl
  have hshort (f : Feed) : (s.begun t (nextPlay x)).feedShort (nextPlay x) c f = o.feedShort x c f := rfl
  have hport (p : PortId) : (s.begun t (nextPlay x)).port p = o.port p := rfl
  have hclips : (s.begun t (nextPlay x)).store.clips = s.store.clips := congrArg Store.clips (s.begun_store ..)
  change _ ∧ _
  generalize s.begun t (nextPlay x) = w at *
  have hplaying : (w.track t).state ≠ .priming := by
    rw [htrack]
    obtain ⟨h, -⟩ | ⟨h, -⟩ := hgoes <;> exact fun h' => absurd (h.symm.trans h') (by decide)
  have hcore := playBlock_core (c := c) (entryStart := false) hplaying
  rw [htrack] at hcore
  have hrest := blockPlayed_rest hcore
  obtain ⟨-, -, hnco, -, -, hpending⟩ := blockPlayed_within hcore (Track.takesSet_waits c hset)
  obtain ⟨d, q, hfront, n, hd⟩ := playBlock_front (c := c) (entryStart := false) (htrack ▸ hqueue : (w.track t).queue = c :: r)
  have hring : (w.track t).ring = x.ring := (congrArg Track.ring htrack :)
  have hunderruns : (w.track t).underruns = x.underruns := (congrArg Track.underruns htrack :)
  have hreadFaults : (w.track t).readFaults = x.readFaults := (congrArg Track.readFaults htrack :)
  obtain ⟨hunder, hread⟩ := playBlock_counts (c := c) hmarks
  have hshows {cause : Cause} := playBlock_shows (c := c) (cause := cause) hmarks
  rw [← hunderruns, ← hreadFaults, ← hring]
  refine ⟨(playBlock_quiet ..).flags.trans hflags, (congrArg Track.state hrest :), (congrArg Track.stop hrest :),
    (congrArg Track.stopFade hrest :), (congrArg Track.block hrest :), ?_, ?_, (congrArg Track.staged hrest :), hpending,
    (congrArg Track.link hrest :), (congrArg Track.home hrest :), hnco, ?_, fun f q hf hmain hstate => ?_,
    fun f q hf hmain hstate => ?_, fun hlacks => ?_, fun f q hf hmain hids => ?_, fun f q hf hmain hid hq hall => ?_,
    fun hnodup => ?_⟩
  · refine (congrArg Track.playNumber hrest :).trans ?_
    dsimp only [Track.core, nextPlay]
    split <;> omega
  · exact (congrArg Track.lastPlay hrest :).trans hlast
  · subst hd
    exact ⟨_, q, hfront, rfl, rfl, rfl⟩
  · obtain ⟨hu, hr⟩ := consume_filled_counts hf hmain hstate
    exact ⟨hunder.trans hu, hread.trans hr⟩
  · obtain ⟨hu, hr, hs⟩ := consume_faulty_counts hf hmain hstate
    exact ⟨hunder.trans hu, hread.trans hr, shows_iff.mp (hshows hs)⟩
  · obtain ⟨hu, hr, hs⟩ := consume_lacking_counts hlacks
    exact ⟨hunder.trans hu, hread.trans hr, shows_iff.mp (hshows hs)⟩
  · refine playBlock_ring hmarks hf hmain fun z hz heq => ?_
    rw [hf] at hids
    exact (List.nodup_cons.mp hids).1 (heq ▸ List.mem_map_of_mem hz)
  · exact playBlock_gone hmarks hf hmain (hseq ▸ hid) fun j hj => by
      rw [hothers j hj]
      exact hall j hj
  · have hplayed := playBlock_feeds (c := c) hmarks (htrack ▸ hnodup)
    rw [htrack] at hplayed
    simp only [hfeeds, hshort, hport] at hplayed
    exact hplayed

end Sys2Proof.Proofs.Repeats

section
/-! PROOFS. A boundary after an entry's last play (R6 to R13, R39 to R41, R69, R70): O39. Whatever the entry's next kind,
the turn comes to a state (`Turning`) in which the copy behind begins, or the track is faulted. -/

namespace Sys2Proof.Machine

/-! ### The turn up to an entry start -/

/-- The turn of track `t` at the coming tick start has come as far as `w` without a flag, a pulse or a cause. -/
structure Turning (s : State) (t : TrackId) (w : State) : Prop where
  flags : w.flags = s.flags
  markers : ∀ m, w.marker m = (openTick s).marker m
  notice : w.notice (trackSource t) = s.notice (trackSource t)
  timeline : w.timeline = (openTick s).timeline
  clips : w.store.clips = s.store.clips

theorem Turning.begun (s : State) (t : TrackId) (x : Track) : Turning s t (s.begun t x) where
  flags := s.begun_flags t x
  markers _ := rfl
  notice := s.begun_notice t x
  timeline := rfl
  clips := congrArg Store.clips (s.begun_store t x)

theorem Turning.modTrack {s w : State} {t : TrackId} (h : Turning s t w) (f : Track → Track) :
    Turning s t (w.modTrack t f) := ⟨h.flags, h.markers, h.notice, h.timeline, h.clips⟩

theorem Turning.lookahead {s w u : State} {t : TrackId} (h : Turning s t w) (hwork : LookaheadWork t w u)
    (hstate : (w.track t).state ≠ .priming) : Turning s t u where
  flags := hwork.flags.trans h.flags
  markers m := by
    have hsame : u.marker m = w.marker m := by rw [State.marker, hwork.markers, State.marker]
    exact hsame.trans (h.markers m)
  notice := (hwork.notice_own hstate).trans h.notice
  timeline := hwork.timeline.trans h.timeline
  clips := hwork.clips.trans h.clips

/-- The track as the turn has left it: position and parameters stand but for the stop fade, link and decision. -/
structure Track.Leaving (x : Track) (link : Option CueIndex) (decision : Decision) (y : Track) : Prop where
  rest : { y with queue := x.queue, ring := x.ring, walk := x.walk, link := x.link, decision := x.decision } =
    { x with stopFade := x.nextFade }
  link : y.link = link
  decision : y.decision = decision

/-! ### What an entry start leaves of flags and pulses (R5) -/

theorem flagAction_congr {s u : State} (h : u.flags = s.flags) (a : FlagAction) (f : FlagId) :
    (u.flagAction a f).flags = (s.flagAction a f).flags := by
  cases a with
  | none => exact h
  | set => exact congrArg (· ||| BitVec.twoPow 16 f.toNat) h
  | clear => exact congrArg (· &&& ~~~BitVec.twoPow 16 f.toNat) h

/-- The pulses of an entry start at the coming tick start (R5, R176). -/
theorem Turning.pulsed {s w : State} {t : TrackId} (h : Turning s t w) (mask : BitVec 4) (m : LineId) :
    (w.markersPulsed mask m).remaining =
      if mask.getLsbD m.1 ∧ (s.marker m).mode = .pulse then
        max ((openTick s).marker m).remaining (s.marker m).width
      else ((openTick s).marker m).remaining := by
  obtain ⟨hmode, hwidth⟩ := openTick_marker_mode s m
  unfold State.markersPulsed MarkerLine.pulsed
  rw [h.markers, ← hmode, ← hwidth]
  by_cases hmask : mask.getLsbD m.1 = true
  · by_cases hpulse : ((openTick s).marker m).mode = .pulse
    · rw [if_pos hmask, if_pos hpulse, if_pos ⟨hmask, hpulse⟩]
    · rw [if_pos hmask, if_neg hpulse, if_neg fun hboth => hpulse hboth.2]
  · rw [if_neg hmask, if_neg fun hboth => hmask hboth.1]

/-! ### The copy behind in a queue that follows its program -/

/-- A copy outside a split is what the front copy leads to (R6 to R13). -/
theorem Track.followsProgram.front {tr : Track} {c d : Copy} {r : List Copy} (h : tr.followsProgram)
    (hqueue : tr.queue = c :: d :: r) (hd : d.path = .main) : c.leadsTo tr.standing d.index d.trailing := by
  obtain ⟨⟨main, split, hparts, -, hlead, hsplit⟩, -, -⟩ := h
  rw [hqueue] at hparts
  match main with
  | [] =>
    obtain rfl | ⟨before, e, _, _, hnil, -⟩ := hsplit
    · cases hparts
    · exact absurd hnil (by simp)
  | [m] =>
    obtain ⟨rfl, htail⟩ := List.cons.inj hparts
    obtain rfl | ⟨before, e, a, b, -, rfl, -, -, -, -, htaken, -⟩ := hsplit
    · cases htail
    · obtain ⟨rfl, -⟩ := List.cons.inj htail
      exact absurd (hd.symm.trans htaken) (by decide)
  | m :: n :: rest =>
    obtain ⟨rfl, htail⟩ := List.cons.inj hparts
    obtain ⟨rfl, -⟩ := List.cons.inj htail
    exact hlead.1

/-- The paths of a split behind the front copy are its two successors (R69). -/
theorem Track.followsProgram.split {tr : Track} {c d e : Copy} {r : List Copy} (h : tr.followsProgram)
    (hqueue : tr.queue = c :: d :: e :: r) (hd : d.path = .taken) :
    d.index = c.entry.target.index c.index ∧ e.index = c.index + 1 := by
  obtain ⟨⟨main, split, hparts, hpaths, -, hsplit⟩, -, -⟩ := h
  rw [hqueue] at hparts
  match main with
  | [] =>
    obtain rfl | ⟨before, f, _, _, hnil, -⟩ := hsplit
    · cases hparts
    · exact absurd hnil (by simp)
  | [m] =>
    obtain ⟨rfl, htail⟩ := List.cons.inj hparts
    obtain rfl | ⟨before, f, a, b, hmine, rfl, -, -, -, -, -, ha, -, -, hb, -⟩ := hsplit
    · cases htail
    · obtain rfl : f = c := by simpa using (congrArg List.getLast? hmine).symm
      obtain ⟨rfl, htail'⟩ := List.cons.inj htail
      obtain ⟨rfl, -⟩ := List.cons.inj htail'
      exact ⟨ha, hb⟩
  | m :: n :: rest =>
    obtain ⟨rfl, htail⟩ := List.cons.inj hparts
    obtain ⟨rfl, -⟩ := List.cons.inj htail
    exact absurd ((hpaths d (by simp)).symm.trans hd) (by decide)

/-! ### What the boundary comes to (R6 to R13, R69, R70) -/

section
variable {t : TrackId} {s : State} {x : Track} {c : Copy}

theorem followEntry_trailing (hc : c.trailing = true) :
    followEntry t c (s.turned t x) = afterTrailing t c (s.turned t x) := if_pos hc

theorem followEntry_late (hc : c.trailing = false) (hlate : c.entry.isLateBranch = true) :
    followEntry t c (s.turned t x) = beginNext t (fun tr => tr.decide ((s.turned t x).branchTaken c.entry) c)
      (s.turned t x) :=
  (if_neg (Bool.eq_false_iff.mp hc)).trans (if_pos hlate)

section
variable {v : State} (hc : c.trailing = false) (hlate : c.entry.isLateBranch = false)
include hc hlate

theorem followEntry_plain (h : c.entry.next = .next ∨ c.entry.next = .goto) :
    followEntry t c v = beginNext t id v := by
  unfold followEntry
  rw [if_neg (Bool.eq_false_iff.mp hc), if_neg (Bool.eq_false_iff.mp hlate)]
  obtain h | h := h <;> rw [h]

theorem followEntry_call (h : c.entry.next = .call) :
    followEntry t c v = beginNext t (fun tr => { tr with link := some (c.index + 1) }) v := by
  unfold followEntry
  rw [if_neg (Bool.eq_false_iff.mp hc), if_neg (Bool.eq_false_iff.mp hlate), h]

theorem followEntry_return (h : c.entry.next = .ret) {l : CueIndex} (hlink : (v.track t).link = some l) :
    followEntry t c v = beginNext t id v := by
  unfold followEntry
  rw [if_neg (Bool.eq_false_iff.mp hc), if_neg (Bool.eq_false_iff.mp hlate), h]
  dsimp only
  rw [hlink]

theorem followEntry_noLink (h : c.entry.next = .ret) (hlink : (v.track t).link = none) :
    followEntry t c v = faultTrack t .noLink c.index v := by
  unfold followEntry
  rw [if_neg (Bool.eq_false_iff.mp hc), if_neg (Bool.eq_false_iff.mp hlate), h]
  dsimp only
  rw [hlink]

theorem followEntry_if (h : c.entry.next = .ifSet ∨ c.entry.next = .ifClear) :
    followEntry t c v = resolveIf t c v := by
  unfold followEntry
  rw [if_neg (Bool.eq_false_iff.mp hc), if_neg (Bool.eq_false_iff.mp hlate)]
  obtain h | h := h <;> rw [h]

end

/-- An IF with one successor has formed no split (R69). -/
theorem resolveIf_plain {v : State} {d : Copy} {r : List Copy} (hqueue : (v.track t).queue = c :: d :: r)
    (hd : d.path = .main) : resolveIf t c v = beginNext t id v := by
  have hwhole : (v.track t).splitsHere = false := by
    unfold Track.splitsHere
    rw [hqueue]
    exact decide_eq_false (not_not_intro hd)
  unfold resolveIf
  dsimp only
  rw [hwhole, if_neg Bool.false_ne_true]

/-- The path of a split that the flag chooses (R10, R70). -/
def State.chosenPath (v : State) (c : Copy) : PathTag := if v.branchTaken c.entry then .taken else .fall

theorem resolveIf_split {v : State} {d : Copy} {r : List Copy} (hqueue : (v.track t).queue = c :: d :: r)
    (hd : d.path ≠ .main) : resolveIf t c v = beginNext t id (resolveSplit t (v.chosenPath c) v) := by
  have hsplit : (v.track t).splitsHere = true := by
    unfold Track.splitsHere
    rw [hqueue]
    exact decide_eq_true hd
  unfold resolveIf
  dsimp only
  rw [hsplit, if_pos rfl]
  rfl

/-- The decision of a late branch leaves the track at its link, with the successor decided (R13). -/
theorem Track.decide_leaving (y : Track) (taken : Bool) (c : Copy) :
    { y.decide taken c with walk := y.walk, link := y.link, decision := y.decision } = y := by
  unfold Track.decide Track.handDecision Track.setPhase
  dsimp only
  split
  case h_3 => split <;> rfl
  case h_4 | h_5 => split <;> rfl
  all_goals rfl

theorem Track.decide_goto {c : Copy} (h : c.entry.next = .goto) (y : Track) (taken : Bool) :
    y.decide taken c = { y with decision := .go (c.entry.target.index c.index) } := by
  unfold Track.decide
  rw [h]

theorem Track.decide_call {c : Copy} (h : c.entry.next = .call) (y : Track) (taken : Bool) :
    y.decide taken c =
      { y with decision := .go (c.entry.target.index c.index), link := some (c.index + 2) } := by
  unfold Track.decide
  rw [h]

theorem Track.decide_return {c : Copy} (h : c.entry.next = .ret) (y : Track) (taken : Bool) :
    (y.decide taken c).link = y.link ∧ (y.decide taken c).decision = (y.link.map Decision.go).getD .noLink := by
  unfold Track.decide
  rw [h]
  dsimp only
  split
  next l hl => exact ⟨rfl, by rw [hl]; rfl⟩
  next hl => exact ⟨rfl, by rw [hl]; rfl⟩

theorem Track.decide_if {c : Copy} (h : c.entry.next = .ifSet ∨ c.entry.next = .ifClear) (y : Track) (taken : Bool) :
    (y.decide taken c).link = y.link ∧
      (y.decide taken c).decision = .go (if taken then c.entry.target.index c.index else c.index + 2) := by
  unfold Track.decide Track.handDecision Track.setPhase
  obtain h | h := h
  all_goals
    rw [h]
    dsimp only
    split <;> exact ⟨rfl, rfl⟩

/-- The condition of an IF holds when its flag stands as its next kind asks (R10). -/
theorem branchTaken_iff {s v : State} {e : CueEntry} (hflags : v.flags = s.flags)
    (h : e.next = .ifSet ∨ e.next = .ifClear) :
    v.branchTaken e = true ↔ s.flagSet e.testFlag = Decidable.decide (e.next = .ifSet) := by
  have hset : v.flagSet e.testFlag = s.flagSet e.testFlag := by rw [State.flagSet, hflags, State.flagSet]
  unfold State.branchTaken
  rw [hset]
  obtain h | h := h <;> rw [h] <;> cases s.flagSet e.testFlag <;> decide

/-- The turn goes on with the copy behind. -/
theorem beginNext_turned {d : Copy} {r : List Copy} (hqueue : x.queue = c :: d :: r) (leave : Track → Track) :
    beginNext t leave (s.turned t x) = beginFront t (s.turned t { leave x with queue := d :: r }) := by
  have htrack := s.turned_track t x
  rw [beginNext_eq (by rw [htrack]; exact hqueue), s.turned_modTrack]

end

end Sys2Proof.Machine
end

namespace Sys2Proof.Proofs.Successors

open Sys2Proof Sys2Proof.Machine

/-- The track at the end of its entry. -/
def fading (x : Track) : Track := { x with stopFade := x.nextFade }

theorem takeTrack_follows {s : State} {t : TrackId} {c : Copy} {r : List Copy} (hdone : s.trackDone t = false)
    (hgoes : (s.track t).goesOn) (hqueue : (s.track t).queue = c :: r) (hend : c.length ≤ (s.track t).block + 1)
    (hremains : (s.track t).playRemains c = false) (hhold : c.isHold = false) :
    s.holderOf t = none ∧ s.boundaryDue t = true ∧
      takeTrack t (openTick s) = followEntry t c (s.begun t (fading (s.track t))) := by
  obtain ⟨hstate, hstop, hfade, hadvance⟩ := (s.track t).goesOn_stop (.inl hgoes)
  refine ⟨holderOf_goesOn hstate hqueue fun _ => .inr (.inl hhold),
    boundaryDue_of hdone hstate hstop hfade hqueue hend, ?_⟩
  rw [takeTrack_boundary hdone hstate hstop hfade hqueue hend fun _ => .inl hhold, hadvance]
  exact boundary_passes (s := openTick s) (x := fading (s.track t)) (fun h => Track.goesOn_notEnd hgoes h) hremains

/-- Settles O39. -/
theorem boundaryBeginsTheSuccessor : Obligations.BoundaryBeginsTheSuccessor := by
  unfold Obligations.BoundaryBeginsTheSuccessor
  intro s t c r x begins faults leads isIf holds target hheld hdone hgoes hqueue hend hremains
  have hplaying : x.state ≠ .priming := by
    obtain ⟨h, -⟩ | ⟨h, -⟩ := hgoes <;> exact fun h' => absurd (h.symm.trans h') (by decide)
  -- What the two ends of a boundary amount to.
  have hfault {w : State} {link : Option CueIndex} {decision : Decision} {reason : FaultReason} {index : CueIndex}
      (hhold : c.isHold = false) (htakes : takeTrack t (openTick s) = faultTrack t reason index w) (hw : Turning s t w)
      (hx : x.Leaving link decision (w.track t)) : faults reason index := by
    obtain ⟨hnone, hdue, -⟩ := takeTrack_follows hdone hgoes hqueue hend hremains hhold
    have hwork := takeTrack_work hnone
    have hacts : Acts (.boundary t) s (takeTrack t (openTick s)) :=
      takePart_acts (f := fun u => takeTrack t (openTick u)) rfl hheld hdue
    rw [htakes] at hwork hacts
    obtain ⟨htrack, hnotice, hquiet, htimeline⟩ := faultTrack_faulted t reason index w
    generalize faultTrack t reason index w = u at *
    have hrest := Track.transfer_rest (w.track t)
    refine ⟨u, hacts, hwork, hquiet.flags.trans hw.flags, (congrArg Track.state htrack :),
      (congrArg Track.faultReason htrack :), (congrArg Track.faultIndex htrack :), (congrArg Track.queue htrack :),
      (congrArg Track.ring htrack :), (congrArg (fun y : Track => y.walk.phase) htrack :), ?_,
      (congrArg Track.stagedPending htrack :).trans (Track.transfer_stagedPending _),
      ((congrArg Track.underruns htrack :).trans (congrArg Track.underruns hrest :)).trans
        (congrArg Track.underruns hx.rest :),
      ((congrArg Track.readFaults htrack :).trans (congrArg Track.readFaults hrest :)).trans
        (congrArg Track.readFaults hx.rest :), fun m => ?_, ?_⟩
    · refine ((congrArg Track.active htrack :).trans (Track.transfer_active _)).trans ?_
      rw [(congrArg Track.stagedPending hx.rest :), (congrArg Track.staged hx.rest :), (congrArg Track.active hx.rest :)]
    · rw [State.marker, hquiet.markers, ← State.marker, hw.markers]
    · rw [hnotice, htimeline, hw.notice]
  have hleads {w : State} {link : Option CueIndex} {decision : Decision} {e f : Copy} {q : List Copy}
      (hhold : c.isHold = false) (htakes : takeTrack t (openTick s) = beginFront t w) (hw : Turning s t w)
      (hx : x.Leaving link decision (w.track t)) (hfront : (w.track t).queue = f :: q) (hsame : { f with path := e.path } = e) :
      leads e link decision := by
    have hstatus : f.status = e.status := (congrArg Copy.status hsame :)
    have hindex : f.index = e.index := (congrArg Copy.index hsame :)
    have hentry : f.entry = e.entry := (congrArg Copy.entry hsame :)
    have hlength : f.length = e.length := (congrArg Copy.length hsame :)
    refine ⟨fun hgood => ?_, fun hbad => ?_, fun hbad => ?_⟩
    · obtain ⟨hnone, hdue, -⟩ := takeTrack_follows hdone hgoes hqueue hend hremains hhold
      have hwork := takeTrack_work hnone
      have hacts : Acts (.boundary t) s (takeTrack t (openTick s)) :=
        takePart_acts (f := fun u => takeTrack t (openTick u)) rfl hheld hdue
      rw [htakes] at hwork hacts
      have hstate : (w.track t).state = x.state := (congrArg Track.state hx.rest :)
      obtain ⟨hcore, ⟨d, q', hqueue', n, hd⟩, hflags, hmarkers, hnote⟩ :=
        beginFront_begun hfront (hstatus.trans hgood) (hstate ▸ hplaying)
      rw [hentry] at hflags hmarkers hnote
      generalize beginFront t w = u at *
      have hrest := blockPlayed_rest hcore
      refine ⟨u, hacts, hwork, (congrArg Track.state hrest :).trans hstate,
        (congrArg Track.stop hrest :).trans (congrArg Track.stop hx.rest :),
        (congrArg Track.stopFade hrest :).trans (congrArg Track.stopFade hx.rest :),
        (congrArg Track.playNumber hrest :), (congrArg Track.block hrest :), (congrArg Track.lastPlay hrest :),
        (congrArg Track.link hrest :).trans hx.link, (congrArg Track.decision hrest :).trans hx.decision,
        (congrArg Track.home hrest :).trans (congrArg Track.home hx.rest :), ?_,
        hflags.trans (flagAction_congr hw.flags _ _), fun m => ?_, fun hn => shows_iff.mp (hnote hn)⟩
      · subst hd
        exact ⟨_, q', hqueue', hindex, hentry, hlength⟩
      · rw [hmarkers]
        exact hw.pulsed e.entry.markers m
    all_goals
      have hreason := htakes.trans (beginFront_bad hfront (by rw [hstatus, hbad]; decide))
      rw [hstatus, hbad, hindex] at hreason
      exact hfault hhold hreason hw hx
  -- The turn's beginning, and the copy behind without a split.
  have hbehind {leave : Track → Track} {link : Option CueIndex} {decision : Decision} {d : Copy} {q : List Copy}
      (hr : r = d :: q) (hhold : c.isHold = false)
      (hfollow : followEntry t c (s.begun t (fading x)) = beginNext t leave (s.begun t (fading x)))
      (hx : x.Leaving link decision { leave (fading x) with queue := d :: q }) : leads d link decision := by
    obtain ⟨-, -, htakes⟩ := takeTrack_follows hdone hgoes hqueue hend hremains hhold
    subst hr
    have hnext : beginNext t leave (s.begun t (fading x)) = beginFront t (s.begun t { leave (fading x) with queue := d :: q }) :=
      beginNext_turned (s := openTick s) (x := fading x) (c := c) (d := d) (r := q) hqueue leave
    have htrack := s.begun_track t { leave (fading x) with queue := d :: q }
    refine hleads hhold ((htakes.trans hfollow).trans hnext) (.begun s t _) ?_ (f := d) (q := q) ?_ rfl
    · rw [htrack]
      exact hx
    · rw [htrack]
  refine ⟨fun d q hr hprogram hc hd => ?_, fun d e q hr hprogram hd => ?_, fun htrailing => ⟨fun d q hr hlate => ?_,
    fun hlate hret hlink => ?_, fun d e q hr hlate hif hc hd he => ?_, fun d q hr hlate => ?_⟩,
    fun htrailing => ⟨fun d q hr hdecision => ?_, fun hdecision => ?_⟩⟩
  · have hlead := hprogram.front (hr ▸ hqueue) hd
    unfold Copy.leadsTo at hlead
    refine ⟨fun h => ?_, fun h hl => ?_, fun h hl => ?_⟩
    · rw [if_pos h] at hlead
      exact ⟨hlead.2, hlead.1⟩
    · rw [if_neg (Bool.eq_false_iff.mp h), if_pos hl] at hlead
      exact hlead
    · rw [if_neg (Bool.eq_false_iff.mp h), if_neg (Bool.eq_false_iff.mp hl)] at hlead
      obtain ⟨htrailing, hkind⟩ := hlead
      refine ⟨htrailing, ?_, ?_, fun hn => ?_⟩
      · rintro (hn | hn | hn) <;> rw [hn] at hkind
        · exact hkind
        · exact hkind.1
        · exact hkind.1
      · rintro (hn | hn | hn | hn) <;> rw [hn] at hkind
        · exact hkind
        · exact hkind
        · exact hkind.1.trans hkind.2.symm
        · exact hkind.1.trans hkind.2.symm
      · rw [hn] at hkind
        exact hkind
  · exact hprogram.split (hr ▸ hqueue) hd
  · have hplain : c.entry.isLateBranch = false := by rw [CueEntry.isLateBranch, hlate, Bool.false_and]
    have hhold {k : NextKind} (hn : c.entry.next = k) (hk : k ≠ .hold) : c.isHold = false := by
      rw [Copy.isHold, hn, decide_eq_false hk, Bool.and_false]
    have htrack := s.begun_track t (fading x)
    refine ⟨?_, fun hn => ?_, ?_⟩
    · rintro (hn | hn | ⟨hn, hlink⟩)
      · exact hbehind hr (hhold hn (by decide)) (followEntry_plain htrailing hplain (.inl hn)) ⟨rfl, rfl, rfl⟩
      · exact hbehind hr (hhold hn (by decide)) (followEntry_plain htrailing hplain (.inr hn)) ⟨rfl, rfl, rfl⟩
      · obtain ⟨l, hl⟩ := Option.isSome_iff_exists.mp hlink
        exact hbehind hr (hhold hn (by decide)) (followEntry_return htrailing hplain hn (by rw [htrack]; exact hl))
          ⟨rfl, rfl, rfl⟩
    · exact hbehind hr (hhold hn (by decide)) (followEntry_call htrailing hplain hn) ⟨rfl, rfl, rfl⟩
    · intro hn hd
      have hnohold : c.isHold = false := by
        obtain h | h := hn
        · exact hhold h (by decide)
        · exact hhold h (by decide)
      refine hbehind hr hnohold ((followEntry_if htrailing hplain hn).trans (resolveIf_plain (r := q) ?_ hd)) ⟨rfl, rfl, rfl⟩
      rw [htrack]
      exact hr ▸ hqueue
  · have hplain : c.entry.isLateBranch = false := by rw [CueEntry.isLateBranch, hlate, Bool.false_and]
    have hhold : c.isHold = false := by rw [Copy.isHold, hret]; exact Bool.and_false _
    have htrack := s.begun_track t (fading x)
    obtain ⟨-, -, htakes⟩ := takeTrack_follows hdone hgoes hqueue hend hremains hhold
    refine hfault hhold (htakes.trans (followEntry_noLink htrailing hplain hret (by rw [htrack]; exact hlink)))
      (.begun s t _) (link := x.link) (decision := x.decision) ?_
    rw [htrack]
    exact ⟨rfl, rfl, rfl⟩
  · have hplain : c.entry.isLateBranch = false := by rw [CueEntry.isLateBranch, hlate, Bool.false_and]
    have hhold : c.isHold = false := by
      unfold Copy.isHold
      obtain h | h := hif <;> rw [h] <;> exact Bool.and_false _
    have htrack := s.begun_track t (fading x)
    have hchosen : (s.begun t (fading x)).chosenPath c = if holds then .taken else .fall :=
      if_congr (branchTaken_iff (e := c.entry) (s.begun_flags t (fading x)) hif) rfl rfl
    obtain ⟨-, -, htakes⟩ := takeTrack_follows hdone hgoes hqueue hend hremains hhold
    have hresolve := htakes.trans ((followEntry_if htrailing hplain hif).trans
      (resolveIf_split (c := c) (d := d) (r := e :: q) (by rw [htrack]; exact hr ▸ hqueue) (by rw [hd]; decide)))
    rw [hchosen] at hresolve
    have hchosenFront : ∃ rest, (x.queue.filter fun f => f.path = (if holds then .taken else .fall) || f.path = .main).map
        (fun f => { f with path := .main }) =
          { c with path := .main } :: { (if holds then d else e) with path := .main } :: rest := by
      rw [show x.queue = c :: d :: e :: q from hr ▸ hqueue]
      by_cases h : holds
      · exact ⟨_, by simp only [if_pos h, List.filter_cons, hc, hd, he]; rfl⟩
      · exact ⟨_, by simp only [if_neg h, List.filter_cons, hc, hd, he]; rfl⟩
    obtain ⟨rest, hrest⟩ := hchosenFront
    generalize (if holds then PathTag.taken else PathTag.fall) = chosen at hresolve hrest
    obtain ⟨ring, k, hown⟩ := resolveSplit_own t chosen (s.begun t (fading x))
    have hw := (Turning.begun s t (fading x)).lookahead (resolveSplit_work t chosen _) (by rw [htrack]; exact hplaying)
    rw [htrack] at hown
    generalize resolveSplit t chosen (s.begun t (fading x)) = w at hresolve hown hw
    have hwqueue : (w.track t).queue = { c with path := .main } :: { (if holds then d else e) with path := .main } :: rest :=
      (congrArg Track.queue hown).trans hrest
    rw [beginNext_eq hwqueue] at hresolve
    refine hleads hhold hresolve (hw.modTrack _) (f := { (if holds then d else e) with path := .main }) (q := rest) ?_ ?_ ?_
    · rw [State.modTrack_track_same, hown]
      exact ⟨rfl, rfl, rfl⟩
    · rw [State.modTrack_track_same]
    · rfl
  · have hfollow (hbranch : c.entry.next.branches = true) :=
      followEntry_late (t := t) (s := openTick s) (x := fading x) htrailing
        (by rw [CueEntry.isLateBranch, hlate, hbranch]; rfl : c.entry.isLateBranch = true)
    have hhold {k : NextKind} (hn : c.entry.next = k) (hk : k ≠ .hold) : c.isHold = false := by
      rw [Copy.isHold, hn, decide_eq_false hk, Bool.and_false]
    have hbegun : (openTick s).turned t (fading x) = s.begun t (fading x) := rfl
    rw [hbegun] at hfollow
    have hleaving := (fading x).decide_leaving ((s.begun t (fading x)).branchTaken c.entry) c
    have hrest := congrArg (fun y : Track => { y with queue := x.queue, ring := x.ring }) hleaving
    refine ⟨fun hn => ?_, fun hn => ?_, fun hn => ?_, fun hn => ?_, fun hn => ?_⟩
    · refine hbehind hr (hhold hn (by decide)) (followEntry_plain htrailing ?_ (.inl hn)) ⟨rfl, rfl, rfl⟩
      rw [CueEntry.isLateBranch, hn]
      exact Bool.and_false _
    · exact hbehind hr (hhold hn (by decide)) (hfollow (by rw [hn]; rfl))
        ⟨hrest, (congrArg Track.link (Track.decide_goto hn ..) :), (congrArg Track.decision (Track.decide_goto hn ..) :)⟩
    · exact hbehind hr (hhold hn (by decide)) (hfollow (by rw [hn]; rfl))
        ⟨hrest, (congrArg Track.link (Track.decide_call hn ..) :), (congrArg Track.decision (Track.decide_call hn ..) :)⟩
    · obtain ⟨hlink, hdecision⟩ := Track.decide_return hn (fading x) ((s.begun t (fading x)).branchTaken c.entry)
      refine hbehind hr (hhold hn (by decide)) (hfollow (by rw [hn]; rfl)) ⟨hrest, hlink, hdecision.trans ?_⟩
      change (x.link.map Decision.go).getD .noLink = _
      cases x.link <;> rfl
    · obtain ⟨hlink, hdecision⟩ := Track.decide_if hn (fading x) ((s.begun t (fading x)).branchTaken c.entry)
      have htaken := branchTaken_iff (e := c.entry) (s.begun_flags t (fading x)) hn
      have hboth : c.isHold = false ∧ c.entry.next.branches = true := by
        obtain h | h := hn <;> exact ⟨hhold h (by decide), by rw [h]; rfl⟩
      refine hbehind hr hboth.1 (hfollow hboth.2) ⟨hrest, hlink, hdecision.trans ?_⟩
      exact congrArg Decision.go (if_congr htaken rfl rfl)
  · have hhold : c.isHold = false := by rw [Copy.isHold, htrailing]; rfl
    refine hbehind hr hhold (leave := fun tr => { tr with decision := .none })
      ((followEntry_trailing htrailing).trans ?_) ⟨rfl, rfl, rfl⟩
    have hbegun : (openTick s).turned t (fading x) = s.begun t (fading x) := rfl
    have htrack := s.begun_track t (fading x)
    rw [hbegun]
    unfold afterTrailing
    rw [htrack]
    split
    next h => exact absurd h hdecision
    next => rfl
  · have hhold : c.isHold = false := by rw [Copy.isHold, htrailing]; rfl
    have htrack := s.begun_track t (fading x)
    obtain ⟨-, -, htakes⟩ := takeTrack_follows hdone hgoes hqueue hend hremains hhold
    refine hfault hhold ((htakes.trans (followEntry_trailing (s := openTick s) (x := fading x) htrailing)).trans ?_)
      (.begun s t (fading x)) (link := x.link) (decision := x.decision) ?_
    · have hbegun : (openTick s).turned t (fading x) = s.begun t (fading x) := rfl
      rw [hbegun]
      unfold afterTrailing
      rw [htrack]
      split
      next => rfl
      next h => exact absurd hdecision h
    · rw [htrack]
      exact ⟨rfl, rfl, rfl⟩

end Sys2Proof.Proofs.Successors

section
/-! PROOFS. What a track's interpolators hold reaches nothing but the samples of its next block: opening a tick start and
serving the banks commute with dropping them (R88, R99). -/

namespace Sys2Proof.Machine

/-! ### A track whose interpolators are dropped -/

/-- The state with the interpolators of track `t` dropped. -/
def State.hushed (t : TrackId) (s : State) : State := s.modTrack t Track.silent

section
variable (t : TrackId) (s : State)

theorem hushed_track (k : TrackId) : (s.hushed t).track k = if t = k then (s.track k).silent else s.track k := by
  unfold State.hushed
  rw [State.modTrack_track]
  split
  next h => rw [h]
  next => rfl

/-- Whatever does not look at the interpolators does not see them dropped. -/
theorem hushed_field {β : Type} (g : Track → β) (hg : ∀ x : Track, g x.silent = g x) (k : TrackId) :
    g ((s.hushed t).track k) = g (s.track k) := by
  rw [hushed_track]
  split
  · exact hg _
  · rfl

theorem hushed_modTrack {f : Track → Track} (hf : ∀ x : Track, f x.silent = (f x).silent) (k : TrackId) :
    (s.hushed t).modTrack k f = (s.modTrack k f).hushed t := by
  have htracks : ((s.hushed t).modTrack k f).tracks = ((s.modTrack k f).hushed t).tracks := by
    refine Vector.ext fun i hi => ?_
    have hleft := State.modTrack_track (s.hushed t) k ⟨i, hi⟩ f
    have hright := hushed_track t (s.modTrack k f) ⟨i, hi⟩
    refine hleft.trans (Eq.trans ?_ hright.symm)
    by_cases hk : k = ⟨i, hi⟩
    · rw [if_pos hk, ← hk, State.modTrack_track_same, hushed_track]
      split
      · exact hf _
      · rfl
    · rw [if_neg hk, hushed_track, State.modTrack_track_other _ _ _ _ hk]
  exact congrArg (fun v => { s with tracks := v }) htracks

theorem hushed_deadline (k : TrackId) (n : Nat) : (s.hushed t).deadline k n = s.deadline k n := by
  have hfront : (s.hushed t).frontDue k = s.frontDue k := by
    have hstate := hushed_field t s Track.state (fun _ => rfl) k
    have hstart := hushed_field t s Track.start (fun _ => rfl) k
    have hdue := hushed_field t s Track.startDue (fun _ => rfl) k
    unfold State.frontDue
    dsimp only
    rw [hstate, hstart, hdue]
    rfl
  have hring := hushed_field t s Track.ring (fun _ => rfl) k
  unfold State.deadline
  rw [hfront, hring]

theorem hushed_urgency : (s.hushed t).urgency = s.urgency := by
  funext r
  have hplace := hushed_field t s (fun x => x.slotPlace r.slot) (fun _ => rfl) r.track
  have hdeadline := hushed_deadline t s r.track
  have hcount : (s.hushed t).timeline.count = s.timeline.count := rfl
  unfold State.urgency
  dsimp only at hplace ⊢
  rw [hplace, hdeadline, hcount]

theorem hushed_wanting (b : BankId) : (s.hushed t).wanting b = s.wanting b := by
  unfold State.wanting
  have hrings (k : TrackId) : ((s.hushed t).track k).ring = (s.track k).ring := by
    rw [hushed_track]
    split <;> rfl
  simp only [hrings]
  rfl

end

/-! ### Serving the banks -/

theorem forEach_commutes {α : Type} {xs : List α} {f : State → α → State} {h : State → State}
    (hf : ∀ s x, f (h s) x = h (f s x)) (s : State) : forEach xs f (h s) = h (forEach xs f s) := by
  induction xs generalizing s with
  | nil => rfl
  | cons x r ih =>
    have hstep : forEach (x :: r) f (h s) = forEach r f (f (h s) x) := rfl
    rw [hstep, hf, ih]
    rfl

section
variable (t : TrackId) (b : BankId) (s : State)

theorem hushed_suspendReact : suspendReact b (s.hushed t) = (suspendReact b s).hushed t := by
  unfold suspendReact
  dsimp only
  have hbank : (s.hushed t).bank b = s.bank b := rfl
  rw [hbank]
  split
  · rfl
  · split
    · split
      · rfl
      · split <;> rfl
    · rfl

theorem modSlot_silent (id : Nat) (st : SlotState) (x : Track) :
    x.silent.modSlot id (fun y => { y with state := st }) = (x.modSlot id fun y => { y with state := st }).silent := rfl

theorem hushed_joinFetch (r : FetchRequest) : joinFetch b r (s.hushed t) = (joinFetch b r s).hushed t := by
  have hmod := hushed_modTrack t (s.modBank b fun k => { k with fetch := k.fetch ++ [r] })
    (f := fun tr => tr.modSlot r.slot fun x => { x with state := .queued }) (modSlot_silent r.slot .queued) r.track
  exact (congrArg (suspendReact b) hmod).trans (hushed_suspendReact t b _)

theorem hushed_offerPlaces (n : Nat) : offerPlaces b n (s.hushed t) = (offerPlaces b n s).hushed t := by
  induction n generalizing s with
  | zero => rfl
  | succ n ih =>
    unfold offerPlaces
    have hbank : (s.hushed t).bank b = s.bank b := rfl
    rw [hbank, hushed_urgency, hushed_wanting]
    split
    · cases leastBy s.urgency (s.wanting b) with
      | none => exact rfl
      | some r => exact (congrArg (offerPlaces b n) (hushed_joinFetch t b s r)).trans (ih _)
    · rfl

theorem hushed_startRead : startRead b (s.hushed t) = (startRead b s).hushed t := by
  unfold startRead
  have hbank : (s.hushed t).bank b = s.bank b := rfl
  rw [hbank, hushed_urgency]
  cases leastBy s.urgency (s.bank b).fetch with
  | none => exact rfl
  | some r =>
    have hmod := hushed_modTrack t (s.modBank b fun k => { k with fetch := k.fetch.erase r, inFlight := some r })
      (f := fun tr => tr.modSlot r.slot fun x => { x with state := .reading }) (modSlot_silent r.slot .reading) r.track
    exact (congrArg (offerPlaces b Config.fetchQueue) hmod).trans (hushed_offerPlaces t b _ _)

theorem hushed_startStore : startStore b (s.hushed t) = (startStore b s).hushed t := by
  unfold startStore
  dsimp only
  have hbank : (s.hushed t).bank b = s.bank b := rfl
  have herasable : (s.hushed t).erasable b = s.erasable b := rfl
  rw [hbank, herasable]
  split
  · rfl
  · split
    · split <;> rfl
    · rfl

theorem hushed_bankSettle : bankSettle b (s.hushed t) = (bankSettle b s).hushed t := by
  unfold bankSettle
  dsimp only
  have hbank : (s.hushed t).bank b = s.bank b := rfl
  have hscanning : (s.hushed t).store.scanning = s.store.scanning := rfl
  rw [hbank, hscanning]
  split
  · rfl
  · split
    · split
      · exact hushed_startStore t b s
      · exact hushed_startRead t b s
    · split
      · split
        · rfl
        · exact hushed_startRead t b s
      · rfl

theorem hushed_withdrawFrom (dead : List Nat) : withdrawFrom dead (s.hushed t) b = (withdrawFrom dead s b).hushed t := by
  unfold withdrawFrom
  have hbank : (s.hushed t).bank b = s.bank b := rfl
  rw [hbank]
  split
  · have hmod : (s.hushed t).modBank b (fun k => { k with fetch := k.fetch.filter fun r => !dead.contains r.slot }) =
        (s.modBank b fun k => { k with fetch := k.fetch.filter fun r => !dead.contains r.slot }).hushed t := rfl
    dsimp only
    rw [hmod, hushed_offerPlaces, hushed_bankSettle]
  · rfl

end

theorem hushed_dropSlots (t k : TrackId) (dead : List Nat) (s : State) :
    dropSlots k dead (s.hushed t) = (dropSlots k dead s).hushed t := by
  have hmod := hushed_modTrack t s (f := fun tr => { tr with ring := tr.ring.filter fun x => !dead.contains x.id })
    (fun _ => rfl) k
  unfold dropSlots
  dsimp only
  rw [hmod]
  exact forEach_commutes (h := State.hushed t) (fun u b => hushed_withdrawFrom t b u dead) _

theorem hushed_discardAll (t : TrackId) (s : State) : discardAll t (s.hushed t) = (discardAll t s).hushed t := by
  have hring : ((s.hushed t).track t).ring = (s.track t).ring := by
    rw [hushed_track, if_pos rfl]
    rfl
  have hmod := hushed_modTrack t s (f := fun tr => { tr with queue := [], walk := Walk.stopped, decision := .none })
    (fun _ => rfl) t
  unfold discardAll
  dsimp only
  rw [hring, hmod, hushed_dropSlots]

/-- A fault drops the interpolators, so that what they held leaves no trace (R41, R99). -/
theorem faultTrack_hushed (t : TrackId) (reason : FaultReason) (i : CueIndex) (s : State) :
    faultTrack t reason i (s.hushed t) = faultTrack t reason i s := by
  have hdiscard := hushed_discardAll t s
  unfold faultTrack
  rw [hdiscard]
  generalize discardAll t s = u
  have htransfer (x : Track) : x.silent.transfer.silent = x.transfer.silent := by
    unfold Track.transfer
    have hpending : x.silent.stagedPending = x.stagedPending := rfl
    have hgate : x.silent.gateMark = x.gateMark := rfl
    dsimp only
    rw [hpending, hgate]
    split
    · split <;> rfl
    · rfl
  dsimp only
  rw [State.hushed, State.modTrack_modTrack]
  simp only [htransfer]

/-! ### Opening the tick start (R156) -/

/-- The state with its tracks replaced. -/
def State.withTracks (v : Vector Track 48) (s : State) : State := { s with tracks := v }

section
variable (v : Vector Track 48) (s : State)

theorem withTracks_raiseIf (c : Bool) (n : SourceId) (cause : Cause) :
    (s.withTracks v).raiseIf c n cause = (s.raiseIf c n cause).withTracks v := by
  unfold State.raiseIf
  split <;> rfl

theorem withTracks_timelineTick : timelineTick (s.withTracks v) = (timelineTick s).withTracks v := by
  unfold timelineTick
  have hwork : (s.withTracks v).work = s.work := rfl
  rw [hwork]
  split
  · rfl
  · dsimp only
    refine Eq.trans ?_ (withTracks_raiseIf v _ _ _ _)
    refine congrArg (fun u : State => u.raiseIf s.timeline.losesMarker clockSource .holdover) ?_
    refine Eq.trans ?_ (withTracks_raiseIf v _ _ _ _)
    refine congrArg (fun u : State => u.raiseIf s.timeline.raisesSlip clockSource .slip) ?_
    exact withTracks_raiseIf v { s with timeline := s.timeline.tick, work := { s.work with timeline := true } } _ _ _

theorem withTracks_portTick (p : PortId) : portTick (s.withTracks v) p = (portTick s p).withTracks v := by
  unfold portTick
  have hwork : (s.withTracks v).work = s.work := rfl
  have hport : (s.withTracks v).port p = s.port p := rfl
  rw [hwork, hport]
  dsimp only
  split
  · rfl
  · split
    · split <;> rfl
    · rfl

theorem withTracks_triggerFall (n : LineId) : triggerFall (s.withTracks v) n = (triggerFall s n).withTracks v := by
  unfold triggerFall
  have hwork : (s.withTracks v).work = s.work := rfl
  rw [hwork]
  split <;> rfl

theorem withTracks_markerFall (m : LineId) : markerFall (s.withTracks v) m = (markerFall s m).withTracks v := by
  unfold markerFall
  have hwork : (s.withTracks v).work = s.work := rfl
  rw [hwork]
  split <;> rfl

theorem withTracks_gapTick : gapTick (s.withTracks v) = (gapTick s).withTracks v := by
  unfold gapTick
  have hwork : (s.withTracks v).work = s.work := rfl
  have hlink : (s.withTracks v).link = s.link := rfl
  rw [hwork, hlink]
  dsimp only
  split
  · rfl
  · split
    · split <;> rfl
    · rfl

/-- The opening of a tick start does not look at the tracks. -/
theorem withTracks_openTick : openTick (s.withTracks v) = (openTick s).withTracks v := by
  unfold openTick
  rw [withTracks_timelineTick, forEach_commutes (h := State.withTracks v) (fun u p => withTracks_portTick v u p),
    forEach_commutes (h := State.withTracks v) (fun u n => withTracks_triggerFall v u n),
    forEach_commutes (h := State.withTracks v) (fun u m => withTracks_markerFall v u m), withTracks_gapTick]

end

/-- A tick start opened with another track in place. -/
theorem begun_setTrack (s : State) (t : TrackId) (x y : Track) : (s.setTrack t x).begun t y = s.begun t y := by
  have hopen : openTick (s.setTrack t x) = (openTick s).setTrack t x := by
    refine (withTracks_openTick (s.tracks.set t.1 x t.2) s).trans ?_
    unfold State.withTracks State.setTrack
    rw [openTick_tracks]
  unfold State.begun
  rw [hopen]
  have hmark : ((openTick s).setTrack t x).turned t y = ((openTick s).turned t x).setTrack t y := rfl
  rw [hmark, State.turned_setTrack]

end Sys2Proof.Machine
end

section
/-! PROOFS. The start tick of a track, and a start that waits (R33 to R36, R99): O41. -/

namespace Sys2Proof.Machine

/-! ### The start tick (R32, R33, R36) -/

/-- The track as its home entry begins (R36). -/
def Track.launched (x : Track) : Track :=
  { x.restartGate.silent with state := .playing, start := .none, startDue := false, stopFade := 0, nco := 0 }

/-- The start condition makes a tick start of this count the start tick (R32, R33, R34). -/
def Track.startsAt (x : Track) (count : Count) : Prop :=
  (x.startDue = true ∧ (x.start = .next ∨ ∃ n, x.start = .trigger n)) ∨
    ∃ time, x.start = .atTime time ∧ (x.startDue = true ∨ time = count)

theorem startsNow_of {v : State} {t : TrackId} (h : (v.track t).startsAt v.timeline.count) : v.startsNow t = true := by
  unfold State.startsNow
  dsimp only
  obtain ⟨hdue, hstart | ⟨n, hstart⟩⟩ | ⟨time, hstart, hdue⟩ := h
  · rw [hstart]
    exact hdue
  · rw [hstart]
    exact hdue
  · rw [hstart]
    obtain hdue | hdue := hdue <;> simp [hdue]

theorem Track.startsAt.ne_flag {x : Track} {count : Count} (h : x.startsAt count) (f : FlagId) (consume : Bool) :
    x.start ≠ .flag f consume := by
  obtain ⟨-, hstart | ⟨n, hstart⟩⟩ | ⟨time, hstart, -⟩ := h <;> rw [hstart] <;> exact StartCond.noConfusion

/-- A start without a flag holds on none (R17). -/
theorem holderOf_starts {s : State} {t : TrackId} (hstate : (s.track t).state = .starting)
    (h : ∀ f consume, (s.track t).start ≠ .flag f consume) : s.holderOf t = none := by
  unfold State.holderOf
  dsimp only
  split
  · rfl
  · rw [hstate]
    cases hstart : (s.track t).start with
    | flag f consume => exact absurd hstart (h f consume)
    | none | next | atTime _ | trigger _ => exact rfl

theorem takeTrack_starts {s : State} {t : TrackId} (hdone : s.trackDone t = false)
    (hstate : (s.track t).state = .starting) (h : (s.track t).startsAt (openTick s).timeline.count) :
    (openTick s).startDue t = true ∧ takeTrack t (openTick s) = beginTrack t (s.begun t (s.track t)) := by
  have htrack := openTick_track s t
  have hbegun := s.begun_track t (s.track t)
  have hstarts : (s.begun t (s.track t)).startsNow t = true := startsNow_of (by rw [hbegun]; exact h)
  have hdone' := (openTick_trackDone s t).trans hdone
  constructor
  · unfold State.startDue
    rw [hdone', htrack, hstate, startsNow_of (v := openTick s) (t := t) (by rw [htrack]; exact h)]
    rfl
  · have hmark : (openTick s).markTrack t = s.begun t (s.track t) := by
      rw [State.markTrack_turned, htrack]
      rfl
    rw [takeTrack_own (holderOf_starts hstate h.ne_flag), trackTick_starts hdone' (by rwa [htrack]), hmark]
    exact if_pos hstarts

section
variable {s : State} {t : TrackId} {x : Track} {c : Copy} {r : List Copy} (hqueue : x.queue = c :: r)
include hqueue

theorem beginTrack_launches (v : State) (hgood : c.status = .good) :
    beginTrack t (v.turned t x) = (beginFront t (v.turned t x.launched)).raise (trackSource t) .started := by
  have htrack := v.turned_track t x
  have hmod : (v.turned t x).modTrack t Track.launched = v.turned t x.launched := State.turned_modTrack ..
  rw [← hmod]
  generalize v.turned t x = w at htrack
  unfold beginTrack
  rw [htrack, hqueue]
  exact if_neg (not_not_intro hgood)

theorem beginTrack_faults (v : State) (hbad : c.status ≠ .good) :
    beginTrack t (v.turned t x) = faultTrack t c.status.reason c.index (v.turned t x) := by
  have htrack := v.turned_track t x
  generalize v.turned t x = w at htrack
  unfold beginTrack
  rw [htrack, hqueue]
  exact if_pos hbad

theorem beginTrack_good (hgood : c.status = .good) :
    beginTrack t (s.begun t x) = (beginFront t (s.begun t x.launched)).raise (trackSource t) .started :=
  beginTrack_launches hqueue (openTick s) hgood

theorem beginTrack_bad (hbad : c.status ≠ .good) :
    beginTrack t (s.begun t x) = faultTrack t c.status.reason c.index (s.begun t x) :=
  beginTrack_faults hqueue (openTick s) hbad

/-- What the interpolators held before its start tick leaves no trace in a track that starts (R88, R99). -/
theorem beginTrack_blind (held : Vector (Option Interp) 4) :
    beginTrack t (s.begun t { x with interps := held }) = beginTrack t (s.begun t x) := by
  have hqueue' : ({ x with interps := held } : Track).queue = c :: r := hqueue
  by_cases hgood : c.status = .good
  · rw [beginTrack_good hqueue hgood, beginTrack_good hqueue' hgood]
    rfl
  · rw [beginTrack_bad hqueue hgood, beginTrack_bad hqueue' hgood]
    have hhushed (y : Track) : (s.begun t y).hushed t = s.begun t y.silent := State.turned_modTrack ..
    rw [← faultTrack_hushed, hhushed, ← faultTrack_hushed t _ _ (s.begun t x), hhushed]
    rfl

end

/-- A track whose AT time has not come waits on, and is late once the time has been jumped over (R33). -/
theorem trackTick_waits {v : State} {t : TrackId} {x : Track} {time : Count} (hdone : v.trackDone t = false)
    (htrack : v.track t = x) (hstate : x.state = .starting) (hstart : x.start = .atTime time)
    (hdue : x.startDue = false) (htime : time ≠ v.timeline.count) (hmark : x.nowMark = false) :
    trackTick t v = if ahead time v.timeline.count then v.turned t x.silent
      else (v.turned t { x.silent with late := true, startDue := true }).raise (trackSource t) .late := by
  have hidle : x.idleTick = x.silent := if_neg (Bool.eq_false_iff.mp hmark)
  have hmod := v.turned_modTrack t x
  have hcount : (v.turned t x).timeline.count = v.timeline.count := rfl
  rw [trackTick_starts hdone (by rw [htrack]; exact hstate), v.markTrack_turned t, htrack]
  have hbegun := v.turned_track t x
  have hstarts : (v.turned t x).startsNow t = false := by
    unfold State.startsNow
    dsimp only
    rw [hbegun, hstart, hdue]
    exact decide_eq_false htime
  have hjumped : (v.turned t x).jumpedOver t = !ahead time v.timeline.count := by
    unfold State.jumpedOver
    rw [hbegun, hstart]
    rfl
  unfold startTick
  rw [hstarts, hjumped, hmod, hmod, hidle]
  cases ahead time v.timeline.count <;> rfl

theorem CopyStatus.reason_bad {c : CopyStatus} (h : c ≠ .good) :
    c.reason = if c = .badClip then .badClip else .badRange := by
  cases c with
  | good => exact absurd rfl h
  | badClip | badRange => rfl

/-- A cause shows in a record that another cause has joined as it did before. -/
theorem shows_of_merge {s u : State} {n : SourceId} {count : Count} {c d : Cause}
    (h : u.notice n = some (mergeCause count d (s.notice n))) (hbit : c.bit ≠ d.bit) : u.shows n c = s.shows n c := by
  unfold State.shows
  rw [h]
  cases s.notice n <;> simp [mergeCause, BitVec.getLsbD_twoPow, Ne.symm hbit]

end Sys2Proof.Machine
end

namespace Sys2Proof.Proofs.Starts

open Sys2Proof Sys2Proof.Machine

/-- Settles O41. -/
theorem tracksStartAtTheirTick : Obligations.TracksStartAtTheirTick := by
  unfold Obligations.TracksStartAtTheirTick
  intro s t c r x count limit moved p detune started hheld hdone hstate hqueue
  have hcount : (openTick s).timeline.count = count := congrArg Timeline.count (openTick_timeline s)
  have hlimit (d : Int) : s.clampedDetune c.entry d = clampDetune limit c.entry.freq d := rfl
  refine ⟨fun hstart => ⟨fun held => ?_, fun hgood => ?_, fun hbad => ?_⟩, fun time hstart hdue htime hmark => ?_⟩
  · have hat : x.startsAt (openTick s).timeline.count := hcount ▸ hstart
    obtain ⟨hdue, htakes⟩ := takeTrack_starts hdone hstate hat
    have htrack : (s.setTrack t { x with interps := held }).track t = { x with interps := held } :=
      State.setTrack_track_same ..
    have hopen : (openTick (s.setTrack t { x with interps := held })).timeline = (openTick s).timeline :=
      (congrArg State.timeline (withTracks_openTick (s.tracks.set t.1 { x with interps := held } t.2) s) :)
    obtain ⟨hdue', htakes'⟩ := takeTrack_starts (s := s.setTrack t { x with interps := held }) hdone
      (by rw [htrack]; exact hstate) (by rw [htrack, hopen]; exact hat)
    have hacts : Acts (.trackStart t) s (takeTrack t (openTick s)) :=
      takePart_acts (f := fun u => takeTrack t (openTick u)) rfl hheld hdue
    have hacts' : Acts (.trackStart t) (s.setTrack t { x with interps := held })
        (takeTrack t (openTick (s.setTrack t { x with interps := held }))) :=
      takePart_acts (f := fun u => takeTrack t (openTick u)) rfl hheld hdue'
    rw [htakes', htrack, begun_setTrack, beginTrack_blind hqueue held, ← htakes] at hacts'
    exact hacts'.trans hacts.symm
  · have hat : x.startsAt (openTick s).timeline.count := hcount ▸ hstart
    obtain ⟨hdue, htakes⟩ := takeTrack_starts hdone hstate hat
    have hwork := takeTrack_work (holderOf_starts hstate hat.ne_flag)
    have hacts : Acts (.trackStart t) s (takeTrack t (openTick s)) :=
      takePart_acts (f := fun u => takeTrack t (openTick u)) rfl hheld hdue
    rw [htakes, beginTrack_good hqueue hgood] at hwork hacts
    have hw := Turning.begun s t x.launched
    have htrack := s.begun_track t x.launched
    have hfront : ((s.begun t x.launched).track t).queue = c :: r := by
      rw [htrack]
      exact hqueue
    obtain ⟨hcore, ⟨d, q, hqueue', n, hd⟩, hflags, hmarkers, hnote⟩ :=
      beginFront_begun hfront hgood (by rw [htrack]; exact TrackState.noConfusion)
    rw [htrack, blockPlayed_congr hw.clips] at hcore
    generalize beginFront t (s.begun t x.launched) = u at *
    have hrest := blockPlayed_rest hcore
    obtain ⟨hactive, hnco⟩ := blockPlayed_clamped hcore (Bool.or_true _)
    obtain ⟨hset, hwaits⟩ := blockPlayed_marks hcore
    have hmoved : x.launched.atStart.takesSet c true = true ↔ moved := Track.takesSet_start _ c
    have hp : (if x.launched.atStart.takesSet c true then x.launched.atStart.staged else x.launched.atStart.active) = p :=
      if_congr hmoved rfl rfl
    rw [hp] at hactive hnco
    refine ⟨_, hacts, hwork, ?_⟩
    rw [State.raise_track]
    refine ⟨(congrArg Track.state hrest :), (congrArg Track.playNumber hrest :), (congrArg Track.block hrest :),
      (congrArg Track.lastPlay hrest :), (congrArg Track.start hrest :), (congrArg Track.stopFade hrest :),
      (congrArg Track.link hrest :), (congrArg Track.home hrest :), hnco.trans (BitVec.zero_add _), hactive,
      (congrArg Track.staged hrest :), ?_, ?_, hflags.trans (flagAction_congr hw.flags _ _),
      State.shows_raise_same u (trackSource t) .started, fun m => ?_, fun hn => ?_⟩
    · by_cases h : moved
      · rw [(hset (hmoved.mpr h)).1, decide_eq_true h]
        exact (Bool.and_false _).symm
      · rw [(hwaits (Bool.eq_false_iff.mpr fun htakes => h (hmoved.mp htakes))).1, decide_eq_false h]
        exact (Bool.and_true _).symm
    · subst hd
      exact ⟨_, q, hqueue', rfl, rfl, rfl⟩
    · exact (congrArg MarkerLine.remaining (hmarkers m)).trans (hw.pulsed c.entry.markers m)
    · exact shows_iff.mp (u.shows_raise (trackSource t) .started (hnote hn))
  · have hat : x.startsAt (openTick s).timeline.count := hcount ▸ hstart
    obtain ⟨hdue, htakes⟩ := takeTrack_starts hdone hstate hat
    have hwork := takeTrack_work (holderOf_starts hstate hat.ne_flag)
    have hacts : Acts (.trackStart t) s (takeTrack t (openTick s)) :=
      takePart_acts (f := fun u => takeTrack t (openTick u)) rfl hheld hdue
    rw [htakes, beginTrack_bad hqueue hbad] at hwork hacts
    have hw := Turning.begun s t x
    obtain ⟨htrack, hnotice, hquiet, htimeline⟩ := faultTrack_faulted t c.status.reason c.index (s.begun t x)
    generalize faultTrack t c.status.reason c.index (s.begun t x) = u at *
    rw [hw.notice] at hnotice
    refine ⟨u, hacts, hwork, hquiet.flags.trans hw.flags, (congrArg Track.state htrack :),
      (congrArg Track.faultIndex htrack :), (congrArg Track.faultReason htrack :).trans ?_, (congrArg Track.queue htrack :),
      (congrArg Track.ring htrack :), shows_of_merge (c := .started) hnotice (by decide), fun m => ?_, ?_⟩
    · exact CopyStatus.reason_bad hbad
    · rw [State.marker, hquiet.markers, ← State.marker, hw.markers]
    · rw [hnotice, htimeline]
  · obtain ⟨v, -, hbeside, hvdone, hvtrack, -, -, hvtimeline⟩ := tickStart_ownTurn hdone
    obtain ⟨ring, hv, hslots⟩ := Track.sameBut_iff.mp hvtrack
    have hvcount : v.timeline.count = count := (congrArg Timeline.count hvtimeline).trans hcount
    have hturn := trackTick_waits hvdone hv hstate hstart hdue (hvcount ▸ htime) hmark
    rw [hvcount] at hturn
    have hend (y : Track) (hy : (trackTick t v).track t = y.silent.withRing ring) (hring : y.ring = x.ring)
        (hinterps : y.interps = x.interps) : ((tickStart s).track t).interps = Vector.replicate 4 none ∧
          y.SameBut { (tickStart s).track t with interps := x.interps } := by
      have hsame := hbeside.track
      rw [hy] at hsame
      obtain ⟨ring', hu, hslots'⟩ := Track.sameBut_iff.mp hsame
      rw [hu]
      refine ⟨rfl, Track.sameBut_iff.mpr ⟨ring', ?_, ?_⟩⟩
      · rw [← hinterps]
        rfl
      · rw [hring]
        exact (Track.SameBut.trans (a := x) (b := x.withRing ring) (c := x.withRing ring') ⟨rfl, hslots⟩ ⟨rfl, hslots'⟩).2
    refine ⟨tickStart s, acts_tickStart hheld, ?_⟩
    by_cases hahead : ahead time count = true
    · rw [if_pos hahead] at hturn
      have hy : (trackTick t v).track t = x.silent.withRing ring := by
        rw [hturn, State.turned_track]
        rfl
      obtain ⟨hinterps, hsame⟩ := hend x hy rfl rfl
      rw [if_pos hahead]
      exact ⟨hinterps, hsame⟩
    · rw [if_neg hahead] at hturn
      have hy : (trackTick t v).track t = ({ x with late := true, startDue := true } : Track).silent.withRing ring := by
        rw [hturn, State.raise_track, State.turned_track]
        rfl
      obtain ⟨hinterps, hsame⟩ := hend { x with late := true, startDue := true } hy rfl rfl
      rw [if_neg hahead]
      refine ⟨hinterps, hsame, ?_⟩
      rw [hbeside.notice, hturn]
      exact shows_iff.mp (State.shows_raise_same _ (trackSource t) .late)

end Sys2Proof.Proofs.Starts

section
/-! PROOFS. The flag unit's judgement (R17, R18) and the tracks it releases: which flags it clears and which tracks it
releases (`judgeFlags_flagSet`, `judgeFlags_isReleased`), and the turns of the tracks at its part of a tick start. -/

namespace Sys2Proof.Machine

/-! ### One flag (R18) -/

theorem clearFlag_flagSet (s : State) (f g : FlagId) : (s.clearFlag f).flagSet g = (s.flagSet g && !decide (f = g)) := by
  have hg := g.isLt
  unfold State.flagSet State.clearFlag
  dsimp only
  rw [BitVec.getLsbD_and, BitVec.getLsbD_not, BitVec.getLsbD_twoPow]
  have hiff : (f.toNat = g.toNat) ↔ f = g := BitVec.toNat_inj
  by_cases hfg : f = g
  · subst hfg
    simp [hg]
  · have hne : ¬ f.toNat = g.toNat := fun h => hfg (hiff.mp h)
    simp [hfg, hne]
    intro _
    omega

theorem markReleased_isReleased (s : State) (i j : TrackId) :
    (s.markReleased i).isReleased j = (decide (i = j) || s.isReleased j) := by
  have hj := j.isLt
  by_cases e : i = j
  · simp [State.markReleased, State.isReleased, e]
  · have h : j.1 ≠ i.1 := fun h => e (Fin.ext h.symm)
    simp [State.markReleased, State.isReleased, e, h]

theorem forEach_markReleased (ts : List TrackId) (s : State) (k : TrackId) :
    (forEach ts State.markReleased s).isReleased k = (decide (k ∈ ts) || s.isReleased k) := by
  induction ts generalizing s with
  | nil => exact (Bool.false_or _).symm
  | cons t r ih =>
    have hstep : forEach (t :: r) State.markReleased s = forEach r State.markReleased (s.markReleased t) := rfl
    rw [hstep, ih, markReleased_isReleased]
    by_cases htk : t = k
    · simp [htk]
    · simp [htk, Ne.symm htk]

/-- Some track is a consuming holder of flag `f`. -/
def State.consumed (s : State) (f : FlagId) : Bool := allTracks.any fun k => s.holderOf k = some (f, true)

/-- The judgement of flag `f` releases track `k` (R18). -/
def State.frees (s : State) (f : FlagId) (k : TrackId) : Prop :=
  s.flagSet f = true ∧ (s.holderOf k = some (f, false) ∨
    (s.holderOf k = some (f, true) ∧ ∀ j < k, s.holderOf j ≠ some (f, true)))

theorem find_holder {s : State} {f : FlagId} {t : TrackId} (h : allTracks.find? (s.holds f true) = some t) :
    s.holderOf t = some (f, true) ∧ ∀ j < t, s.holderOf j ≠ some (f, true) := by
  obtain ⟨hholds, i, hi, hget, hbefore⟩ := List.find?_eq_some_iff_getElem.mp h
  refine ⟨of_decide_eq_true hholds, fun j hj => ?_⟩
  have hti : t.1 = i := by
    rw [← hget]
    exact (congrArg Fin.val (List.getElem_finRange hi) :).trans rfl
  have hji : j.1 < i := hti ▸ hj
  have hno := hbefore j.1 hji
  have hjget : allTracks[j.1]'(hji.trans hi) = j := Fin.ext (congrArg Fin.val (List.getElem_finRange _) :)
  rw [hjget] at hno
  have hfalse : s.holds f true j = false := by simpa using hno
  exact of_decide_eq_false hfalse

theorem consumed_of_find {s : State} {f : FlagId} {t : TrackId} (h : allTracks.find? (s.holds f true) = some t) :
    s.consumed f = true :=
  List.any_eq_true.mpr ⟨t, List.mem_finRange t, decide_eq_true (find_holder h).1⟩

theorem consumed_of_find_none {s : State} {f : FlagId} (h : allTracks.find? (s.holds f true) = none) :
    (∀ k, s.holderOf k ≠ some (f, true)) ∧ s.consumed f = false := by
  have hnone (k : TrackId) : s.holderOf k ≠ some (f, true) := fun hk =>
    List.find?_eq_none.mp h k (List.mem_finRange k) (decide_eq_true hk)
  exact ⟨hnone, List.any_eq_false.mpr fun k _ => by simpa using hnone k⟩

theorem judgeFlag_flagSet (s : State) (f g : FlagId) :
    (judgeFlag s f).flagSet g = (s.flagSet g && !(decide (f = g) && s.consumed f)) := by
  have hkeeps : (forEach (allTracks.filter (s.holds f false)) State.markReleased s).flagSet g = s.flagSet g :=
    forEach_keeps _ State.markReleased (fun u => u.flagSet g) (fun _ _ => rfl) s
  unfold judgeFlag
  dsimp only
  by_cases hset : s.flagSet f = true
  · rw [if_pos hset]
    cases hfind : allTracks.find? (s.holds f true) with
    | none =>
      dsimp only
      rw [hkeeps, (consumed_of_find_none hfind).2, Bool.and_false, Bool.not_false, Bool.and_true]
    | some t =>
      dsimp only
      rw [clearFlag_flagSet, consumed_of_find hfind, Bool.and_true]
      exact congrArg (· && _) hkeeps
  · rw [if_neg hset]
    by_cases hfg : f = g
    · subst hfg
      rw [Bool.eq_false_iff.mpr hset, Bool.false_and]
    · rw [decide_eq_false hfg, Bool.false_and, Bool.not_false, Bool.and_true]

theorem judgeFlag_isReleased (s : State) (f : FlagId) (k : TrackId) :
    (judgeFlag s f).isReleased k = true ↔ s.isReleased k = true ∨ s.frees f k := by
  have hmarked : (forEach (allTracks.filter (s.holds f false)) State.markReleased s).isReleased k = true ↔
      s.isReleased k = true ∨ s.holderOf k = some (f, false) := by
    rw [forEach_markReleased, Bool.or_eq_true, decide_eq_true_eq, List.mem_filter, or_comm]
    exact or_congr_right ((and_iff_right (List.mem_finRange k)).trans decide_eq_true_iff)
  unfold judgeFlag State.frees
  dsimp only
  by_cases hset : s.flagSet f = true
  · rw [if_pos hset]
    cases hfind : allTracks.find? (s.holds f true) with
    | none =>
      have hnone := (consumed_of_find_none hfind).1 k
      dsimp only
      rw [hmarked]
      exact or_congr_right ⟨fun h => ⟨hset, .inl h⟩, fun ⟨_, h⟩ => h.resolve_right fun hk => hnone hk.1⟩
    | some t =>
      obtain ⟨hholds, hfirst⟩ := find_holder hfind
      have hclear (u : State) : (u.clearFlag f).isReleased k = u.isReleased k := rfl
      dsimp only
      rw [hclear, markReleased_isReleased, Bool.or_eq_true, decide_eq_true_eq, hmarked]
      constructor
      · rintro (rfl | h | h)
        · exact .inr ⟨hset, .inr ⟨hholds, hfirst⟩⟩
        · exact .inl h
        · exact .inr ⟨hset, .inl h⟩
      · rintro (h | ⟨-, h | ⟨hk, hlowest⟩⟩)
        · exact .inr (.inl h)
        · exact .inr (.inr h)
        · refine .inl ?_
          by_contra hne
          obtain h | h := lt_or_gt_of_ne hne
          · exact hlowest t h hholds
          · exact hfirst k h hk
  · rw [if_neg hset]
    exact ⟨.inl, fun h => h.resolve_right fun hk => hset hk.1⟩

/-! ### The sixteen flags (R18) -/

theorem judgeFlag_holderOf (s : State) (f : FlagId) (k : TrackId) : (judgeFlag s f).holderOf k = s.holderOf k := by
  have htrack : (judgeFlag s f).track k = s.track k :=
    (congrArg (fun u : State => u.track k) (judgeFlag_judgedFrom s s f) :)
  have hdone : (judgeFlag s f).trackDone k = s.trackDone k := by
    rw [State.trackDone, judgeFlag_tracks, State.trackDone]
  unfold State.holderOf
  rw [htrack, hdone]

theorem judgeFlag_consumed (s : State) (f g : FlagId) : (judgeFlag s f).consumed g = s.consumed g := by
  unfold State.consumed
  simp only [judgeFlag_holderOf]

/-- The judgement of a list of flags (R18). -/
theorem judged_flags {fs : List FlagId} (hfs : fs.Nodup) (s : State) :
    (∀ g, (forEach fs judgeFlag s).flagSet g = (s.flagSet g && !(decide (g ∈ fs) && s.consumed g))) ∧
      ∀ k, (forEach fs judgeFlag s).isReleased k = true ↔ s.isReleased k = true ∨ ∃ f ∈ fs, s.frees f k := by
  induction fs generalizing s with
  | nil =>
    refine ⟨fun g => ?_, fun k => ?_⟩
    · simp [forEach]
    · simp [forEach]
  | cons f r ih =>
    obtain ⟨hnot, hr⟩ := List.nodup_cons.mp hfs
    obtain ⟨hflags, hreleases⟩ := ih hr (judgeFlag s f)
    have hstep : forEach (f :: r) judgeFlag s = forEach r judgeFlag (judgeFlag s f) := rfl
    rw [hstep]
    refine ⟨fun g => ?_, fun k => ?_⟩
    · rw [hflags, judgeFlag_flagSet, judgeFlag_consumed]
      by_cases hfg : f = g
      · subst hfg
        simp [hnot]
      · simp [hfg, Ne.symm hfg]
    · rw [hreleases, judgeFlag_isReleased, or_assoc]
      refine or_congr_right ?_
      have hfrees {g : FlagId} (hg : g ∈ r) : (judgeFlag s f).frees g k ↔ s.frees g k := by
        have hfg : f ≠ g := fun h => hnot (h ▸ hg)
        unfold State.frees
        simp only [judgeFlag_holderOf]
        rw [judgeFlag_flagSet, decide_eq_false hfg, Bool.false_and, Bool.not_false, Bool.and_true]
      constructor
      · rintro (h | ⟨g, hg, h⟩)
        · exact ⟨f, List.mem_cons_self, h⟩
        · exact ⟨g, List.mem_cons_of_mem f hg, (hfrees hg).mp h⟩
      · rintro ⟨g, hg, h⟩
        obtain rfl | hg := List.mem_cons.mp hg
        · exact .inl h
        · exact .inr ⟨g, hg, (hfrees hg).mpr h⟩

theorem allFlags_nodup : allFlags.Nodup := by decide

theorem mem_allFlags (f : FlagId) : f ∈ allFlags :=
  List.mem_map.mpr ⟨f.toNat, List.mem_range.mpr f.isLt, BitVec.ofNat_toNat 4 f⟩

theorem judgeFlags_flagSet {s : State} (h : s.work.flags = false) (f : FlagId) :
    (judgeFlags s).flagSet f = (s.flagSet f && !s.consumed f) := by
  have hflags := (judged_flags allFlags_nodup { s with work := { s.work with flags := true } }).1 f
  rw [decide_eq_true (mem_allFlags f), Bool.true_and] at hflags
  unfold judgeFlags
  rw [if_neg (Bool.eq_false_iff.mp h)]
  exact hflags

theorem judgeFlags_isReleased {s : State} (h : s.work.flags = false) (k : TrackId) :
    (judgeFlags s).isReleased k = true ↔ s.isReleased k = true ∨ ∃ f, s.frees f k := by
  have hreleases := (judged_flags allFlags_nodup { s with work := { s.work with flags := true } }).2 k
  unfold judgeFlags
  rw [if_neg (Bool.eq_false_iff.mp h)]
  refine hreleases.trans (or_congr_right ?_)
  exact ⟨fun ⟨f, _, hf⟩ => ⟨f, hf⟩, fun ⟨f, hf⟩ => ⟨f, mem_allFlags f, hf⟩⟩

/-! ### The flag unit's part of a tick start (R18) -/

/-- A track that is not released has its turn after the flag unit's part. -/
theorem flagPart_waiting {k : TrackId} {s : State} (h : s.work.flags = true ∨ s.judged.isReleased k = false) :
    Waiting k s.judged (flagPart s) := by
  by_cases hflags : s.work.flags = true
  · rw [flagPart, State.judged, if_pos hflags, if_pos hflags]
    exact .refl k s
  · have hnot := h.resolve_left hflags
    have hmem : k ∉ allTracks.filter s.judged.isReleased := fun hk => by
      rw [(List.mem_filter.mp hk).2] at hnot
      cases hnot
    have hwaits := forEach_trackTick_waiting _ s.judged (.inl hmem)
    have hpart : flagPart s = forEach (allTracks.filter s.judged.isReleased) (fun s t => trackTick t s) s.judged := by
      rw [flagPart, State.judged, if_neg hflags, if_neg hflags]
    rwa [hpart]

/-- A released track has its turn in the flag unit's part. -/
theorem flagPart_turn {k : TrackId} {s : State} (hflags : s.work.flags = false) (hdone : s.trackDone k = false)
    (h : s.judged.isReleased k = true) :
    ∃ v, Waiting k s.judged v ∧ Waiting k (trackTick k v) (flagPart s) := by
  have hmem : k ∈ allTracks.filter s.judged.isReleased := List.mem_filter.mpr ⟨List.mem_finRange k, h⟩
  have hpart : flagPart s = forEach (allTracks.filter s.judged.isReleased) (fun s t => trackTick t s) s.judged := by
    rw [flagPart, State.judged, if_neg (Bool.eq_false_iff.mp hflags), if_neg (Bool.eq_false_iff.mp hflags)]
  rw [hpart]
  exact forEach_trackTick_turn hmem s.judged ((s.judged_trackDone k).trans hdone)

end Sys2Proof.Machine
end

section
/-! PROOFS. Held tracks and their release (R11, R17, R18, R35, R42, R44): O40. -/

namespace Sys2Proof.Machine

/-! ### The flag a track holds on (R17) -/

section
variable {s : State} {t : TrackId} (hdone : s.trackDone t = false)
include hdone

theorem holderOf_holding {c : Copy} {r : List Copy} (hstate : (s.track t).state = .holding)
    (hqueue : (s.track t).queue = c :: r) (hbreak : (s.track t).breakPending = false) (hstop : (s.track t).stop ≠ .now) :
    s.holderOf t = some (c.entry.testFlag, c.entry.consume) := by
  unfold State.holderOf
  dsimp only
  rw [if_neg (Bool.eq_false_iff.mp hdone), hstate, hqueue, hbreak, List.head?_cons]
  dsimp only
  exact if_neg (by simp [hstop])

theorem holderOf_holdBoundary {c : Copy} {r : List Copy} (hstate : (s.track t).state = .playing)
    (hqueue : (s.track t).queue = c :: r) (hstop : (s.track t).stop ≠ .now) (hhold : c.isHold = true)
    (hend : c.length ≤ (s.track t).block + 1) (hremains : (s.track t).playRemains c = false) :
    s.holderOf t = some (c.entry.testFlag, c.entry.consume) := by
  unfold State.holderOf
  dsimp only
  rw [if_neg (Bool.eq_false_iff.mp hdone), hstate, hqueue, List.head?_cons]
  dsimp only
  exact if_pos (by simp [hstop, hhold, hremains, Track.playEnded, hend])

theorem holderOf_flagStart {f : FlagId} {consume : Bool} (hstate : (s.track t).state = .starting)
    (hstart : (s.track t).start = .flag f consume) : s.holderOf t = some (f, consume) := by
  unfold State.holderOf
  dsimp only
  rw [if_neg (Bool.eq_false_iff.mp hdone), hstate, hstart]

end

/-- A broken hold waits for no flag (R44). -/
theorem holderOf_broken {s : State} {t : TrackId} (hstate : (s.track t).state = .holding)
    (hbreak : (s.track t).breakPending = true) : s.holderOf t = none := by
  unfold State.holderOf
  dsimp only
  split
  · rfl
  · rw [hstate, hbreak]
    cases (s.track t).queue.head? with
    | none => exact rfl
    | some c => exact rfl

/-- A holder's flag is set, and of its consuming holders it is the lowest: the judgement releases it (R18). -/
theorem judged_releases {s : State} {t : TrackId} {f : FlagId} {consume : Bool} (hflags : s.work.flags = false)
    (hholds : s.holderOf t = some (f, consume)) (hset : s.flagSet f = true)
    (hfirst : consume = true → ∀ j < t, s.holderOf j ≠ some (f, true)) : (openTick s).judged.isReleased t = true := by
  have hopen : (openTick s).work.flags = false := (openTick_turns s).2.1.trans hflags
  have hflag : (openTick s).flagSet f = s.flagSet f := by rw [State.flagSet, openTick_flags, State.flagSet]
  unfold State.judged
  rw [if_neg (Bool.eq_false_iff.mp hopen)]
  refine (judgeFlags_isReleased hopen t).mpr (.inr ⟨f, hflag.trans hset, ?_⟩)
  simp only [openTick_holderOf]
  cases consume with
  | false => exact .inl hholds
  | true => exact .inr ⟨hholds, hfirst rfl⟩

/-- A holder of a clear flag is not released. -/
theorem judged_holds {s : State} {t : TrackId} {f : FlagId} {consume : Bool}
    (hholds : s.holderOf t = some (f, consume)) (hclear : s.flagSet f = false) (hnot : s.isReleased t = false) :
    (openTick s).judged.isReleased t = false := by
  have hopen : (openTick s).isReleased t = false := (openTick_isReleased s t).trans hnot
  unfold State.judged
  split
  · exact hopen
  next hflags =>
    refine Bool.eq_false_iff.mpr fun hreleased => ?_
    obtain h | ⟨g, hset, h⟩ := (judgeFlags_isReleased (Bool.eq_false_iff.mpr hflags) t).mp hreleased
    · rw [hopen] at h
      cases h
    · simp only [openTick_holderOf, hholds, Option.some.injEq, Prod.mk.injEq] at h
      have hfg : f = g := by
        obtain h | h := h
        · exact h.1
        · exact h.1.1
      rw [State.flagSet, openTick_flags, ← hfg, ← State.flagSet, hclear] at hset
      cases hset

/-! ### The turn of a held track (R11, R42) -/

section
variable {v : State} {t : TrackId} {x : Track} {c d : Copy} {q : List Copy} (hdone : v.trackDone t = false)
  (htrack : v.track t = x)
include hdone htrack

theorem trackTick_resumes (hqueue : x.queue = c :: d :: q) (hstate : x.state = .holding) (hstop : x.stop ≠ .now)
    (hgo : x.breakPending = true ∨ v.isReleased t = true) : trackTick t v = beginFront t
      (v.turned t { x.releaseWalk with state := .playing, breakPending := false, queue := d :: q }) := by
  have hbegun := v.turned_track t x
  have hreleased : (v.turned t x).isReleased t = v.isReleased t := rfl
  have hnext := beginNext_turned (s := v) (t := t) hqueue fun tr =>
    { tr.releaseWalk with state := .playing, breakPending := false }
  rw [trackTick_holds hdone (by rw [htrack]; exact hstate), v.markTrack_turned t, htrack]
  unfold holdTick
  dsimp only
  rw [hbegun, if_neg hstop, hreleased, if_pos (by simpa using hgo), hnext]

theorem trackTick_holdsOn (hstate : x.state = .holding) (hstop : x.stop ≠ .now) (hbreak : x.breakPending = false)
    (hreleased : v.isReleased t = false) : trackTick t v = v.turned t x.idleTick := by
  have hbegun := v.turned_track t x
  have hreleased' : (v.turned t x).isReleased t = false := hreleased
  rw [trackTick_holds hdone (by rw [htrack]; exact hstate), v.markTrack_turned t, htrack]
  unfold holdTick
  dsimp only
  rw [hbegun, if_neg hstop, hreleased', hbreak, Bool.or_false, if_neg Bool.false_ne_true, v.turned_setTrack]

/-- A HOLD boundary in PLAYING (R11). -/
theorem trackTick_holdBoundary (hqueue : x.queue = c :: q) (hstate : x.state = .playing) (hstop : x.stop = .none)
    (hend : c.length ≤ x.block + 1) (hremains : x.playRemains c = false) (htrailing : c.trailing = false)
    (hnext : c.entry.next = .hold) : trackTick t v = holdBoundary t (v.turned t x) := by
  obtain ⟨-, hnow, hfade, -⟩ := x.goesOn_stop (.inl (.inl ⟨hstate, hstop⟩))
  have hstill : x.advanceStopFade = x :=
    Track.advanceStopFade_of_not fun n hstops => absurd (hstate.symm.trans hstops) (by decide)
  have hplain : c.entry.isLateBranch = false := by
    rw [CueEntry.isLateBranch, hnext]
    exact Bool.and_false _
  rw [trackTick_boundary hdone (by rw [htrack]; exact .inl hstate) (by rwa [htrack]) (by rwa [htrack])
    (by rw [htrack]; exact hqueue) (by rwa [htrack]), htrack, hstill,
    boundary_passes (fun h => absurd (hstate.symm.trans h.1) (by decide)) hremains]
  unfold followEntry
  rw [if_neg (Bool.eq_false_iff.mp htrailing), if_neg (Bool.eq_false_iff.mp hplain), hnext]

end

section
variable {v : State} {t : TrackId} {x : Track} {c d : Copy} {q : List Copy} (hstate : x.state = .playing)
include hstate

theorem holdBoundary_resumes (hqueue : x.queue = c :: d :: q) (hreleased : v.isReleased t = true) :
    holdBoundary t (v.turned t x) = beginFront t (v.turned t { x.releaseWalk with queue := d :: q }) := by
  have hbegun := v.turned_track t x
  have hreleased' : (v.turned t x).isReleased t = true := hreleased
  unfold holdBoundary
  rw [hbegun, if_neg (by rw [hstate]; decide), if_pos hreleased', beginNext_turned hqueue]

theorem holdBoundary_holds (hreleased : v.isReleased t = false) :
    holdBoundary t (v.turned t x) = v.turned t { x.idleTick with state := .holding } := by
  have hbegun := v.turned_track t x
  have hreleased' : (v.turned t x).isReleased t = false := hreleased
  unfold holdBoundary
  rw [hbegun, if_neg (by rw [hstate]; decide), hreleased', if_neg Bool.false_ne_true, v.turned_modTrack]

end

theorem Track.releaseWalk_state (x : Track) : x.releaseWalk.state = x.state := by rw [x.releaseWalk_eq]

end Sys2Proof.Machine
end

namespace Sys2Proof.Proofs.Holders

open Sys2Proof Sys2Proof.Machine

/-- A state in which the turn of track `t` meets the track, its record, clips, count and marker lines as before the tick
start. -/
structure Meets (s : State) (t : TrackId) (v : State) : Prop where
  done : v.trackDone t = false
  track : (s.track t).SameBut (v.track t)
  notice : v.notice (trackSource t) = s.notice (trackSource t)
  markers : ∀ m, (v.marker m).mode = (s.marker m).mode ∧ (v.marker m).width = (s.marker m).width

theorem meets_of_waiting {s v : State} {t : TrackId} (hdone : s.trackDone t = false)
    (h : Waiting t (openTick s).judged v) : Meets s t v where
  done := h.done.trans (((openTick s).judged_trackDone t).trans ((openTick_trackDone s t).trans hdone))
  track := by
    have htrack : (openTick s).judged.track t = s.track t :=
      (State.judged_field (fun u => u.track t) (fun _ _ => rfl) (openTick s)).trans (openTick_track s t)
    rw [← htrack]
    exact h.track
  notice := h.notice.trans ((State.judged_field (fun u => u.notice (trackSource t)) (fun _ _ => rfl) (openTick s)).trans
    (openTick_trackNotice s t))
  markers m := by
    have hmarker : (openTick s).judged.marker m = (openTick s).marker m :=
      State.judged_field (fun u => u.marker m) (fun _ _ => rfl) (openTick s)
    obtain ⟨hmode, hwidth⟩ := h.markers m
    obtain ⟨hmode', hwidth'⟩ := openTick_marker_mode s m
    rw [hmarker] at hmode hwidth
    exact ⟨hmode.trans hmode', hwidth.trans hwidth'⟩

/-- A track that the flag unit releases has its turn in the flag unit's part. -/
theorem released_turn {s : State} {t : TrackId} {f : FlagId} {consume : Bool} (hdone : s.trackDone t = false)
    (hflags : s.work.flags = false) (hholds : s.holderOf t = some (f, consume)) (hset : s.flagSet f = true)
    (hfirst : consume = true → ∀ j < t, s.holderOf j ≠ some (f, true)) :
    s.flagReleaseDue = true ∧
      ∃ v, Meets s t v ∧ v.isReleased t = true ∧ Waiting t (trackTick t v) (flagPart (openTick s)) := by
  have hreleased := judged_releases hflags hholds hset hfirst
  obtain ⟨v, hwaits, hturn⟩ := flagPart_turn ((openTick_turns s).2.1.trans hflags)
    ((openTick_trackDone s t).trans hdone) hreleased
  refine ⟨?_, v, meets_of_waiting hdone hwaits, ?_, hturn⟩
  · unfold State.flagReleaseDue
    rw [hflags]
    refine Bool.and_eq_true_iff.mpr ⟨rfl, List.any_eq_true.mpr ⟨t, List.mem_finRange t, ?_⟩⟩
    rw [hholds]
    exact hset
  · rw [State.isReleased, hwaits.released]
    exact hreleased

/-- In `u` copy `d` has begun in track `t`, or has faulted it (R5, R40, R41). -/
def Begins (s : State) (t : TrackId) (u : State) (d : Copy) : Prop :=
  let y := u.track t
  (d.status = .good → y.state = .playing ∧ y.playNumber = 1 ∧ y.block = 0 ∧ y.lastPlay = false ∧
    (∃ e p, y.queue = e :: p ∧ e.index = d.index ∧ e.entry = d.entry) ∧
    (∀ m, d.entry.markers.getLsbD m.1 = true → (s.marker m).mode = .pulse →
      (s.marker m).width ≤ (u.marker m).remaining) ∧
    (d.entry.note = true → ∃ n, u.notice (trackSource t) = some n ∧ n.causes.getLsbD 10 = true)) ∧
  (d.status ≠ .good → y.state = .faulted ∧ y.faultIndex = d.index ∧
    y.faultReason = (if d.status = .badClip then .badClip else .badRange) ∧ y.queue = [] ∧ y.ring = [] ∧
    u.notice (trackSource t) = some (mergeCause u.timeline.count .fault (s.notice (trackSource t))))

section
variable {s u : State} {t : TrackId} {d : Copy}

theorem begins_good {w u₀ u₁ : State} (hbegun : Begun t d w u₀) (hstate : (w.track t).state = .playing)
    (hmarkers : ∀ m, (w.marker m).mode = (s.marker m).mode ∧ (w.marker m).width = (s.marker m).width)
    (htrack : u₁.track t = u₀.track t) (hlines : ∀ m, u₁.marker m = u₀.marker m)
    (hnote : u₀.shows (trackSource t) .cueNote = true → u₁.shows (trackSource t) .cueNote = true)
    (hu : Waiting t u₁ u) (hstatus : d.status = .good) : Begins s t u d := by
  obtain ⟨hcore, ⟨e, p, hqueue', n, he⟩, -, hpulsed, hcue⟩ := hbegun
  have hrest := blockPlayed_rest (y := u.track t) (by rw [hu.track.core, htrack]; exact hcore)
  refine ⟨fun _ => ⟨(congrArg Track.state hrest :).trans hstate, (congrArg Track.playNumber hrest :),
    (congrArg Track.block hrest :), (congrArg Track.lastPlay hrest :), ?_, fun m hm hpulse => ?_, fun hn => ?_⟩,
    fun h => absurd hstatus h⟩
  · have hqueue'' : (u.track t).queue = e :: p := by
      rw [(congrArg Track.queue hu.track.1 :), htrack]
      exact hqueue'
    subst he
    exact ⟨_, p, hqueue'', rfl, rfl⟩
  · obtain ⟨hmode, hwidth⟩ := hmarkers m
    refine le_trans ?_ (hu.stay.remaining m)
    rw [hlines, hpulsed, State.markersPulsed, if_pos hm, MarkerLine.pulsed, if_pos (hmode.trans hpulse), ← hwidth]
    exact Nat.le_max_right ..
  · rw [hu.notice]
    exact shows_iff.mp (hnote (hcue hn))

theorem begins_bad {w u₁ : State} (hfault : Faulted t d.status.reason d.index w u₁)
    (hnotice : w.notice (trackSource t) = s.notice (trackSource t)) (hu : Waiting t u₁ u) (hstatus : d.status ≠ .good) :
    Begins s t u d := by
  obtain ⟨htrack, hmerged, -, htimeline⟩ := hfault
  obtain ⟨ring, hend, hslots⟩ := Track.sameBut_iff.mp hu.track
  rw [htrack] at hend hslots
  have hempty : ring = [] := List.forall₂_nil_left_iff.mp hslots
  unfold Begins
  rw [hend, hempty]
  refine ⟨fun h => absurd h hstatus, fun _ => ⟨rfl, rfl, CopyStatus.reason_bad hstatus, rfl, rfl, ?_⟩⟩
  rw [hu.notice, hmerged, hu.timeline, htimeline, hnotice]

/-- The front copy of a track in PLAYING begins in its turn. -/
theorem begins_front {v : State} {y : Track} {q : List Copy} (hv : Meets s t v) (hfront : y.queue = d :: q)
    (hplays : y.state = .playing) (hu : Waiting t (beginFront t (v.turned t y)) u) : Begins s t u d := by
  have htrack := v.turned_track t y
  have hqueue : ((v.turned t y).track t).queue = d :: q := by rw [htrack]; exact hfront
  have hstate : ((v.turned t y).track t).state = .playing := by rw [htrack]; exact hplays
  by_cases hstatus : d.status = .good
  · exact begins_good (beginFront_begun hqueue hstatus (by rw [hstate]; decide)) hstate hv.markers rfl (fun _ => rfl) id hu
      hstatus
  · rw [beginFront_bad hqueue hstatus] at hu
    exact begins_bad (w := v.turned t y) (faultTrack_faulted t d.status.reason d.index (v.turned t y)) hv.notice hu hstatus

/-- The home entry of a track begins in its turn (R36). -/
theorem begins_home {v : State} {y : Track} {q : List Copy} (hv : Meets s t v) (hfront : y.queue = d :: q)
    (hu : Waiting t (beginTrack t (v.turned t y)) u) :
    Begins s t u d ∧ (u.track t).start = .none ∧
      (d.status = .good → ∃ n, u.notice (trackSource t) = some n ∧ n.causes.getLsbD 1 = true) := by
  by_cases hstatus : d.status = .good
  · rw [beginTrack_launches hfront v hstatus] at hu
    have htrack := v.turned_track t y.launched
    have hqueue : ((v.turned t y.launched).track t).queue = d :: q := by rw [htrack]; exact hfront
    have hstate : ((v.turned t y.launched).track t).state = .playing := by rw [htrack]; rfl
    have hbegun := beginFront_begun hqueue hstatus (by rw [hstate]; decide)
    have hcore := hbegun.core
    rw [htrack] at hcore
    generalize beginFront t (v.turned t y.launched) = u₀ at hu hbegun hcore
    have hrest := blockPlayed_rest (y := u.track t) (by rw [hu.track.core, State.raise_track]; exact hcore)
    refine ⟨begins_good (w := v.turned t y.launched) hbegun hstate hv.markers (State.raise_track ..) (fun _ => rfl)
      (fun h => u₀.shows_raise (trackSource t) .started h) hu hstatus, (congrArg Track.start hrest :), fun _ => ?_⟩
    rw [hu.notice]
    exact shows_iff.mp (u₀.shows_raise_same (trackSource t) .started)
  · rw [beginTrack_faults hfront v hstatus] at hu
    have hfault := faultTrack_faulted t d.status.reason d.index (v.turned t y)
    have hstart := congrArg Track.start hu.track.1
    rw [hfault.track] at hstart
    exact ⟨begins_bad hfault hv.notice hu hstatus, hstart, fun h => absurd h hstatus⟩

end

/-! ### The parts that release a track -/

section
variable {s : State} {t : TrackId} {c d : Copy} {q : List Copy} (hheld : s.held = false) (hdone : s.trackDone t = false)
  (hflags : s.work.flags = false)
include hheld hdone hflags

/-- FLAG_RELEASE at a HOLD (R42). -/
theorem release_holding (hqueue : (s.track t).queue = c :: d :: q) (hstate : (s.track t).state = .holding)
    (hbreak : (s.track t).breakPending = false) (hstop : (s.track t).stop ≠ .now)
    (hset : s.flagSet c.entry.testFlag = true)
    (hfirst : c.entry.consume = true → ∀ j < t, s.holderOf j ≠ some (c.entry.testFlag, true)) :
    ∃ u, Acts .flagRelease s u ∧ Begins s t u d := by
  obtain ⟨hdue, v, hv, hreleased, hturn⟩ := released_turn hdone hflags
    (holderOf_holding hdone hstate hqueue hbreak hstop) hset hfirst
  obtain ⟨ring, htrack, -⟩ := Track.sameBut_iff.mp hv.track
  refine ⟨flagPart (openTick s), takePart_acts (f := fun u => flagPart (openTick u)) rfl hheld hdue, ?_⟩
  rw [trackTick_resumes (x := (s.track t).withRing ring) (c := c) (d := d) (q := q) hv.done htrack hqueue hstate hstop
    (.inr hreleased)] at hturn
  exact begins_front hv rfl rfl hturn

/-- FLAG_RELEASE and BOUNDARY at a HOLD boundary whose flag is set (R11). -/
theorem release_boundary (hqueue : (s.track t).queue = c :: d :: q) (hstate : (s.track t).state = .playing)
    (hstop : (s.track t).stop = .none) (hend : c.length ≤ (s.track t).block + 1)
    (hremains : (s.track t).playRemains c = false) (htrailing : c.trailing = false) (hnext : c.entry.next = .hold)
    (hset : s.flagSet c.entry.testFlag = true)
    (hfirst : c.entry.consume = true → ∀ j < t, s.holderOf j ≠ some (c.entry.testFlag, true)) :
    ∃ u, Acts .flagRelease s u ∧ Acts (.boundary t) s u ∧ Begins s t u d := by
  have hholds := holderOf_holdBoundary hdone hstate hqueue (by rw [hstop]; decide)
    (by rw [Copy.isHold, hnext, htrailing]; rfl) hend hremains
  obtain ⟨hdue, v, hv, hreleased, hturn⟩ := released_turn hdone hflags hholds hset hfirst
  obtain ⟨ring, htrack, -⟩ := Track.sameBut_iff.mp hv.track
  have hdone' : (flagPart (openTick s)).trackDone t = true := by
    rw [hturn.done, trackTick_trackDone, decide_eq_true rfl, Bool.true_or]
  have htakes : takeTrack t (openTick s) = flagPart (openTick s) := by
    rw [takeTrack, openTick_holderOf, hholds]
    exact trackTick_done hdone'
  have hboundary : s.boundaryDue t = true := by
    obtain ⟨-, hnow, hfade, -⟩ := (s.track t).goesOn_stop (.inl (.inl ⟨hstate, hstop⟩))
    exact boundaryDue_of hdone (.inl hstate) hnow hfade hqueue hend
  rw [trackTick_holdBoundary (x := (s.track t).withRing ring) (c := c) (q := d :: q) hv.done htrack hqueue hstate hstop
    hend hremains htrailing hnext, holdBoundary_resumes (x := (s.track t).withRing ring) (c := c) (d := d) (q := q) hstate
    hqueue hreleased] at hturn
  refine ⟨flagPart (openTick s), takePart_acts (f := fun u => flagPart (openTick u)) rfl hheld hdue, ?_,
    begins_front (y := { ((s.track t).withRing ring).releaseWalk with queue := d :: q }) hv rfl
      ((Track.releaseWalk_state _).trans hstate) hturn⟩
  rw [← htakes]
  exact takePart_acts (f := fun u => takeTrack t (openTick u)) rfl hheld hboundary

/-- FLAG_RELEASE at a start (R35). -/
theorem release_start {r : List Copy} {f : FlagId} {consume : Bool} (hqueue : (s.track t).queue = c :: r)
    (hstate : (s.track t).state = .starting) (hstart : (s.track t).start = .flag f consume) (hset : s.flagSet f = true)
    (hfirst : consume = true → ∀ j < t, s.holderOf j ≠ some (f, true)) :
    ∃ u, Acts .flagRelease s u ∧ Begins s t u c ∧ (u.track t).start = .none ∧
      (c.status = .good → ∃ n, u.notice (trackSource t) = some n ∧ n.causes.getLsbD 1 = true) := by
  obtain ⟨hdue, v, hv, hreleased, hturn⟩ := released_turn hdone hflags (holderOf_flagStart hdone hstate hstart) hset hfirst
  obtain ⟨ring, htrack, -⟩ := Track.sameBut_iff.mp hv.track
  have hbegin : trackTick t v = beginTrack t (v.turned t ((s.track t).withRing ring)) := by
    have hbegun := v.turned_track t ((s.track t).withRing ring)
    have hflag : ((s.track t).withRing ring).start = .flag f consume := hstart
    have hstarts : (v.turned t ((s.track t).withRing ring)).startsNow t = true := by
      unfold State.startsNow
      dsimp only
      rw [hbegun, hflag]
      exact hreleased
    rw [trackTick_starts hv.done (by rw [htrack]; exact hstate), v.markTrack_turned t, htrack]
    exact if_pos hstarts
  rw [hbegin] at hturn
  exact ⟨flagPart (openTick s), takePart_acts (f := fun u => flagPart (openTick u)) rfl hheld hdue,
    begins_home (y := (s.track t).withRing ring) hv hqueue hturn⟩

end

/-! ### BREAK_RELEASE (R44) -/

theorem meets_open {s : State} {t : TrackId} (hdone : s.trackDone t = false) : Meets s t (openTick s) where
  done := (openTick_trackDone s t).trans hdone
  track := by
    rw [openTick_track]
    exact .refl _
  notice := openTick_trackNotice s t
  markers := openTick_marker_mode s

/-- The track as a broken hold is released. -/
def resumed (x : Track) (r : List Copy) : Track :=
  { x.releaseWalk with state := .playing, breakPending := false, queue := r }

section
variable {s : State} {t : TrackId} {c d : Copy} {q : List Copy} (hdone : s.trackDone t = false)
  (hqueue : (s.track t).queue = c :: d :: q) (hstate : (s.track t).state = .holding)
  (hbreak : (s.track t).breakPending = true) (hstop : (s.track t).stop ≠ .now)
include hdone hqueue hstate hbreak hstop

theorem takeTrack_broken : s.breakDue t = true ∧ TrackWork t (openTick s) (takeTrack t (openTick s)) ∧
    takeTrack t (openTick s) = beginFront t (s.begun t (resumed (s.track t) (d :: q))) := by
  have hnone := holderOf_broken hstate hbreak
  refine ⟨?_, takeTrack_work hnone, ?_⟩
  · unfold State.breakDue
    rw [hdone]
    simp [hstate, hbreak, hstop]
  · rw [takeTrack_own hnone]
    exact trackTick_resumes ((openTick_trackDone s t).trans hdone) (openTick_track s t) hqueue hstate hstop (.inl hbreak)

theorem break_good (hstatus : d.status = .good) :
    ((takeTrack t (openTick s)).track t).breakPending = false ∧
      (takeTrack t (openTick s)).flags = (s.flagAction d.entry.action d.entry.actionFlag).flags ∧
      ∀ m, ((takeTrack t (openTick s)).marker m).remaining =
        if d.entry.markers.getLsbD m.1 ∧ (s.marker m).mode = .pulse then
          max ((openTick s).marker m).remaining (s.marker m).width
        else ((openTick s).marker m).remaining := by
  obtain ⟨-, -, htakes⟩ := takeTrack_broken hdone hqueue hstate hbreak hstop
  rw [htakes]
  have htrack := s.begun_track t (resumed (s.track t) (d :: q))
  have hw := Turning.begun s t (resumed (s.track t) (d :: q))
  obtain ⟨hcore, -, hflags, hmarkers, -⟩ := beginFront_begun (s := s.begun t (resumed (s.track t) (d :: q)))
    (by rw [htrack]; rfl) hstatus (by rw [htrack]; exact TrackState.noConfusion)
  rw [htrack] at hcore
  exact ⟨(congrArg Track.breakPending (blockPlayed_rest hcore) :), hflags.trans (flagAction_congr hw.flags _ _),
    fun m => (congrArg MarkerLine.remaining (hmarkers m)).trans (hw.pulsed d.entry.markers m)⟩

theorem break_bad (hstatus : d.status ≠ .good) :
    ((takeTrack t (openTick s)).track t).breakPending = false ∧ (takeTrack t (openTick s)).flags = s.flags ∧
      ∀ m, ((takeTrack t (openTick s)).marker m).remaining = ((openTick s).marker m).remaining := by
  obtain ⟨-, -, htakes⟩ := takeTrack_broken hdone hqueue hstate hbreak hstop
  rw [htakes]
  have htrack := s.begun_track t (resumed (s.track t) (d :: q))
  have hw := Turning.begun s t (resumed (s.track t) (d :: q))
  rw [beginFront_bad (s := s.begun t (resumed (s.track t) (d :: q))) (by rw [htrack]; rfl) hstatus]
  obtain ⟨hfaulted, -, hquiet, -⟩ := faultTrack_faulted t d.status.reason d.index (s.begun t (resumed (s.track t) (d :: q)))
  refine ⟨(congrArg Track.breakPending hfaulted :), hquiet.flags.trans hw.flags, fun m => ?_⟩
  rw [State.marker, hquiet.markers, ← State.marker, hw.markers]

end

/-! ### A hold that waits on (R42) -/

/-- A track that plays no block in its turn keeps all but its interpolators. -/
theorem silent_sameBut {a b u : Track} (hab : a.SameBut b) (hu : b.silent.SameBut u) :
    u.interps = Vector.replicate 4 none ∧ a.SameBut { u with interps := a.interps } := by
  obtain ⟨ring, rfl, hslots⟩ := Track.sameBut_iff.mp hab
  obtain ⟨ring', rfl, hslots'⟩ := Track.sameBut_iff.mp hu
  have hboth := Track.SameBut.trans (a := a) (b := a.withRing ring) (c := a.withRing ring') ⟨rfl, hslots⟩ ⟨rfl, hslots'⟩
  exact ⟨rfl, Track.sameBut_iff.mpr ⟨ring', rfl, hboth.2⟩⟩

theorem Track.idleTick_unmarked {x : Track} (h : x.nowMark = false) : x.idleTick = x.silent :=
  if_neg (Bool.eq_false_iff.mp h)

section
variable {s : State} {t : TrackId} {c : Copy} {r : List Copy} (hdone : s.trackDone t = false)
  (hqueue : (s.track t).queue = c :: r) (hmark : (s.track t).nowMark = false)
  (hclear : s.flagSet c.entry.testFlag = false) (hnot : s.isReleased t = false)
include hdone hqueue hmark hclear hnot

theorem hold_waits (hstate : (s.track t).state = .holding) (hbreak : (s.track t).breakPending = false)
    (hstop : (s.track t).stop ≠ .now) : ((tickStart s).track t).interps = Vector.replicate 4 none ∧
      (s.track t).SameBut { (tickStart s).track t with interps := (s.track t).interps } := by
  have hheld := judged_holds (holderOf_holding hdone hstate hqueue hbreak hstop) hclear hnot
  obtain ⟨v, hwaits, hbeside, hvdone, hvtrack, -⟩ := tickStart_ownTurn hdone
  have hreleased : v.isReleased t = false := by
    rw [State.isReleased, hwaits.released]
    exact hheld
  obtain ⟨ring, hv, hslots⟩ := Track.sameBut_iff.mp hvtrack
  have hsame := hbeside.track
  rw [trackTick_holdsOn (x := (s.track t).withRing ring) hvdone hv hstate hstop hbreak hreleased, State.turned_track,
    Track.idleTick_unmarked (x := (s.track t).withRing ring) hmark] at hsame
  exact silent_sameBut (Track.sameBut_iff.mpr ⟨ring, rfl, hslots⟩) hsame

theorem holdBoundary_waits (hstate : (s.track t).state = .playing) (hstop : (s.track t).stop = .none)
    (hend : c.length ≤ (s.track t).block + 1) (hremains : (s.track t).playRemains c = false)
    (htrailing : c.trailing = false) (hnext : c.entry.next = .hold) :
    ((takeTrack t (openTick s)).track t).interps = Vector.replicate 4 none ∧
      ({ s.track t with state := .holding } : Track).SameBut
        { (takeTrack t (openTick s)).track t with interps := (s.track t).interps } := by
  have hholds := holderOf_holdBoundary hdone hstate hqueue (by rw [hstop]; decide)
    (by rw [Copy.isHold, hnext, htrailing]; rfl) hend hremains
  have hwaits := flagPart_waiting (.inr (judged_holds hholds hclear hnot))
  have hv := meets_of_waiting hdone hwaits
  obtain ⟨ring, htrack, hslots⟩ := Track.sameBut_iff.mp hv.track
  have hreleased : (flagPart (openTick s)).isReleased t = false := by
    rw [State.isReleased, hwaits.released]
    exact judged_holds hholds hclear hnot
  have htakes : takeTrack t (openTick s) = trackTick t (flagPart (openTick s)) := by
    rw [takeTrack, openTick_holderOf, hholds]
    rfl
  rw [htakes, trackTick_holdBoundary (x := (s.track t).withRing ring) (c := c) (q := r) hv.done htrack hqueue hstate hstop
    hend hremains htrailing hnext, holdBoundary_holds (x := (s.track t).withRing ring) hstate hreleased,
    State.turned_track, Track.idleTick_unmarked (x := (s.track t).withRing ring) hmark]
  exact silent_sameBut (a := { s.track t with state := .holding })
    (b := ({ s.track t with state := .holding } : Track).withRing ring) (Track.sameBut_iff.mpr ⟨ring, rfl, hslots⟩)
    (.refl _)

end

/-- Settles O40. -/
theorem holdersAreReleased : Obligations.HoldersAreReleased := by
  unfold Obligations.HoldersAreReleased
  refine ⟨fun s hflags => ⟨judgeFlags_flagSet hflags, judgeFlags_isReleased hflags⟩, ?_⟩
  intro s t c r x first begins hheld hdone hqueue
  refine ⟨fun d q hstate hbreak hstop hflags hr hfirst => ?_,
    fun d q hstate hstop hend hremains htrailing hnext hflags hr hfirst => ?_,
    fun f consume hstate hstart hflags hfirst => ?_, fun d q hstate hbreak hstop hr => ?_,
    fun hstate hbreak hstop hmark hclear hnot => ?_,
    fun hstate hstop hend hremains htrailing hnext hmark hclear hnot => ?_⟩
  · exact release_holding hheld hdone hflags (hr ▸ hqueue) hstate hbreak hstop hfirst.1 hfirst.2
  · obtain ⟨u, hrelease, hboundary, hbegins⟩ := release_boundary hheld hdone hflags (hr ▸ hqueue) hstate hstop hend hremains
      htrailing hnext hfirst.1 hfirst.2
    exact ⟨⟨u, hrelease, hbegins⟩, u, hboundary, hbegins⟩
  · exact release_start hheld hdone hflags hqueue hstate hstart hfirst.1 hfirst.2
  · subst hr
    obtain ⟨hdue, hwork, htakes⟩ := takeTrack_broken hdone hqueue hstate hbreak hstop
    have hbegins : Begins s t (takeTrack t (openTick s)) d := begins_front (v := openTick s)
      (y := resumed (s.track t) (d :: q)) (meets_open hdone) rfl rfl (by rw [htakes]; exact .refl t _)
    refine ⟨takeTrack t (openTick s), takePart_acts (f := fun u => takeTrack t (openTick u)) rfl hheld hdue, hwork, hbegins, ?_⟩
    by_cases hstatus : d.status = .good
    · obtain ⟨hbroken, hflags, hmarkers⟩ := break_good hdone hqueue hstate hbreak hstop hstatus
      refine ⟨hbroken, hflags.trans (if_pos hstatus).symm, fun m => (hmarkers m).trans ?_⟩
      exact if_congr (and_iff_right hstatus).symm rfl rfl
    · obtain ⟨hbroken, hflags, hmarkers⟩ := break_bad hdone hqueue hstate hbreak hstop hstatus
      exact ⟨hbroken, hflags.trans (if_neg hstatus).symm,
        fun m => (hmarkers m).trans (if_neg fun h => hstatus h.1).symm⟩
  · exact ⟨tickStart s, acts_tickStart hheld, hold_waits hdone hqueue hmark hclear hnot hstate hbreak hstop⟩
  · have hboundary : s.boundaryDue t = true := by
      obtain ⟨-, hnow, hfade, -⟩ := x.goesOn_stop (.inl (.inl ⟨hstate, hstop⟩))
      exact boundaryDue_of hdone (.inl hstate) hnow hfade hqueue hend
    exact ⟨takeTrack t (openTick s), takePart_acts (f := fun u => takeTrack t (openTick u)) rfl hheld hboundary,
      holdBoundary_waits hdone hqueue hmark hclear hnot hstate hstop hend hremains htrailing hnext⟩

end Sys2Proof.Proofs.Holders

section
/-! PROOFS. Transfers and gates at a tick start (R54, R55, R90): O43. -/

namespace Sys2Proof.Machine

theorem transfer_acts {s : State} {t : TrackId} (hheld : s.held = false) (hpending : (s.track t).stagedPending = true)
    (htaken : ((takeTrack t (openTick s)).track t).stagedPending = false) :
    Acts (.transfer t) s (takeTrack t (openTick s)) := by
  refine acts_same (acts_of (f := transferPart t) rfl hheld) ?_
  unfold transferPart takePart
  dsimp only
  rw [hpending, htaken]
  rfl

/-- Without a waiting set no transfer is due (R54). -/
theorem transfer_idle {s : State} {t : TrackId} (hheld : s.held = false) (hpending : (s.track t).stagedPending = false) :
    Acts (.transfer t) s s := by
  refine acts_same (acts_of (f := transferPart t) rfl hheld) ?_
  unfold transferPart takePart
  dsimp only
  rw [hpending, Bool.false_and]
  exact if_neg Bool.false_ne_true

/-- The turn of a track within a play, as a command of its own takes it. -/
theorem takeTrack_within {s : State} {t : TrackId} {c : Copy} {r : List Copy} (hdone : s.trackDone t = false)
    (hgoes : (s.track t).goesOn ∨ ((s.track t).state = .stopping ∧ (s.track t).stop = .atEnd))
    (hqueue : (s.track t).queue = c :: r) (hwithin : (s.track t).block + 1 < c.length) :
    TrackWork t (openTick s) (takeTrack t (openTick s)) ∧
      ((takeTrack t (openTick s)).track t).core = (s.blockPlayed (s.track t).atNext c false).core := by
  have hnone : s.holderOf t = none := holderOf_goesOn ((s.track t).goesOn_stop hgoes).1 hqueue fun _ =>
    .inr (.inr (.inl (decide_eq_false (Nat.not_le_of_lt hwithin))))
  refine ⟨takeTrack_work hnone, ?_⟩
  rw [takeTrack_own hnone]
  exact (turn_within (x := s.track t) (by rw [openTick_track]; exact .refl _) (congrArg Store.clips (openTick_store s))
    ((openTick_trackDone s t).trans hdone) hgoes hqueue hwithin).1

/-- A track that waits for a trigger plays no block; a set under the NOW mark transfers unclamped (R34, R54, R90). -/
theorem takeTrack_awaits {s : State} {t : TrackId} {n : LineId} (hdone : s.trackDone t = false)
    (hstate : (s.track t).state = .starting) (hstart : (s.track t).start = .trigger n)
    (hdue : (s.track t).startDue = false) :
    takeTrack t (openTick s) = (openTick s).turned t (s.track t).idleTick := by
  have hnone : s.holderOf t = none := holderOf_starts hstate fun f consume => by
    rw [hstart]
    exact StartCond.noConfusion
  have htrack := openTick_track s t
  have hbegun := (openTick s).turned_track t (s.track t)
  have hstarts : ((openTick s).turned t (s.track t)).startsNow t = false := by
    unfold State.startsNow
    dsimp only
    rw [hbegun, hstart]
    exact hdue
  have hjumped : ((openTick s).turned t (s.track t)).jumpedOver t = false := by
    unfold State.jumpedOver
    rw [hbegun, hstart]
  rw [takeTrack_own hnone, trackTick_starts ((openTick_trackDone s t).trans hdone) (by rwa [htrack]),
    State.markTrack_turned, htrack]
  unfold startTick
  rw [hstarts, hjumped, if_neg Bool.false_ne_true, if_neg Bool.false_ne_true, State.turned_modTrack]

theorem Track.idleTick_marked {x : Track} (h : x.nowMark = true) : x.idleTick = x.transfer.silent := if_pos h

end Sys2Proof.Machine

namespace Sys2Proof.Proofs.Transfers

open Sys2Proof Sys2Proof.Machine Sys2Proof.Proofs.Holders Sys2Proof.Proofs.Successors

/-- A hold that waits on with a set under the NOW mark (R42, R54). -/
theorem hold_transfers {s : State} {t : TrackId} {c : Copy} {r : List Copy} (hdone : s.trackDone t = false)
    (hqueue : (s.track t).queue = c :: r) (hmark : (s.track t).nowMark = true) (hclear : s.flagSet c.entry.testFlag = false)
    (hnot : s.isReleased t = false) (hstate : (s.track t).state = .holding) (hbreak : (s.track t).breakPending = false)
    (hstop : (s.track t).stop ≠ .now) :
    ((takeTrack t (openTick s)).track t).interps = Vector.replicate 4 none ∧
      (s.track t).transfer.SameBut
        { (takeTrack t (openTick s)).track t with interps := (s.track t).transfer.interps } := by
  have hholds := holderOf_holding hdone hstate hqueue hbreak hstop
  have hwaits := flagPart_waiting (.inr (judged_holds hholds hclear hnot))
  have hv := meets_of_waiting hdone hwaits
  obtain ⟨ring, htrack, hslots⟩ := Track.sameBut_iff.mp hv.track
  have hreleased : (flagPart (openTick s)).isReleased t = false := by
    rw [State.isReleased, hwaits.released]
    exact judged_holds hholds hclear hnot
  have htakes : takeTrack t (openTick s) = trackTick t (flagPart (openTick s)) := by
    rw [takeTrack, openTick_holderOf, hholds]
    rfl
  rw [htakes, trackTick_holdsOn (x := (s.track t).withRing ring) hv.done htrack hstate hstop hbreak hreleased,
    State.turned_track, Track.idleTick_marked (x := (s.track t).withRing ring) hmark]
  refine silent_sameBut (a := (s.track t).transfer) (b := ((s.track t).withRing ring).transfer) ?_ (.refl _)
  refine Track.sameBut_iff.mpr ⟨ring, Track.transfer_withRing _ ring, ?_⟩
  rwa [(congrArg Track.ring (s.track t).transfer_rest :)]

/-- The entry behind begins at the boundary of an entry that leads to its next index (R6, R40). -/
theorem takeTrack_next {s : State} {t : TrackId} {c d : Copy} {q : List Copy} (hdone : s.trackDone t = false)
    (hgoes : (s.track t).goesOn) (hqueue : (s.track t).queue = c :: d :: q) (hend : c.length ≤ (s.track t).block + 1)
    (hremains : (s.track t).playRemains c = false) (htrailing : c.trailing = false) (hnext : c.entry.next = .next)
    (hstatus : d.status = .good) : s.boundaryDue t = true ∧ ((takeTrack t (openTick s)).track t).core =
      (s.blockPlayed ({ fading (s.track t) with queue := d :: q } : Track).atStart d true).core := by
  have hhold : c.isHold = false := by
    rw [Copy.isHold, hnext]
    exact Bool.and_false _
  have hplain : c.entry.isLateBranch = false := by
    rw [CueEntry.isLateBranch, hnext]
    exact Bool.and_false _
  obtain ⟨-, hdue, htakes⟩ := takeTrack_follows hdone hgoes hqueue hend hremains hhold
  refine ⟨hdue, ?_⟩
  have hfront : takeTrack t (openTick s) = beginFront t (s.begun t { fading (s.track t) with queue := d :: q }) :=
    (htakes.trans (followEntry_plain htrailing hplain (.inl hnext))).trans
      (beginNext_turned (s := openTick s) (x := fading (s.track t)) hqueue id)
  have htrack := s.begun_track t { fading (s.track t) with queue := d :: q }
  have hclips := (Turning.begun s t { fading (s.track t) with queue := d :: q }).clips
  have hplays : (s.track t).state ≠ .priming := by
    obtain ⟨h, -⟩ | ⟨h, -⟩ := hgoes <;> exact fun h' => absurd (h.symm.trans h') (by decide)
  have hcore := (beginFront_begun (by rw [htrack]) hstatus (by rw [htrack]; exact hplays)).core
  rw [hfront]
  rwa [htrack, blockPlayed_congr hclips] at hcore

/-- Settles O43. -/
theorem transferAndGateAtATickStart : Obligations.TransferAndGateAtATickStart := by
  unfold Obligations.TransferAndGateAtATickStart
  refine ⟨fun x => ⟨x.transfer_none, x.transfer_pending⟩, ?_⟩
  intro s t c r x limit clamp hheld hdone
  refine ⟨transfer_idle hheld, fun hgoes hqueue hwithin hpending hmark => ?_,
    fun n hstate hstart hdue hpending hmark => ?_,
    fun hstate hqueue hbreak hstop hpending hmark hclear hnot => ?_,
    fun d q hgoes hqueue hr hend hremains htrailing hnext hstatus => ?_,
    fun hgoes hqueue hwithin hset hon hoff hreached => ?_⟩
  · obtain ⟨hwork, hcore⟩ := takeTrack_within hdone hgoes hqueue hwithin
    have hrest := blockPlayed_rest hcore
    have htakes : x.atNext.takesSet c false = true := by
      rw [Track.takesSet_within]
      exact Bool.and_eq_true_iff.mpr ⟨hmark, hpending⟩
    obtain ⟨hactive, hnco⟩ := blockPlayed_clamped hcore (by rw [htakes]; rfl)
    obtain ⟨hstaged, hnow, hgate⟩ := (blockPlayed_marks hcore).1 htakes
    rw [if_pos htakes] at hactive hnco
    exact ⟨_, transfer_acts hheld hpending hstaged, hwork, (congrArg Track.block hrest :), hactive,
      (congrArg Track.staged hrest :), hstaged, hnow, hgate, hnco⟩
  · have htakes := takeTrack_awaits hdone hstate hstart hdue
    rw [Track.idleTick_marked hmark] at htakes
    refine ⟨_, transfer_acts hheld hpending ?_, htakes⟩
    rw [htakes, State.turned_track]
    exact Track.transfer_stagedPending _
  · have hkept := hold_transfers hdone hqueue hmark hclear hnot hstate hbreak hstop
    refine ⟨_, transfer_acts hheld hpending ?_, hkept⟩
    exact (congrArg Track.stagedPending hkept.2.1 :).trans (Track.transfer_stagedPending _)
  · intro moved p bound clamped
    subst hr
    obtain ⟨hdue, hcore⟩ := takeTrack_next hdone hgoes hqueue hend hremains htrailing hnext hstatus
    have hmoved : ({ fading x with queue := d :: q } : Track).atStart.takesSet d true = true ↔ moved :=
      Track.takesSet_start _ d
    have hp : (if ({ fading x with queue := d :: q } : Track).atStart.takesSet d true then x.staged else x.active) = p :=
      if_congr hmoved rfl rfl
    have hclamped : ∀ a,
        (if ({ fading x with queue := d :: q } : Track).atStart.takesSet d true then x.staged else x.active) = a →
        ((takeTrack t (openTick s)).track t).active =
            { a with detune := s.clampedDetune d.entry (s.clampedDetune d.entry a.detune + a.sweep) } ∧
          ((takeTrack t (openTick s)).track t).nco =
            x.nco + 4096 * ncoWord (d.entry.freq + s.clampedDetune d.entry a.detune) := by
      rintro _ rfl
      exact blockPlayed_clamped hcore (Bool.or_true _)
    obtain ⟨hactive, hnco⟩ := hclamped p hp
    obtain ⟨hset, hwaits⟩ := blockPlayed_marks hcore
    exact ⟨takeTrack t (openTick s), takePart_acts (f := fun u => takeTrack t (openTick u)) rfl hheld hdue,
      (congrArg Track.staged (blockPlayed_rest hcore) :), hactive, hnco, fun h => hset (hmoved.mpr h),
      fun h => hwaits (Bool.eq_false_iff.mpr fun htakes => h (hmoved.mp htakes))⟩
  · obtain ⟨hwork, hcore⟩ := takeTrack_within hdone hgoes hqueue hwithin
    obtain ⟨-, -, -, hphase, hcounter, -⟩ := blockPlayed_within hcore (Track.takesSet_waits c (x := x.atNext) hset)
    have hturns : x.gateNext = (x.gatePhase.other, 0) := (x.gateNext_cases.2 hon hoff).trans (if_pos hreached)
    have hother : x.gatePhase.other = if x.gatePhase = .on then .off else .on := by cases x.gatePhase <;> rfl
    have hphase' : ((takeTrack t (openTick s)).track t).gatePhase = x.gatePhase.other :=
      hphase.trans (congrArg Prod.fst hturns)
    refine ⟨takeTrack t (openTick s), ?_, hwork, (congrArg Track.block (blockPlayed_rest hcore) :), hphase'.trans hother,
      hcounter.trans (congrArg Prod.snd hturns)⟩
    refine acts_same (acts_of (f := gatePart t) rfl hheld) ?_
    unfold gatePart takePart
    dsimp only
    rw [hphase', decide_eq_true (x.gatePhase.other_ne), Bool.and_true]
    refine if_pos ?_
    unfold State.playsOn
    rw [hdone]
    obtain h | h := (x.goesOn_stop hgoes).1 <;> simp [show (s.track t).state = _ from h]

end Sys2Proof.Proofs.Transfers
end
